-- ==== Sys2Proof/Word.lean ====
section
/-! DEFINITION. The word types of the device: bytes, the 64-bit scalar, the 32-bit lane and the 64-lane vector
(spec/01 R8, R10). Only names; every operation on them is defined in `Sys2Proof/Machine/`. -/

namespace Sys2Proof

/-- A byte of memory. -/
abbrev Byte := BitVec 8

/-- A scalar register, port or control register (R8, R10, R16). -/
abbrev Word := BitVec 64

/-- One lane of a vector (R143). -/
abbrev Lane := BitVec 32

/-- A vector register or port: 64 lanes of 32 bits, lane `i` in bits `[32i+31:32i]` (R143). -/
abbrev Vec := BitVec 2048

/-- A 24-bit slot word of a bundle (R56, R57). -/
abbrev SlotWord := BitVec 24

/-- A bundle: eight slots, slot `s` in bits `[24s+23:24s]` (R56). -/
abbrev Bundle := BitVec 192

/-- A Fuller micro-instruction word (R252). -/
abbrev FullerWord := BitVec 32

/-- What a correctable-error freeze stops (R266): a core with its engines, a die courier, or the Fuller of a die. -/
inductive Freezable where
  | core (c : Nat)
  | dieCourier (d k : Nat)
  | fuller (d : Nat)
  deriving DecidableEq, Repr

end Sys2Proof
end

