-- ==== Sys2Proof/Syntax.lean ====
section
/-! DEFINITION. The instruction syntax: one constructor per row of the opcode table. Slot rows carry the fields of
a slot word (R57: `n` inverts the guard, `g` names the guard predicate, `s` the source code; `u` the unit of a
doubled unit), Fuller rows the fields of a micro-instruction (R252), and event rows name the agent or the value
the outside world supplies. -/

namespace Sys2Proof

/-- The operations and events of the device, one constructor per row of the opcode table. -/
inductive Instr where
  /-- MOVE (R69). -/
  | move (n : BitVec 1) (g : BitVec 4) (s : BitVec 9) (d : BitVec 10)
  /-- LIMM (R62). -/
  | limm (n : BitVec 1) (g : BitVec 4) (d : BitVec 10)
  /-- LIMMU (R62). -/
  | limmu (n : BitVec 1) (g : BitVec 4) (d : BitVec 10)
  /-- JMP (R103). -/
  | jmp (n : BitVec 1) (g : BitVec 4) (s : BitVec 9)
  /-- JMPI (R103). -/
  | jmpi (n : BitVec 1) (g : BitVec 4) (s : BitVec 9)
  /-- CALL (R104). -/
  | call (n : BitVec 1) (g : BitVec 4) (s : BitVec 9)
  /-- CALLI (R104). -/
  | calli (n : BitVec 1) (g : BitVec 4) (s : BitVec 9)
  /-- RET (R103). -/
  | ret (n : BitVec 1) (g : BitVec 4) (s : BitVec 9)
  /-- LOOP (R105). -/
  | loop (n : BitVec 1) (g : BitVec 4) (s : BitVec 9)
  /-- LEAVE (R107). -/
  | leave (n : BitVec 1) (g : BitVec 4) (s : BitVec 9)
  /-- WAITC (R108). -/
  | waitc (n : BitVec 1) (g : BitVec 4) (s : BitVec 9)
  /-- NEXTT (R109). -/
  | nextt (n : BitVec 1) (g : BitVec 4) (s : BitVec 9)
  /-- DONET (R110). -/
  | donet (n : BitVec 1) (g : BitVec 4) (s : BitVec 9)
  /-- SYSC (R111). -/
  | sysc (n : BitVec 1) (g : BitVec 4) (s : BitVec 9)
  /-- ERET (R113). -/
  | eret (n : BitVec 1) (g : BitVec 4) (s : BitVec 9)
  /-- BRK (R112). -/
  | brk (n : BitVec 1) (g : BitVec 4) (s : BitVec 9)
  /-- CSRR (R114). -/
  | csrr (n : BitVec 1) (g : BitVec 4) (s : BitVec 9)
  /-- CSRW (R115). -/
  | csrw (n : BitVec 1) (g : BitVec 4) (s : BitVec 9)
  /-- CSRS (R115). -/
  | csrs (n : BitVec 1) (g : BitVec 4) (s : BitVec 9)
  /-- CSRC (R115). -/
  | csrc (n : BitVec 1) (g : BitVec 4) (s : BitVec 9)
  /-- IFENCE (R116). -/
  | ifence (n : BitVec 1) (g : BitVec 4) (s : BitVec 9)
  /-- PMARK (R117). -/
  | pmark (n : BitVec 1) (g : BitVec 4) (s : BitVec 9)
  /-- ADD (R119). -/
  | add (n : BitVec 1) (g : BitVec 4) (s : BitVec 9) (u : BitVec 2)
  /-- SUB (R119). -/
  | sub (n : BitVec 1) (g : BitVec 4) (s : BitVec 9) (u : BitVec 2)
  /-- MUL (R119). -/
  | mul (n : BitVec 1) (g : BitVec 4) (s : BitVec 9) (u : BitVec 2)
  /-- MULH (R119). -/
  | mulh (n : BitVec 1) (g : BitVec 4) (s : BitVec 9) (u : BitVec 2)
  /-- MULHU (R119). -/
  | mulhu (n : BitVec 1) (g : BitVec 4) (s : BitVec 9) (u : BitVec 2)
  /-- DIV (R120). -/
  | div (n : BitVec 1) (g : BitVec 4) (s : BitVec 9) (u : BitVec 2)
  /-- DIVU (R120). -/
  | divu (n : BitVec 1) (g : BitVec 4) (s : BitVec 9) (u : BitVec 2)
  /-- REM (R120). -/
  | rem (n : BitVec 1) (g : BitVec 4) (s : BitVec 9) (u : BitVec 2)
  /-- REMU (R120). -/
  | remu (n : BitVec 1) (g : BitVec 4) (s : BitVec 9) (u : BitVec 2)
  /-- AND (R119). -/
  | iaAnd (n : BitVec 1) (g : BitVec 4) (s : BitVec 9) (u : BitVec 2)
  /-- OR (R119). -/
  | iaOr (n : BitVec 1) (g : BitVec 4) (s : BitVec 9) (u : BitVec 2)
  /-- XOR (R119). -/
  | iaXor (n : BitVec 1) (g : BitVec 4) (s : BitVec 9) (u : BitVec 2)
  /-- ANDN (R119). -/
  | andn (n : BitVec 1) (g : BitVec 4) (s : BitVec 9) (u : BitVec 2)
  /-- SHL (R119). -/
  | shl (n : BitVec 1) (g : BitVec 4) (s : BitVec 9) (u : BitVec 2)
  /-- SHR (R119). -/
  | shr (n : BitVec 1) (g : BitVec 4) (s : BitVec 9) (u : BitVec 2)
  /-- SAR (R119). -/
  | sar (n : BitVec 1) (g : BitVec 4) (s : BitVec 9) (u : BitVec 2)
  /-- ROL (R119). -/
  | rol (n : BitVec 1) (g : BitVec 4) (s : BitVec 9) (u : BitVec 2)
  /-- CLZ (R119). -/
  | clz (n : BitVec 1) (g : BitVec 4) (s : BitVec 9) (u : BitVec 2)
  /-- CTZ (R119). -/
  | ctz (n : BitVec 1) (g : BitVec 4) (s : BitVec 9) (u : BitVec 2)
  /-- POPC (R119). -/
  | popc (n : BitVec 1) (g : BitVec 4) (s : BitVec 9) (u : BitVec 2)
  /-- MIN (R119). -/
  | iaMin (n : BitVec 1) (g : BitVec 4) (s : BitVec 9) (u : BitVec 2)
  /-- MAX (R119). -/
  | iaMax (n : BitVec 1) (g : BitVec 4) (s : BitVec 9) (u : BitVec 2)
  /-- MINU (R119). -/
  | minu (n : BitVec 1) (g : BitVec 4) (s : BitVec 9) (u : BitVec 2)
  /-- MAXU (R119). -/
  | maxu (n : BitVec 1) (g : BitVec 4) (s : BitVec 9) (u : BitVec 2)
  /-- SEXT (R121). -/
  | sext (n : BitVec 1) (g : BitVec 4) (s : BitVec 9) (u : BitVec 2)
  /-- ZEXT (R121). -/
  | zext (n : BitVec 1) (g : BitVec 4) (s : BitVec 9) (u : BitVec 2)
  /-- CMPEQ (R119). -/
  | cmpeq (n : BitVec 1) (g : BitVec 4) (s : BitVec 9) (u : BitVec 2)
  /-- CMPNE (R119). -/
  | cmpne (n : BitVec 1) (g : BitVec 4) (s : BitVec 9) (u : BitVec 2)
  /-- CMPLT (R119). -/
  | cmplt (n : BitVec 1) (g : BitVec 4) (s : BitVec 9) (u : BitVec 2)
  /-- CMPLTU (R119). -/
  | cmpltu (n : BitVec 1) (g : BitVec 4) (s : BitVec 9) (u : BitVec 2)
  /-- CMPLE (R119). -/
  | cmple (n : BitVec 1) (g : BitVec 4) (s : BitVec 9) (u : BitVec 2)
  /-- CMPLEU (R119). -/
  | cmpleu (n : BitVec 1) (g : BitVec 4) (s : BitVec 9) (u : BitVec 2)
  /-- SEL (R119). -/
  | sel (n : BitVec 1) (g : BitVec 4) (s : BitVec 9) (u : BitVec 2)
  /-- BFX (R121). -/
  | bfx (n : BitVec 1) (g : BitVec 4) (s : BitVec 9) (u : BitVec 2)
  /-- BFI (R121). -/
  | bfi (n : BitVec 1) (g : BitVec 4) (s : BitVec 9) (u : BitVec 2)
  /-- MADD (R119). -/
  | madd (n : BitVec 1) (g : BitVec 4) (s : BitVec 9) (u : BitVec 2)
  /-- LEA (R119). -/
  | lea (n : BitVec 1) (g : BitVec 4) (s : BitVec 9) (u : BitVec 2)
  /-- ABS (R119). -/
  | abs (n : BitVec 1) (g : BitVec 4) (s : BitVec 9) (u : BitVec 2)
  /-- LD_B (R127). -/
  | ldB (n : BitVec 1) (g : BitVec 4) (s : BitVec 9)
  /-- LD_BU (R127). -/
  | ldBu (n : BitVec 1) (g : BitVec 4) (s : BitVec 9)
  /-- LD_H (R127). -/
  | ldH (n : BitVec 1) (g : BitVec 4) (s : BitVec 9)
  /-- LD_HU (R127). -/
  | ldHu (n : BitVec 1) (g : BitVec 4) (s : BitVec 9)
  /-- LD_W (R127). -/
  | ldW (n : BitVec 1) (g : BitVec 4) (s : BitVec 9)
  /-- LD_WU (R127). -/
  | ldWu (n : BitVec 1) (g : BitVec 4) (s : BitVec 9)
  /-- LD_D (R127). -/
  | ldD (n : BitVec 1) (g : BitVec 4) (s : BitVec 9)
  /-- ST_B (R127). -/
  | stB (n : BitVec 1) (g : BitVec 4) (s : BitVec 9)
  /-- ST_H (R127). -/
  | stH (n : BitVec 1) (g : BitVec 4) (s : BitVec 9)
  /-- ST_W (R127). -/
  | stW (n : BitVec 1) (g : BitVec 4) (s : BitVec 9)
  /-- ST_D (R127). -/
  | stD (n : BitVec 1) (g : BitVec 4) (s : BitVec 9)
  /-- LDV (R128). -/
  | ldv (n : BitVec 1) (g : BitVec 4) (s : BitVec 9)
  /-- LDVS (R128). -/
  | ldvs (n : BitVec 1) (g : BitVec 4) (s : BitVec 9)
  /-- LDVG (R128). -/
  | ldvg (n : BitVec 1) (g : BitVec 4) (s : BitVec 9)
  /-- STV (R128). -/
  | stv (n : BitVec 1) (g : BitVec 4) (s : BitVec 9)
  /-- STVS (R128). -/
  | stvs (n : BitVec 1) (g : BitVec 4) (s : BitVec 9)
  /-- STVG (R128). -/
  | stvg (n : BitVec 1) (g : BitVec 4) (s : BitVec 9)
  /-- AADD (R131). -/
  | aadd (n : BitVec 1) (g : BitVec 4) (s : BitVec 9)
  /-- AMIN (R131). -/
  | amin (n : BitVec 1) (g : BitVec 4) (s : BitVec 9)
  /-- AMAX (R131). -/
  | amax (n : BitVec 1) (g : BitVec 4) (s : BitVec 9)
  /-- AAND (R131). -/
  | aand (n : BitVec 1) (g : BitVec 4) (s : BitVec 9)
  /-- AOR (R131). -/
  | aor (n : BitVec 1) (g : BitVec 4) (s : BitVec 9)
  /-- AXOR (R131). -/
  | axor (n : BitVec 1) (g : BitVec 4) (s : BitVec 9)
  /-- ASWP (R131). -/
  | aswp (n : BitVec 1) (g : BitVec 4) (s : BitVec 9)
  /-- ACAS (R131). -/
  | acas (n : BitVec 1) (g : BitVec 4) (s : BitVec 9)
  /-- PUB_D (R133). -/
  | pubD (n : BitVec 1) (g : BitVec 4) (s : BitVec 9)
  /-- PUB_P (R133). -/
  | pubP (n : BitVec 1) (g : BitVec 4) (s : BitVec 9)
  /-- PUB_S (R133). -/
  | pubS (n : BitVec 1) (g : BitVec 4) (s : BitVec 9)
  /-- ACQ_D (R134). -/
  | acqD (n : BitVec 1) (g : BitVec 4) (s : BitVec 9)
  /-- ACQ_P (R134). -/
  | acqP (n : BitVec 1) (g : BitVec 4) (s : BitVec 9)
  /-- ACQ_S (R134). -/
  | acqS (n : BitVec 1) (g : BitVec 4) (s : BitVec 9)
  /-- VJOIN (R130). -/
  | vjoin (n : BitVec 1) (g : BitVec 4) (s : BitVec 9)
  /-- XLPRE (R135). -/
  | xlpre (n : BitVec 1) (g : BitVec 4) (s : BitVec 9)
  /-- FADD (R148). -/
  | fadd (n : BitVec 1) (g : BitVec 4) (s : BitVec 9) (u : BitVec 1)
  /-- FSUB (R148). -/
  | fsub (n : BitVec 1) (g : BitVec 4) (s : BitVec 9) (u : BitVec 1)
  /-- FMUL (R148). -/
  | fmul (n : BitVec 1) (g : BitVec 4) (s : BitVec 9) (u : BitVec 1)
  /-- FMA (R149). -/
  | fma (n : BitVec 1) (g : BitVec 4) (s : BitVec 9) (u : BitVec 1)
  /-- FMS (R149). -/
  | fms (n : BitVec 1) (g : BitVec 4) (s : BitVec 9) (u : BitVec 1)
  /-- FMIN (R150). -/
  | fmin (n : BitVec 1) (g : BitVec 4) (s : BitVec 9) (u : BitVec 1)
  /-- FMAX (R150). -/
  | fmax (n : BitVec 1) (g : BitVec 4) (s : BitVec 9) (u : BitVec 1)
  /-- FABS (R150). -/
  | fabs (n : BitVec 1) (g : BitVec 4) (s : BitVec 9) (u : BitVec 1)
  /-- FNEG (R150). -/
  | fneg (n : BitVec 1) (g : BitVec 4) (s : BitVec 9) (u : BitVec 1)
  /-- FCMP_EQ (R151). -/
  | fcmpEq (n : BitVec 1) (g : BitVec 4) (s : BitVec 9) (u : BitVec 1)
  /-- FCMP_LT (R151). -/
  | fcmpLt (n : BitVec 1) (g : BitVec 4) (s : BitVec 9) (u : BitVec 1)
  /-- FCMP_LE (R151). -/
  | fcmpLe (n : BitVec 1) (g : BitVec 4) (s : BitVec 9) (u : BitVec 1)
  /-- FCMP_UN (R151). -/
  | fcmpUn (n : BitVec 1) (g : BitVec 4) (s : BitVec 9) (u : BitVec 1)
  /-- FSEL (R152). -/
  | fsel (n : BitVec 1) (g : BitVec 4) (s : BitVec 9) (u : BitVec 1)
  /-- IADD (R153). -/
  | iadd (n : BitVec 1) (g : BitVec 4) (s : BitVec 9) (u : BitVec 1)
  /-- ISUB (R153). -/
  | isub (n : BitVec 1) (g : BitVec 4) (s : BitVec 9) (u : BitVec 1)
  /-- IMUL (R153). -/
  | imul (n : BitVec 1) (g : BitVec 4) (s : BitVec 9) (u : BitVec 1)
  /-- IMULH (R153). -/
  | imulh (n : BitVec 1) (g : BitVec 4) (s : BitVec 9) (u : BitVec 1)
  /-- IAND (R153). -/
  | iand (n : BitVec 1) (g : BitVec 4) (s : BitVec 9) (u : BitVec 1)
  /-- IOR (R153). -/
  | ior (n : BitVec 1) (g : BitVec 4) (s : BitVec 9) (u : BitVec 1)
  /-- IXOR (R153). -/
  | ixor (n : BitVec 1) (g : BitVec 4) (s : BitVec 9) (u : BitVec 1)
  /-- ISHL (R153). -/
  | ishl (n : BitVec 1) (g : BitVec 4) (s : BitVec 9) (u : BitVec 1)
  /-- ISHR (R153). -/
  | ishr (n : BitVec 1) (g : BitVec 4) (s : BitVec 9) (u : BitVec 1)
  /-- ISAR (R153). -/
  | isar (n : BitVec 1) (g : BitVec 4) (s : BitVec 9) (u : BitVec 1)
  /-- IMIN (R153). -/
  | imin (n : BitVec 1) (g : BitVec 4) (s : BitVec 9) (u : BitVec 1)
  /-- IMAX (R153). -/
  | imax (n : BitVec 1) (g : BitVec 4) (s : BitVec 9) (u : BitVec 1)
  /-- IMINU (R153). -/
  | iminu (n : BitVec 1) (g : BitVec 4) (s : BitVec 9) (u : BitVec 1)
  /-- IMAXU (R153). -/
  | imaxu (n : BitVec 1) (g : BitVec 4) (s : BitVec 9) (u : BitVec 1)
  /-- ICMP_EQ (R154). -/
  | icmpEq (n : BitVec 1) (g : BitVec 4) (s : BitVec 9) (u : BitVec 1)
  /-- ICMP_LT (R154). -/
  | icmpLt (n : BitVec 1) (g : BitVec 4) (s : BitVec 9) (u : BitVec 1)
  /-- ICMP_LTU (R154). -/
  | icmpLtu (n : BitVec 1) (g : BitVec 4) (s : BitVec 9) (u : BitVec 1)
  /-- CVT (R156). -/
  | cvt (n : BitVec 1) (g : BitVec 4) (s : BitVec 9) (u : BitVec 1)
  /-- PACK (R158). -/
  | pack (n : BitVec 1) (g : BitVec 4) (s : BitVec 9) (u : BitVec 1)
  /-- UNPACK (R159). -/
  | unpack (n : BitVec 1) (g : BitVec 4) (s : BitVec 9) (u : BitVec 1)
  /-- BCAST (R160). -/
  | bcast (n : BitVec 1) (g : BitVec 4) (s : BitVec 9) (u : BitVec 1)
  /-- LANE (R160). -/
  | lane (n : BitVec 1) (g : BitVec 4) (s : BitVec 9) (u : BitVec 1)
  /-- MAND (R163). -/
  | mand (n : BitVec 1) (g : BitVec 4) (s : BitVec 9) (u : BitVec 1)
  /-- MOR (R163). -/
  | mor (n : BitVec 1) (g : BitVec 4) (s : BitVec 9) (u : BitVec 1)
  /-- MNOT (R163). -/
  | mnot (n : BitVec 1) (g : BitVec 4) (s : BitVec 9) (u : BitVec 1)
  /-- RCP (R164). -/
  | rcp (n : BitVec 1) (g : BitVec 4) (s : BitVec 9)
  /-- RSQ (R164). -/
  | rsq (n : BitVec 1) (g : BitVec 4) (s : BitVec 9)
  /-- SQRT (R164). -/
  | sqrt (n : BitVec 1) (g : BitVec 4) (s : BitVec 9)
  /-- EXP2 (R164). -/
  | exp2 (n : BitVec 1) (g : BitVec 4) (s : BitVec 9)
  /-- LOG2 (R164). -/
  | log2 (n : BitVec 1) (g : BitVec 4) (s : BitVec 9)
  /-- TANH (R164). -/
  | tanh (n : BitVec 1) (g : BitVec 4) (s : BitVec 9)
  /-- SIGM (R164). -/
  | sigm (n : BitVec 1) (g : BitVec 4) (s : BitVec 9)
  /-- SILU (R164). -/
  | silu (n : BitVec 1) (g : BitVec 4) (s : BitVec 9)
  /-- GELUT (R164). -/
  | gelut (n : BitVec 1) (g : BitVec 4) (s : BitVec 9)
  /-- RMAX (R166). -/
  | rmax (n : BitVec 1) (g : BitVec 4) (s : BitVec 9)
  /-- RMIN (R166). -/
  | rmin (n : BitVec 1) (g : BitVec 4) (s : BitVec 9)
  /-- RSUM (R167). -/
  | rsum (n : BitVec 1) (g : BitVec 4) (s : BitVec 9)
  /-- TWOSUM (R168). -/
  | twosum (n : BitVec 1) (g : BitVec 4) (s : BitVec 9)
  /-- PERM (R161). -/
  | perm (n : BitVec 1) (g : BitVec 4) (s : BitVec 9)
  /-- SHUF (R162). -/
  | shuf (n : BitVec 1) (g : BitVec 4) (s : BitVec 9)
  /-- RNG (R170). -/
  | rng (n : BitVec 1) (g : BitVec 4) (s : BitVec 9)
  /-- DROPM (R171). -/
  | dropm (n : BitVec 1) (g : BitVec 4) (s : BitVec 9)
  /-- WLD (R178). -/
  | wld (n : BitVec 1) (g : BitVec 4) (s : BitVec 9)
  /-- WFMT (R177). -/
  | wfmt (n : BitVec 1) (g : BitVec 4) (s : BitVec 9)
  /-- MODE (R179). -/
  | mode (n : BitVec 1) (g : BitVec 4) (s : BitVec 9)
  /-- SCALE (R182). -/
  | scale (n : BitVec 1) (g : BitVec 4) (s : BitVec 9)
  /-- STRM (R180). -/
  | strm (n : BitVec 1) (g : BitVec 4) (s : BitVec 9)
  /-- ACCZ (R187). -/
  | accz (n : BitVec 1) (g : BitVec 4) (s : BitVec 9)
  /-- DRAIN (R189). -/
  | drain (n : BitVec 1) (g : BitVec 4) (s : BitVec 9)
  /-- DFN (R188). -/
  | dfn (n : BitVec 1) (g : BitVec 4) (s : BitVec 9)
  /-- SPAR (R185). -/
  | spar (n : BitVec 1) (g : BitVec 4) (s : BitVec 9)
  /-- ADMIT (R195). -/
  | mxAdmit (n : BitVec 1) (g : BitVec 4) (s : BitVec 9)
  /-- MXST (R198). -/
  | mxst (n : BitVec 1) (g : BitVec 4) (s : BitVec 9)
  /-- WGSTEP (R184). -/
  | wgstep (n : BitVec 1) (g : BitVec 4) (s : BitVec 9)
  /-- SALLOC (R204). -/
  | salloc (n : BitVec 1) (g : BitVec 4) (s : BitVec 9)
  /-- SADD (R207). -/
  | sadd (n : BitVec 1) (g : BitVec 4) (s : BitVec 9)
  /-- SSUB (R207). -/
  | ssub (n : BitVec 1) (g : BitVec 4) (s : BitVec 9)
  /-- SRDN (R210). -/
  | srdn (n : BitVec 1) (g : BitVec 4) (s : BitVec 9)
  /-- SRHO (R211). -/
  | srho (n : BitVec 1) (g : BitVec 4) (s : BitVec 9)
  /-- SFENCE_L (R212). -/
  | sfenceL (n : BitVec 1) (g : BitVec 4) (s : BitVec 9)
  /-- SFENCE_D (R212). -/
  | sfenceD (n : BitVec 1) (g : BitVec 4) (s : BitVec 9)
  /-- SFENCE_P (R212). -/
  | sfenceP (n : BitVec 1) (g : BitVec 4) (s : BitVec 9)
  /-- SEVICT (R216). -/
  | sevict (n : BitVec 1) (g : BitVec 4) (s : BitVec 9)
  /-- SRESTORE (R217). -/
  | srestore (n : BitVec 1) (g : BitVec 4) (s : BitVec 9)
  /-- SWRAP (R211). -/
  | swrap (n : BitVec 1) (g : BitVec 4) (s : BitVec 9)
  /-- SGAIN (R205). -/
  | sgain (n : BitVec 1) (g : BitVec 4) (s : BitVec 9)
  /-- SEPS (R205). -/
  | seps (n : BitVec 1) (g : BitVec 4) (s : BitVec 9)
  /-- SVIEW (R216). -/
  | sview (n : BitVec 1) (g : BitVec 4) (s : BitVec 9)
  /-- CPY (R233). -/
  | cpy (n : BitVec 1) (g : BitVec 4) (s : BitVec 9)
  /-- CPYMX (R234). -/
  | cpymx (n : BitVec 1) (g : BitVec 4) (s : BitVec 9)
  /-- SEQ (R235). -/
  | seq (n : BitVec 1) (g : BitVec 4) (s : BitVec 9)
  /-- SEQGO (R236). -/
  | seqgo (n : BitVec 1) (g : BitVec 4) (s : BitVec 9)
  /-- WPR (R240). -/
  | wpr (n : BitVec 1) (g : BitVec 4) (s : BitVec 9)
  /-- WPWAIT (R240). -/
  | wpwait (n : BitVec 1) (g : BitVec 4) (s : BitVec 9)
  /-- CPADD (R237). -/
  | cpadd (n : BitVec 1) (g : BitVec 4) (s : BitVec 9)
  /-- CPRED (R238). -/
  | cpred (n : BitVec 1) (g : BitVec 4) (s : BitVec 9)
  /-- CPBC (R239). -/
  | cpbc (n : BitVec 1) (g : BitVec 4) (s : BitVec 9)
  /-- CQSTAT (R241). -/
  | cqstat (n : BitVec 1) (g : BitVec 4) (s : BitVec 9)
  /-- TBINIT (R137). -/
  | tbinit (n : BitVec 1) (g : BitVec 4) (s : BitVec 9)
  /-- TBARR (R137). -/
  | tbarr (n : BitVec 1) (g : BitVec 4) (s : BitVec 9)
  /-- TBEXP (R137). -/
  | tbexp (n : BitVec 1) (g : BitVec 4) (s : BitVec 9)
  /-- TBWAIT (R138). -/
  | tbwait (n : BitVec 1) (g : BitVec 4) (s : BitVec 9)
  /-- TBTEST (R139). -/
  | tbtest (n : BitVec 1) (g : BitVec 4) (s : BitVec 9)
  /-- TKALN (R140). -/
  | tkaln (n : BitVec 1) (g : BitVec 4) (s : BitVec 9)
  /-- TKRD (R141). -/
  | tkrd (n : BitVec 1) (g : BitVec 4) (s : BitVec 9)
  /-- PHSEND (R243). -/
  | phsend (n : BitVec 1) (g : BitVec 4) (s : BitVec 9)
  /-- PHRECV (R244). -/
  | phrecv (n : BitVec 1) (g : BitVec 4) (s : BitVec 9)
  /-- FJOB (R246). -/
  | fjob (n : BitVec 1) (g : BitVec 4) (s : BitVec 9)
  /-- FJWAIT (R248). -/
  | fjwait (n : BitVec 1) (g : BitVec 4) (s : BitVec 9)
  /-- FJSTAT (R249). -/
  | fjstat (n : BitVec 1) (g : BitVec 4) (s : BitVec 9)
  /-- FPROG (R250). -/
  | fprog (n : BitVec 1) (g : BitVec 4) (s : BitVec 9)
  /-- FULLER_END (R252). -/
  | fullerEnd
  /-- FULLER_FADD (R252). -/
  | fullerFadd (d : BitVec 4) (a : BitVec 4) (b : BitVec 4) (r : BitVec 3)
  /-- FULLER_FSUB (R252). -/
  | fullerFsub (d : BitVec 4) (a : BitVec 4) (b : BitVec 4) (r : BitVec 3)
  /-- FULLER_FMUL (R252). -/
  | fullerFmul (d : BitVec 4) (a : BitVec 4) (b : BitVec 4) (r : BitVec 3)
  /-- FULLER_FMA (R252). -/
  | fullerFma (d : BitVec 4) (a : BitVec 4) (b : BitVec 4) (c : BitVec 4) (r : BitVec 3)
  /-- FULLER_FMS (R252). -/
  | fullerFms (d : BitVec 4) (a : BitVec 4) (b : BitVec 4) (c : BitVec 4) (r : BitVec 3)
  /-- FULLER_FDIV (R252). -/
  | fullerFdiv (d : BitVec 4) (a : BitVec 4) (b : BitVec 4) (r : BitVec 3)
  /-- FULLER_FSQRT (R252). -/
  | fullerFsqrt (d : BitVec 4) (a : BitVec 4) (r : BitVec 3)
  /-- FULLER_FRSQ (R252). -/
  | fullerFrsq (d : BitVec 4) (a : BitVec 4)
  /-- FULLER_FRCP (R252). -/
  | fullerFrcp (d : BitVec 4) (a : BitVec 4)
  /-- FULLER_FMIN (R252). -/
  | fullerFmin (d : BitVec 4) (a : BitVec 4) (b : BitVec 4)
  /-- FULLER_FMAX (R252). -/
  | fullerFmax (d : BitVec 4) (a : BitVec 4) (b : BitVec 4)
  /-- FULLER_FABS (R252). -/
  | fullerFabs (d : BitVec 4) (a : BitVec 4)
  /-- FULLER_FNEG (R252). -/
  | fullerFneg (d : BitVec 4) (a : BitVec 4)
  /-- FULLER_FSEL (R252). -/
  | fullerFsel (d : BitVec 4) (a : BitVec 4) (b : BitVec 4) (c : BitVec 4)
  /-- KADD (R253). -/
  | kadd (d : BitVec 4) (a : BitVec 4) (c : BitVec 4) (r : BitVec 3)
  /-- CVI (R252). -/
  | cvi (d : BitVec 4) (i : BitVec 7)
  /-- FCVT (R252). -/
  | fcvt (d : BitVec 4) (a : BitVec 4) (r : BitVec 3) (i : BitVec 4)
  /-- FMOV (R252). -/
  | fmov (d : BitVec 4) (a : BitVec 4)
  /-- FCLAMP (R252). -/
  | fclamp (d : BitVec 4) (a : BitVec 4) (b : BitVec 4)
  /-- BUNDLE_ISSUE (R65). -/
  | bundleIssue (c : Nat)
  /-- ASYNC_EVENT_DELIVERY (R322). -/
  | asyncEventDelivery (c : Nat)
  /-- RESULT_DELIVERY (R84). -/
  | resultDelivery (c : Nat)
  /-- LOAD_DATA_READY (R126). -/
  | loadDataReady (c : Nat)
  /-- STORE_PERFORM (R263). -/
  | storePerform (c : Nat)
  /-- ATOMIC_PERFORM (R132). -/
  | atomicPerform (c : Nat)
  /-- PUB_COMPLETE (R133). -/
  | pubComplete (c : Nat)
  /-- ACCESS_DEADLINE_MISS (R126). -/
  | accessDeadlineMiss (c : Nat)
  /-- OPEN_ACCESS_TIMEOUT (R264). -/
  | openAccessTimeout (c : Nat)
  /-- UCE (R320). -/
  | uce (c : Nat) (addr : Word)
  /-- CORRECTABLE_ERROR_FREEZE (R266). -/
  | correctableErrorFreeze (a : Freezable)
  /-- FREEZE_END (R266). -/
  | freezeEnd (a : Freezable)
  /-- TRANSLATION_WALK_COMPLETE (R278). -/
  | translationWalkComplete (d : Nat)
  /-- BARRIER_UPDATE (R27). -/
  | barrierUpdate (d : Nat)
  /-- GEN_NOTICE (R138). -/
  | genNotice (c : Nat)
  /-- SS_ACT (R202). -/
  | ssAct (c : Nat)
  /-- STREAM_FLIT_ACCEPT (R209). -/
  | streamFlitAccept (c q : Nat)
  /-- STREAM_FLIT_PERFORM (R209). -/
  | streamFlitPerform (c : Nat)
  /-- SS_BLOCK_MOVE (R215). -/
  | ssBlockMove (c : Nat)
  /-- SS_ENGINE_COMPLETE (R215). -/
  | ssEngineComplete (c : Nat)
  /-- MX_COMMAND_START (R183). -/
  | mxCommandStart (c : Nat)
  /-- MX_COMMAND_END (R183). -/
  | mxCommandEnd (c : Nat)
  /-- SCALE_LATCH_LOAD (R182). -/
  | scaleLatchLoad (c : Nat)
  /-- DRAIN_ROW_READ (R190). -/
  | drainRowRead (c : Nat)
  /-- DRAIN_ROW_WRITE (R194). -/
  | drainRowWrite (c : Nat)
  /-- FOLLOW_ON_ARRIVE (R195). -/
  | followOnArrive (c : Nat)
  /-- COURIER_COMMAND_START (R229). -/
  | courierCommandStart (c q : Nat)
  /-- COURIER_LINE_LAND (R229). -/
  | courierLineLand (c q : Nat)
  /-- COURIER_QUEUE_POLL (R337). -/
  | courierQueuePoll (c q : Nat)
  /-- FULLER_CARD_RUN (R247). -/
  | fullerCardRun (d : Nat)
  /-- FULLER_CARD_COMPLETE (R247). -/
  | fullerCardComplete (d : Nat)
  /-- FULLER_ROUTINE_LOAD (R250). -/
  | fullerRoutineLoad (d : Nat)
  /-- FULLER_FAULT_RETRY (R338). -/
  | fullerFaultRetry (d : Nat)
  /-- PIGEONHOLE_FLIT_LAND (R243). -/
  | pigeonholeFlitLand (d : Nat)
  /-- PHLATE (R244). -/
  | phlate (c : Nat)
  /-- PIGEONHOLE_SCRUB (R377). -/
  | pigeonholeScrub (d : Nat)
  /-- BEACON_SEND (R368). -/
  | beaconSend (d : Nat)
  /-- BEACON_RECEIVE (R369). -/
  | beaconReceive (d : Nat)
  /-- ESTIMATE_STALE (R370). -/
  | estimateStale (d j : Nat)
  /-- LINK_RETRY (R362). -/
  | linkRetry (d port : Nat)
  /-- LINK_STATE_CHANGE (R364). -/
  | linkStateChange (d port : Nat) (up : Bool)
  /-- MAP (R292). -/
  | mapQueue (slot : BitVec 8) (addr : BitVec 48)
  /-- UNMAP (R292). -/
  | unmap (slot : BitVec 8)
  /-- PREEMPT (R334). -/
  | preempt (slot : BitVec 8)
  /-- PRIO (R297). -/
  | prio (slot : BitVec 8) (val : BitVec 4)
  /-- CANCEL_UNIT (R299). -/
  | cancelUnit (slot : BitVec 8) (carg : Word)
  /-- CANCEL_LAUNCH (R299). -/
  | cancelLaunch (slot : BitVec 8) (carg : Word)
  /-- CANCEL_PHASE (R299). -/
  | cancelPhase (slot : BitVec 8) (carg : Word)
  /-- CANCEL_GRAPH (R299). -/
  | cancelGraph (slot : BitVec 8) (carg : Word)
  /-- CANCEL_JOB (R299). -/
  | cancelJob (slot : BitVec 8) (carg : Word)
  /-- RESUME (R327). -/
  | resume (slot : BitVec 8) (carg : Word)
  /-- CMD_REJECT (R293). -/
  | cmdReject (op : BitVec 4)
  /-- DOORBELL (R294). -/
  | doorbell (slot : BitVec 8) (tail : BitVec 32)
  /-- DIRECTORY_SCAN (R295). -/
  | directoryScan
  /-- SELECTION_ROUND (R296). -/
  | selectionRound
  /-- QUEUE_SIGNAL (R292). -/
  | queueSignal (slot : BitVec 8)
  /-- BIND (R305). -/
  | bind (slot : BitVec 8)
  /-- LAUNCH_START (R305). -/
  | launchStart (slot : BitVec 8)
  /-- REORDER_WINDOW_REPORT (R303). -/
  | reorderWindowReport (slot : BitVec 8) (j : Nat)
  /-- PHASE_END (R272). -/
  | phaseEnd (slot : BitVec 8)
  /-- PREEMPT_BUDGET_EXPIRE (R334). -/
  | preemptBudgetExpire (slot : BitVec 8)
  /-- SATCHEL_SAVE (R332). -/
  | satchelSave (c : Nat)
  /-- TIME_SLICE_YIELD (R301). -/
  | timeSliceYield (c : Nat)
  /-- PHASE_REPLAY (R339). -/
  | phaseReplay (slot : BitVec 8)
  /-- HALTREQ (R344). -/
  | haltreq (c : Nat)
  /-- RESUMEREQ (R345). -/
  | resumereq (c : Nat)
  /-- HALT_GROUP_HALT (R344). -/
  | haltGroupHalt (c : Nat)
  /-- ACCESS_REGISTER (R342). -/
  | accessRegister (d : Nat) (command : BitVec 32)
  /-- TRACE_RING_WRITE (R352). -/
  | traceRingWrite (d : Nat)
  /-- TRQUIESCE (R353). -/
  | trquiesce (d : Nat) (req : Bool)
  /-- XLCMD (R393). -/
  | xlcmd (d : Nat) (val : Word)
  /-- SHOOTDOWN_ACK (R280). -/
  | shootdownAck (d : Nat)
  /-- STUBCMD (R397). -/
  | stubcmd (d : Nat)
  /-- KEY_LOAD (R401). -/
  | keyLoad (post : Bool) (slot : BitVec 10)
  /-- KEY_GENERATE (R401). -/
  | keyGenerate (post : Bool) (slot : BitVec 10)
  /-- KEY_EMPTY (R401). -/
  | keyEmpty (post : Bool) (slot : BitVec 10)
  /-- ATTESTATION_REQUEST (R400). -/
  | attestationRequest
  /-- FLOCK (R403). -/
  | flock
  /-- GOVERNOR_SAMPLE (R407). -/
  | governorSample (watts : Nat) (temps : List Nat)
  /-- FATAL_ERROR (R408). -/
  | fatalError (cause : BitVec 32)
  /-- POWER_ON_BOOT (R398). -/
  | powerOnBoot
  /-- POST_COMMAND (R384). -/
  | postCommand (port : Nat) (pkt : List Byte)
  /-- POST_DATA (R385). -/
  | postData (port : Nat) (pkt : List Byte)
  /-- POST_ACK (R383). -/
  | postAck (port : Nat) (pkt : List Byte)
  /-- POST_NAK (R381). -/
  | postNak (port : Nat) (pkt : List Byte)
  /-- POST_SEND_POLL (R385). -/
  | postSendPoll
  /-- POST_RESEND_TIMEOUT (R383). -/
  | postResendTimeout (conn : BitVec 32)
  /-- REGISTER_WRITE (R4). -/
  | registerWrite (addr : BitVec 48) (val : Word)
  /-- TICK (R28). -/
  | tick (d : Nat)
  /-- MODULE_RESET (R408). -/
  | moduleReset
  deriving DecidableEq, Repr

end Sys2Proof
end

