-- ==== Sys2Proof/WellFormed.lean ====
section
/-! DEFINITION. Well-formed instructions: the operand values that the encodings allow (R57 to R61, R81 to R83, R252)
and, for an event, agents that the device has (R1, R259, R292, R361). -/

namespace Sys2Proof

/-- A source code that R58, R59, R60 or R82 assigns (R83). -/
def srcAssigned (s : Nat) : Bool := s < 0x102 || (0x140 ≤ s && s < 0x188)

/-- A destination below the unit ports that is a register or none (R58); 0x0F0 to 0x0FF are reserved. -/
def regDst (d : Nat) : Bool := d < 0x0F0

/-- A destination of a move that triggers nothing: a register, none, or an operand port a to d (R58, R61). -/
def plainDst (d : Nat) : Bool := regDst d || (0x100 ≤ d && d < 0x400 && (d - 0x100) % 64 < 4)

/-- The number of logical cores (R1), of compute dies, of hardware queue slots (R292). -/
def numCores : Nat := 768

/-- A core index of the package. -/
def coreOk (c : Nat) : Bool := c < numCores

/-- A compute die. -/
def dieOk (d : Nat) : Bool := d < 4

/-- A courier queue (R221). -/
def queueOk (q : Nat) : Bool := q < 8

/-- What can freeze exists. -/
def Freezable.ok : Freezable → Bool
  | .core c => coreOk c
  | .dieCourier d k => dieOk d && k < 64
  | .fuller d => dieOk d

/-- The check on one instruction. -/
def Instr.wf : Instr → Bool
  | .move _ _ s d => srcAssigned s.toNat && s != 0x186 && s != 0x187 && plainDst d.toNat
  | .limm _ _ d => plainDst d.toNat
  | .limmu _ _ d => plainDst d.toNat
  | .jmp _ _ s => srcAssigned s.toNat
  | .jmpi _ _ s => srcAssigned s.toNat
  | .call _ _ s => srcAssigned s.toNat
  | .calli _ _ s => srcAssigned s.toNat
  | .ret _ _ s => srcAssigned s.toNat
  | .loop _ _ s => srcAssigned s.toNat
  | .leave _ _ s => srcAssigned s.toNat
  | .waitc _ _ s => srcAssigned s.toNat
  | .nextt _ _ s => srcAssigned s.toNat
  | .donet _ _ s => srcAssigned s.toNat
  | .sysc _ _ s => srcAssigned s.toNat
  | .eret _ _ s => srcAssigned s.toNat
  | .brk _ _ s => srcAssigned s.toNat
  | .csrr _ _ s => srcAssigned s.toNat
  | .csrw _ _ s => srcAssigned s.toNat
  | .csrs _ _ s => srcAssigned s.toNat
  | .csrc _ _ s => srcAssigned s.toNat
  | .ifence _ _ s => srcAssigned s.toNat
  | .pmark _ _ s => srcAssigned s.toNat
  | .add _ _ s u => srcAssigned s.toNat && (u == 1 || u == 2)
  | .sub _ _ s u => srcAssigned s.toNat && (u == 1 || u == 2)
  | .mul _ _ s u => srcAssigned s.toNat && (u == 1 || u == 2)
  | .mulh _ _ s u => srcAssigned s.toNat && (u == 1 || u == 2)
  | .mulhu _ _ s u => srcAssigned s.toNat && (u == 1 || u == 2)
  | .div _ _ s u => srcAssigned s.toNat && (u == 1 || u == 2)
  | .divu _ _ s u => srcAssigned s.toNat && (u == 1 || u == 2)
  | .rem _ _ s u => srcAssigned s.toNat && (u == 1 || u == 2)
  | .remu _ _ s u => srcAssigned s.toNat && (u == 1 || u == 2)
  | .iaAnd _ _ s u => srcAssigned s.toNat && (u == 1 || u == 2)
  | .iaOr _ _ s u => srcAssigned s.toNat && (u == 1 || u == 2)
  | .iaXor _ _ s u => srcAssigned s.toNat && (u == 1 || u == 2)
  | .andn _ _ s u => srcAssigned s.toNat && (u == 1 || u == 2)
  | .shl _ _ s u => srcAssigned s.toNat && (u == 1 || u == 2)
  | .shr _ _ s u => srcAssigned s.toNat && (u == 1 || u == 2)
  | .sar _ _ s u => srcAssigned s.toNat && (u == 1 || u == 2)
  | .rol _ _ s u => srcAssigned s.toNat && (u == 1 || u == 2)
  | .clz _ _ s u => srcAssigned s.toNat && (u == 1 || u == 2)
  | .ctz _ _ s u => srcAssigned s.toNat && (u == 1 || u == 2)
  | .popc _ _ s u => srcAssigned s.toNat && (u == 1 || u == 2)
  | .iaMin _ _ s u => srcAssigned s.toNat && (u == 1 || u == 2)
  | .iaMax _ _ s u => srcAssigned s.toNat && (u == 1 || u == 2)
  | .minu _ _ s u => srcAssigned s.toNat && (u == 1 || u == 2)
  | .maxu _ _ s u => srcAssigned s.toNat && (u == 1 || u == 2)
  | .sext _ _ s u => srcAssigned s.toNat && (u == 1 || u == 2)
  | .zext _ _ s u => srcAssigned s.toNat && (u == 1 || u == 2)
  | .cmpeq _ _ s u => srcAssigned s.toNat && (u == 1 || u == 2)
  | .cmpne _ _ s u => srcAssigned s.toNat && (u == 1 || u == 2)
  | .cmplt _ _ s u => srcAssigned s.toNat && (u == 1 || u == 2)
  | .cmpltu _ _ s u => srcAssigned s.toNat && (u == 1 || u == 2)
  | .cmple _ _ s u => srcAssigned s.toNat && (u == 1 || u == 2)
  | .cmpleu _ _ s u => srcAssigned s.toNat && (u == 1 || u == 2)
  | .sel _ _ s u => srcAssigned s.toNat && (u == 1 || u == 2)
  | .bfx _ _ s u => srcAssigned s.toNat && (u == 1 || u == 2)
  | .bfi _ _ s u => srcAssigned s.toNat && (u == 1 || u == 2)
  | .madd _ _ s u => srcAssigned s.toNat && (u == 1 || u == 2)
  | .lea _ _ s u => srcAssigned s.toNat && (u == 1 || u == 2)
  | .abs _ _ s u => srcAssigned s.toNat && (u == 1 || u == 2)
  | .ldB _ _ s => srcAssigned s.toNat
  | .ldBu _ _ s => srcAssigned s.toNat
  | .ldH _ _ s => srcAssigned s.toNat
  | .ldHu _ _ s => srcAssigned s.toNat
  | .ldW _ _ s => srcAssigned s.toNat
  | .ldWu _ _ s => srcAssigned s.toNat
  | .ldD _ _ s => srcAssigned s.toNat
  | .stB _ _ s => srcAssigned s.toNat
  | .stH _ _ s => srcAssigned s.toNat
  | .stW _ _ s => srcAssigned s.toNat
  | .stD _ _ s => srcAssigned s.toNat
  | .ldv _ _ s => srcAssigned s.toNat
  | .ldvs _ _ s => srcAssigned s.toNat
  | .ldvg _ _ s => srcAssigned s.toNat
  | .stv _ _ s => srcAssigned s.toNat
  | .stvs _ _ s => srcAssigned s.toNat
  | .stvg _ _ s => srcAssigned s.toNat
  | .aadd _ _ s => srcAssigned s.toNat
  | .amin _ _ s => srcAssigned s.toNat
  | .amax _ _ s => srcAssigned s.toNat
  | .aand _ _ s => srcAssigned s.toNat
  | .aor _ _ s => srcAssigned s.toNat
  | .axor _ _ s => srcAssigned s.toNat
  | .aswp _ _ s => srcAssigned s.toNat
  | .acas _ _ s => srcAssigned s.toNat
  | .pubD _ _ s => srcAssigned s.toNat
  | .pubP _ _ s => srcAssigned s.toNat
  | .pubS _ _ s => srcAssigned s.toNat
  | .acqD _ _ s => srcAssigned s.toNat
  | .acqP _ _ s => srcAssigned s.toNat
  | .acqS _ _ s => srcAssigned s.toNat
  | .vjoin _ _ s => srcAssigned s.toNat
  | .xlpre _ _ s => srcAssigned s.toNat
  | .fadd _ _ s _ => srcAssigned s.toNat
  | .fsub _ _ s _ => srcAssigned s.toNat
  | .fmul _ _ s _ => srcAssigned s.toNat
  | .fma _ _ s _ => srcAssigned s.toNat
  | .fms _ _ s _ => srcAssigned s.toNat
  | .fmin _ _ s _ => srcAssigned s.toNat
  | .fmax _ _ s _ => srcAssigned s.toNat
  | .fabs _ _ s _ => srcAssigned s.toNat
  | .fneg _ _ s _ => srcAssigned s.toNat
  | .fcmpEq _ _ s _ => srcAssigned s.toNat
  | .fcmpLt _ _ s _ => srcAssigned s.toNat
  | .fcmpLe _ _ s _ => srcAssigned s.toNat
  | .fcmpUn _ _ s _ => srcAssigned s.toNat
  | .fsel _ _ s _ => srcAssigned s.toNat
  | .iadd _ _ s _ => srcAssigned s.toNat
  | .isub _ _ s _ => srcAssigned s.toNat
  | .imul _ _ s _ => srcAssigned s.toNat
  | .imulh _ _ s _ => srcAssigned s.toNat
  | .iand _ _ s _ => srcAssigned s.toNat
  | .ior _ _ s _ => srcAssigned s.toNat
  | .ixor _ _ s _ => srcAssigned s.toNat
  | .ishl _ _ s _ => srcAssigned s.toNat
  | .ishr _ _ s _ => srcAssigned s.toNat
  | .isar _ _ s _ => srcAssigned s.toNat
  | .imin _ _ s _ => srcAssigned s.toNat
  | .imax _ _ s _ => srcAssigned s.toNat
  | .iminu _ _ s _ => srcAssigned s.toNat
  | .imaxu _ _ s _ => srcAssigned s.toNat
  | .icmpEq _ _ s _ => srcAssigned s.toNat
  | .icmpLt _ _ s _ => srcAssigned s.toNat
  | .icmpLtu _ _ s _ => srcAssigned s.toNat
  | .cvt _ _ s _ => srcAssigned s.toNat
  | .pack _ _ s _ => srcAssigned s.toNat
  | .unpack _ _ s _ => srcAssigned s.toNat
  | .bcast _ _ s _ => srcAssigned s.toNat
  | .lane _ _ s _ => srcAssigned s.toNat
  | .mand _ _ s _ => srcAssigned s.toNat
  | .mor _ _ s _ => srcAssigned s.toNat
  | .mnot _ _ s _ => srcAssigned s.toNat
  | .rcp _ _ s => srcAssigned s.toNat
  | .rsq _ _ s => srcAssigned s.toNat
  | .sqrt _ _ s => srcAssigned s.toNat
  | .exp2 _ _ s => srcAssigned s.toNat
  | .log2 _ _ s => srcAssigned s.toNat
  | .tanh _ _ s => srcAssigned s.toNat
  | .sigm _ _ s => srcAssigned s.toNat
  | .silu _ _ s => srcAssigned s.toNat
  | .gelut _ _ s => srcAssigned s.toNat
  | .rmax _ _ s => srcAssigned s.toNat
  | .rmin _ _ s => srcAssigned s.toNat
  | .rsum _ _ s => srcAssigned s.toNat
  | .twosum _ _ s => srcAssigned s.toNat
  | .perm _ _ s => srcAssigned s.toNat
  | .shuf _ _ s => srcAssigned s.toNat
  | .rng _ _ s => srcAssigned s.toNat
  | .dropm _ _ s => srcAssigned s.toNat
  | .wld _ _ s => srcAssigned s.toNat
  | .wfmt _ _ s => srcAssigned s.toNat
  | .mode _ _ s => srcAssigned s.toNat
  | .scale _ _ s => srcAssigned s.toNat
  | .strm _ _ s => srcAssigned s.toNat
  | .accz _ _ s => srcAssigned s.toNat
  | .drain _ _ s => srcAssigned s.toNat
  | .dfn _ _ s => srcAssigned s.toNat
  | .spar _ _ s => srcAssigned s.toNat
  | .mxAdmit _ _ s => srcAssigned s.toNat
  | .mxst _ _ s => srcAssigned s.toNat
  | .wgstep _ _ s => srcAssigned s.toNat
  | .salloc _ _ s => srcAssigned s.toNat
  | .sadd _ _ s => srcAssigned s.toNat
  | .ssub _ _ s => srcAssigned s.toNat
  | .srdn _ _ s => srcAssigned s.toNat
  | .srho _ _ s => srcAssigned s.toNat
  | .sfenceL _ _ s => srcAssigned s.toNat
  | .sfenceD _ _ s => srcAssigned s.toNat
  | .sfenceP _ _ s => srcAssigned s.toNat
  | .sevict _ _ s => srcAssigned s.toNat
  | .srestore _ _ s => srcAssigned s.toNat
  | .swrap _ _ s => srcAssigned s.toNat
  | .sgain _ _ s => srcAssigned s.toNat
  | .seps _ _ s => srcAssigned s.toNat
  | .sview _ _ s => srcAssigned s.toNat
  | .cpy _ _ s => srcAssigned s.toNat
  | .cpymx _ _ s => srcAssigned s.toNat
  | .seq _ _ s => srcAssigned s.toNat
  | .seqgo _ _ s => srcAssigned s.toNat
  | .wpr _ _ s => srcAssigned s.toNat
  | .wpwait _ _ s => srcAssigned s.toNat
  | .cpadd _ _ s => srcAssigned s.toNat
  | .cpred _ _ s => srcAssigned s.toNat
  | .cpbc _ _ s => srcAssigned s.toNat
  | .cqstat _ _ s => srcAssigned s.toNat
  | .tbinit _ _ s => srcAssigned s.toNat
  | .tbarr _ _ s => srcAssigned s.toNat
  | .tbexp _ _ s => srcAssigned s.toNat
  | .tbwait _ _ s => srcAssigned s.toNat
  | .tbtest _ _ s => srcAssigned s.toNat
  | .tkaln _ _ s => srcAssigned s.toNat
  | .tkrd _ _ s => srcAssigned s.toNat
  | .phsend _ _ s => srcAssigned s.toNat
  | .phrecv _ _ s => srcAssigned s.toNat
  | .fjob _ _ s => srcAssigned s.toNat
  | .fjwait _ _ s => srcAssigned s.toNat
  | .fjstat _ _ s => srcAssigned s.toNat
  | .fprog _ _ s => srcAssigned s.toNat
  | .fullerEnd => true
  | .fullerFadd _ _ _ r => r.toNat ≤ 3
  | .fullerFsub _ _ _ r => r.toNat ≤ 3
  | .fullerFmul _ _ _ r => r.toNat ≤ 3
  | .fullerFma _ _ _ _ r => r.toNat ≤ 3
  | .fullerFms _ _ _ _ r => r.toNat ≤ 3
  | .fullerFdiv _ _ _ r => r.toNat ≤ 3
  | .fullerFsqrt _ _ r => r.toNat ≤ 3
  | .fullerFrsq _ _ => true
  | .fullerFrcp _ _ => true
  | .fullerFmin _ _ _ => true
  | .fullerFmax _ _ _ => true
  | .fullerFabs _ _ => true
  | .fullerFneg _ _ => true
  | .fullerFsel _ _ _ _ => true
  | .kadd _ _ _ r => r.toNat ≤ 3
  | .cvi _ _ => true
  | .fcvt _ _ r i => r.toNat ≤ 3 && (i == 1 || i == 2 || i == 3 || i == 4 || i == 6)
  | .fmov _ _ => true
  | .fclamp _ _ _ => true
  | .bundleIssue c => coreOk c
  | .asyncEventDelivery c => coreOk c
  | .resultDelivery c => coreOk c
  | .loadDataReady c => coreOk c
  | .storePerform c => coreOk c
  | .atomicPerform c => coreOk c
  | .pubComplete c => coreOk c
  | .accessDeadlineMiss c => coreOk c
  | .openAccessTimeout c => coreOk c
  | .uce c _ => coreOk c
  | .correctableErrorFreeze a => a.ok
  | .freezeEnd a => a.ok
  | .translationWalkComplete d => dieOk d
  | .barrierUpdate d => dieOk d
  | .genNotice c => coreOk c
  | .ssAct c => coreOk c
  | .streamFlitAccept c q => coreOk c && queueOk q
  | .streamFlitPerform c => coreOk c
  | .ssBlockMove c => coreOk c
  | .ssEngineComplete c => coreOk c
  | .mxCommandStart c => coreOk c
  | .mxCommandEnd c => coreOk c
  | .scaleLatchLoad c => coreOk c
  | .drainRowRead c => coreOk c
  | .drainRowWrite c => coreOk c
  | .followOnArrive c => coreOk c
  | .courierCommandStart c q => coreOk c && queueOk q
  | .courierLineLand c q => coreOk c && queueOk q
  | .courierQueuePoll c q => coreOk c && queueOk q
  | .fullerCardRun d => dieOk d
  | .fullerCardComplete d => dieOk d
  | .fullerRoutineLoad d => dieOk d
  | .fullerFaultRetry d => dieOk d
  | .pigeonholeFlitLand d => dieOk d
  | .phlate c => coreOk c
  | .pigeonholeScrub d => dieOk d
  | .beaconSend d => dieOk d
  | .beaconReceive d => dieOk d
  | .estimateStale d j => dieOk d && dieOk j && j != d
  | .linkRetry d port => dieOk d && port < 5
  | .linkStateChange d port _ => dieOk d && port < 5
  | .mapQueue _ _ => true
  | .unmap _ => true
  | .preempt _ => true
  | .prio _ _ => true
  | .cancelUnit _ _ => true
  | .cancelLaunch _ _ => true
  | .cancelPhase _ _ => true
  | .cancelGraph _ _ => true
  | .cancelJob _ _ => true
  | .resume _ _ => true
  | .cmdReject _ => true
  | .doorbell _ _ => true
  | .directoryScan => true
  | .selectionRound => true
  | .queueSignal _ => true
  | .bind _ => true
  | .launchStart _ => true
  | .reorderWindowReport _ j => j < 64
  | .phaseEnd _ => true
  | .preemptBudgetExpire _ => true
  | .satchelSave c => coreOk c
  | .timeSliceYield c => coreOk c
  | .phaseReplay _ => true
  | .haltreq c => coreOk c
  | .resumereq c => coreOk c
  | .haltGroupHalt c => coreOk c
  | .accessRegister d _ => dieOk d
  | .traceRingWrite d => dieOk d
  | .trquiesce d _ => dieOk d
  | .xlcmd d _ => dieOk d
  | .shootdownAck d => dieOk d
  | .stubcmd d => dieOk d
  | .keyLoad _ _ => true
  | .keyGenerate _ _ => true
  | .keyEmpty _ _ => true
  | .attestationRequest => true
  | .flock => true
  | .governorSample _ _ => true
  | .fatalError _ => true
  | .powerOnBoot => true
  | .postCommand port _ => port < 8
  | .postData port _ => port < 8
  | .postAck port _ => port < 8
  | .postNak port _ => port < 8
  | .postSendPoll => true
  | .postResendTimeout _ => true
  | .registerWrite _ _ => true
  | .tick d => dieOk d
  | .moduleReset => true

/-- A well-formed instruction. -/
abbrev WellFormed (i : Instr) : Prop := i.wf = true

end Sys2Proof
end

