-- ==== Sys2Proof/Decode.lean ====
section
/-! DEFINITION. The decoder of slot words (R56 to R62, R81 to R96) and of Fuller micro-instruction words (R252,
R250), total on any word and rejecting by name, and after it the encoder, written from the same tables. -/

namespace Sys2Proof

/-- Why a word is no instruction: a reserved source, a reserved destination, a trigger code that no row of R87 to
R96 assigns (each raises ILLMOV at its slot, R83), a Fuller word that R250 rejects, or bytes that end too early. -/
inductive DecodeError where
  | reservedSource (code : Nat)
  | reservedDestination (code : Nat)
  | unassignedTrigger (code : Nat)
  | badRoutineWord
  | tooShort
  deriving DecidableEq, Repr

/-- A slot row that has no unit field. -/
abbrev SlotCon := BitVec 1 → BitVec 4 → BitVec 9 → Instr

/-- The CU triggers, low codes from 0x04 upward (R87). -/
def cuTriggers : List SlotCon := [
  .jmp, .jmpi, .call, .calli, .ret, .loop, .leave, .waitc, .nextt, .donet, .sysc, .eret, .brk, .csrr, .csrw,
  .csrs, .csrc, .ifence, .pmark]

/-- The IA triggers, low codes from 0x04 upward (R88). -/
def iaTriggers : List (BitVec 1 → BitVec 4 → BitVec 9 → BitVec 2 → Instr) := [
  .add, .sub, .mul, .mulh, .mulhu, .div, .divu, .rem, .remu, .iaAnd, .iaOr, .iaXor, .andn, .shl, .shr, .sar,
  .rol, .clz, .ctz, .popc, .iaMin, .iaMax, .minu, .maxu, .sext, .zext, .cmpeq, .cmpne, .cmplt, .cmpltu, .cmple,
  .cmpleu, .sel, .bfx, .bfi, .madd, .lea, .abs]

/-- The AG triggers, low codes from 0x04 upward (R89). -/
def agTriggers : List SlotCon := [
  .ldB, .ldBu, .ldH, .ldHu, .ldW, .ldWu, .ldD, .stB, .stH, .stW, .stD, .ldv, .ldvs, .ldvg, .stv, .stvs, .stvg,
  .aadd, .amin, .amax, .aand, .aor, .axor, .aswp, .acas, .pubD, .pubP, .pubS, .acqD, .acqP, .acqS, .vjoin,
  .xlpre]

/-- The VA triggers, low codes from 0x04 upward (R90). -/
def vaTriggers : List (BitVec 1 → BitVec 4 → BitVec 9 → BitVec 1 → Instr) := [
  .fadd, .fsub, .fmul, .fma, .fms, .fmin, .fmax, .fabs, .fneg, .fcmpEq, .fcmpLt, .fcmpLe, .fcmpUn, .fsel,
  .iadd, .isub, .imul, .imulh, .iand, .ior, .ixor, .ishl, .ishr, .isar, .imin, .imax, .iminu, .imaxu, .icmpEq,
  .icmpLt, .icmpLtu, .cvt, .pack, .unpack, .bcast, .lane, .mand, .mor, .mnot]

/-- The VX triggers, low codes from 0x04 upward (R91). -/
def vxTriggers : List SlotCon := [
  .rcp, .rsq, .sqrt, .exp2, .log2, .tanh, .sigm, .silu, .gelut, .rmax, .rmin, .rsum, .twosum, .perm, .shuf,
  .rng, .dropm]

/-- The MX triggers, low codes from 0x04 upward (R92). -/
def mxTriggers : List SlotCon := [
  .wld, .wfmt, .mode, .scale, .strm, .accz, .drain, .dfn, .spar, .mxAdmit, .mxst, .wgstep]

/-- The SS triggers, low codes from 0x04 upward (R93). -/
def ssTriggers : List SlotCon := [
  .salloc, .sadd, .ssub, .srdn, .srho, .sfenceL, .sfenceD, .sfenceP, .sevict, .srestore, .swrap, .sgain, .seps,
  .sview]

/-- The CP triggers, low codes from 0x04 upward (R94). -/
def cpTriggers : List SlotCon := [
  .cpy, .cpymx, .seq, .seqgo, .wpr, .wpwait, .cpadd, .cpred, .cpbc, .cqstat]

/-- The SY triggers, low codes from 0x04 upward (R95). -/
def syTriggers : List SlotCon := [
  .tbinit, .tbarr, .tbexp, .tbwait, .tbtest, .tkaln, .tkrd, .phsend, .phrecv]

/-- The FL triggers, low codes from 0x04 upward (R96). -/
def flTriggers : List SlotCon := [
  .fjob, .fjwait, .fjstat, .fprog]

/-- Fields of a slot word (R57). -/
def slotN (w : SlotWord) : BitVec 1 := w.extractLsb' 23 1
/-- The guard field (R57). -/
def slotG (w : SlotWord) : BitVec 4 := w.extractLsb' 19 4
/-- The source field (R57). -/
def slotS (w : SlotWord) : BitVec 9 := w.extractLsb' 10 9
/-- The destination field (R57). -/
def slotD (w : SlotWord) : BitVec 10 := w.extractLsb' 0 10

/-- The slot word of four fields (R57). -/
def mkSlot (n : BitVec 1) (g : BitVec 4) (s : BitVec 9) (d : BitVec 10) : SlotWord := n ++ g ++ s ++ d

/-- The row that a trigger code of unit `u` (R61) and low six bits `low` names, if one does (R81). -/
def triggerRow (n : BitVec 1) (g : BitVec 4) (s : BitVec 9) (u low : Nat) : Option Instr :=
  match u with
  | 0 => (cuTriggers[low - 4]?).map fun f => f n g s
  | 1 => (iaTriggers[low - 4]?).map fun f => f n g s 1
  | 2 => (iaTriggers[low - 4]?).map fun f => f n g s 2
  | 3 => (agTriggers[low - 4]?).map fun f => f n g s
  | 4 => (vaTriggers[low - 4]?).map fun f => f n g s 0
  | 5 => (vaTriggers[low - 4]?).map fun f => f n g s 1
  | 6 => (vxTriggers[low - 4]?).map fun f => f n g s
  | 7 => (mxTriggers[low - 4]?).map fun f => f n g s
  | 8 => (ssTriggers[low - 4]?).map fun f => f n g s
  | 9 => (cpTriggers[low - 4]?).map fun f => f n g s
  | 10 => (syTriggers[low - 4]?).map fun f => f n g s
  | 11 => (flTriggers[low - 4]?).map fun f => f n g s
  | _ => none

/-- Decoding a slot word that is no literal (R57 to R62, R83). A trigger slot is its trigger's row whatever its
source; any other slot is LIMM, LIMMU or MOVE by its source. -/
def decodeSlot (w : SlotWord) : Except DecodeError Instr :=
  let s := (slotS w).toNat
  let d := (slotD w).toNat
  if ¬ srcAssigned s then .error (.reservedSource s)
  else if d < 0x100 then
    if ¬ regDst d then .error (.reservedDestination d)
    else .ok (if s = 0x186 then .limm (slotN w) (slotG w) (slotD w)
      else if s = 0x187 then .limmu (slotN w) (slotG w) (slotD w)
      else .move (slotN w) (slotG w) (slotS w) (slotD w))
  else
    let u := (d - 0x100) / 64
    let low := (d - 0x100) % 64
    if low < 4 then
      .ok (if s = 0x186 then .limm (slotN w) (slotG w) (slotD w)
        else if s = 0x187 then .limmu (slotN w) (slotG w) (slotD w)
        else .move (slotN w) (slotG w) (slotS w) (slotD w))
    else
      match triggerRow (slotN w) (slotG w) (slotS w) u low with
      | some i => .ok i
      | none => .error (.unassignedTrigger d)

/-- Fields of a Fuller word (R252). -/
def fwOp (w : FullerWord) : BitVec 6 := w.extractLsb' 26 6
/-- FD. -/
def fwD (w : FullerWord) : BitVec 4 := w.extractLsb' 22 4
/-- FA. -/
def fwA (w : FullerWord) : BitVec 4 := w.extractLsb' 18 4
/-- FB. -/
def fwB (w : FullerWord) : BitVec 4 := w.extractLsb' 14 4
/-- FC. -/
def fwC (w : FullerWord) : BitVec 4 := w.extractLsb' 10 4
/-- RM. -/
def fwR (w : FullerWord) : BitVec 3 := w.extractLsb' 7 3
/-- IMM. -/
def fwI (w : FullerWord) : BitVec 7 := w.extractLsb' 0 7

/-- The Fuller word of seven fields (R252). -/
def mkFuller (op : BitVec 6) (d a b c : BitVec 4) (r : BitVec 3) (i : BitVec 7) : FullerWord :=
  op ++ d ++ a ++ b ++ c ++ r ++ i

/-- The instruction that a word's opcode names, its fields taken whatever the unused fields hold (R252). -/
def fullerRow (w : FullerWord) : Option Instr :=
  match (fwOp w).toNat with
  | 0 => some (.fullerEnd)
  | 1 => some (.fullerFadd (fwD w) (fwA w) (fwB w) (fwR w))
  | 2 => some (.fullerFsub (fwD w) (fwA w) (fwB w) (fwR w))
  | 3 => some (.fullerFmul (fwD w) (fwA w) (fwB w) (fwR w))
  | 4 => some (.fullerFma (fwD w) (fwA w) (fwB w) (fwC w) (fwR w))
  | 5 => some (.fullerFms (fwD w) (fwA w) (fwB w) (fwC w) (fwR w))
  | 6 => some (.fullerFdiv (fwD w) (fwA w) (fwB w) (fwR w))
  | 7 => some (.fullerFsqrt (fwD w) (fwA w) (fwR w))
  | 8 => some (.fullerFrsq (fwD w) (fwA w))
  | 9 => some (.fullerFrcp (fwD w) (fwA w))
  | 10 => some (.fullerFmin (fwD w) (fwA w) (fwB w))
  | 11 => some (.fullerFmax (fwD w) (fwA w) (fwB w))
  | 12 => some (.fullerFabs (fwD w) (fwA w))
  | 13 => some (.fullerFneg (fwD w) (fwA w))
  | 14 => some (.fullerFsel (fwD w) (fwA w) (fwB w) (fwC w))
  | 15 => some (.kadd (fwD w) (fwA w) (fwC w) (fwR w))
  | 16 => some (.cvi (fwD w) (fwI w))
  | 17 => some (.fcvt (fwD w) (fwA w) (fwR w) ((fwI w).extractLsb' 0 4))
  | 18 => some (.fmov (fwD w) (fwA w))
  | 19 => some (.fclamp (fwD w) (fwA w) (fwB w))
  | _ => none

/-- The words of an instruction: a slot word, a Fuller word, or none for an event of the device. -/
inductive Words where
  | slot (w : SlotWord)
  | fuller (w : FullerWord)
  | event
  deriving DecidableEq, Repr

/-- The encoder, from the encoding tables of R57, R81, R87 to R96 and R252. -/
def encode : Instr → Words
  | .move n g s d => .slot (mkSlot n g s d)
  | .limm n g d => .slot (mkSlot n g 0x186 d)
  | .limmu n g d => .slot (mkSlot n g 0x187 d)
  | .jmp n g s => .slot (mkSlot n g s 0x104)
  | .jmpi n g s => .slot (mkSlot n g s 0x105)
  | .call n g s => .slot (mkSlot n g s 0x106)
  | .calli n g s => .slot (mkSlot n g s 0x107)
  | .ret n g s => .slot (mkSlot n g s 0x108)
  | .loop n g s => .slot (mkSlot n g s 0x109)
  | .leave n g s => .slot (mkSlot n g s 0x10A)
  | .waitc n g s => .slot (mkSlot n g s 0x10B)
  | .nextt n g s => .slot (mkSlot n g s 0x10C)
  | .donet n g s => .slot (mkSlot n g s 0x10D)
  | .sysc n g s => .slot (mkSlot n g s 0x10E)
  | .eret n g s => .slot (mkSlot n g s 0x10F)
  | .brk n g s => .slot (mkSlot n g s 0x110)
  | .csrr n g s => .slot (mkSlot n g s 0x111)
  | .csrw n g s => .slot (mkSlot n g s 0x112)
  | .csrs n g s => .slot (mkSlot n g s 0x113)
  | .csrc n g s => .slot (mkSlot n g s 0x114)
  | .ifence n g s => .slot (mkSlot n g s 0x115)
  | .pmark n g s => .slot (mkSlot n g s 0x116)
  | .add n g s u => .slot (mkSlot n g s ((1 : BitVec 2) ++ u ++ (0x04 : BitVec 6)))
  | .sub n g s u => .slot (mkSlot n g s ((1 : BitVec 2) ++ u ++ (0x05 : BitVec 6)))
  | .mul n g s u => .slot (mkSlot n g s ((1 : BitVec 2) ++ u ++ (0x06 : BitVec 6)))
  | .mulh n g s u => .slot (mkSlot n g s ((1 : BitVec 2) ++ u ++ (0x07 : BitVec 6)))
  | .mulhu n g s u => .slot (mkSlot n g s ((1 : BitVec 2) ++ u ++ (0x08 : BitVec 6)))
  | .div n g s u => .slot (mkSlot n g s ((1 : BitVec 2) ++ u ++ (0x09 : BitVec 6)))
  | .divu n g s u => .slot (mkSlot n g s ((1 : BitVec 2) ++ u ++ (0x0A : BitVec 6)))
  | .rem n g s u => .slot (mkSlot n g s ((1 : BitVec 2) ++ u ++ (0x0B : BitVec 6)))
  | .remu n g s u => .slot (mkSlot n g s ((1 : BitVec 2) ++ u ++ (0x0C : BitVec 6)))
  | .iaAnd n g s u => .slot (mkSlot n g s ((1 : BitVec 2) ++ u ++ (0x0D : BitVec 6)))
  | .iaOr n g s u => .slot (mkSlot n g s ((1 : BitVec 2) ++ u ++ (0x0E : BitVec 6)))
  | .iaXor n g s u => .slot (mkSlot n g s ((1 : BitVec 2) ++ u ++ (0x0F : BitVec 6)))
  | .andn n g s u => .slot (mkSlot n g s ((1 : BitVec 2) ++ u ++ (0x10 : BitVec 6)))
  | .shl n g s u => .slot (mkSlot n g s ((1 : BitVec 2) ++ u ++ (0x11 : BitVec 6)))
  | .shr n g s u => .slot (mkSlot n g s ((1 : BitVec 2) ++ u ++ (0x12 : BitVec 6)))
  | .sar n g s u => .slot (mkSlot n g s ((1 : BitVec 2) ++ u ++ (0x13 : BitVec 6)))
  | .rol n g s u => .slot (mkSlot n g s ((1 : BitVec 2) ++ u ++ (0x14 : BitVec 6)))
  | .clz n g s u => .slot (mkSlot n g s ((1 : BitVec 2) ++ u ++ (0x15 : BitVec 6)))
  | .ctz n g s u => .slot (mkSlot n g s ((1 : BitVec 2) ++ u ++ (0x16 : BitVec 6)))
  | .popc n g s u => .slot (mkSlot n g s ((1 : BitVec 2) ++ u ++ (0x17 : BitVec 6)))
  | .iaMin n g s u => .slot (mkSlot n g s ((1 : BitVec 2) ++ u ++ (0x18 : BitVec 6)))
  | .iaMax n g s u => .slot (mkSlot n g s ((1 : BitVec 2) ++ u ++ (0x19 : BitVec 6)))
  | .minu n g s u => .slot (mkSlot n g s ((1 : BitVec 2) ++ u ++ (0x1A : BitVec 6)))
  | .maxu n g s u => .slot (mkSlot n g s ((1 : BitVec 2) ++ u ++ (0x1B : BitVec 6)))
  | .sext n g s u => .slot (mkSlot n g s ((1 : BitVec 2) ++ u ++ (0x1C : BitVec 6)))
  | .zext n g s u => .slot (mkSlot n g s ((1 : BitVec 2) ++ u ++ (0x1D : BitVec 6)))
  | .cmpeq n g s u => .slot (mkSlot n g s ((1 : BitVec 2) ++ u ++ (0x1E : BitVec 6)))
  | .cmpne n g s u => .slot (mkSlot n g s ((1 : BitVec 2) ++ u ++ (0x1F : BitVec 6)))
  | .cmplt n g s u => .slot (mkSlot n g s ((1 : BitVec 2) ++ u ++ (0x20 : BitVec 6)))
  | .cmpltu n g s u => .slot (mkSlot n g s ((1 : BitVec 2) ++ u ++ (0x21 : BitVec 6)))
  | .cmple n g s u => .slot (mkSlot n g s ((1 : BitVec 2) ++ u ++ (0x22 : BitVec 6)))
  | .cmpleu n g s u => .slot (mkSlot n g s ((1 : BitVec 2) ++ u ++ (0x23 : BitVec 6)))
  | .sel n g s u => .slot (mkSlot n g s ((1 : BitVec 2) ++ u ++ (0x24 : BitVec 6)))
  | .bfx n g s u => .slot (mkSlot n g s ((1 : BitVec 2) ++ u ++ (0x25 : BitVec 6)))
  | .bfi n g s u => .slot (mkSlot n g s ((1 : BitVec 2) ++ u ++ (0x26 : BitVec 6)))
  | .madd n g s u => .slot (mkSlot n g s ((1 : BitVec 2) ++ u ++ (0x27 : BitVec 6)))
  | .lea n g s u => .slot (mkSlot n g s ((1 : BitVec 2) ++ u ++ (0x28 : BitVec 6)))
  | .abs n g s u => .slot (mkSlot n g s ((1 : BitVec 2) ++ u ++ (0x29 : BitVec 6)))
  | .ldB n g s => .slot (mkSlot n g s 0x1C4)
  | .ldBu n g s => .slot (mkSlot n g s 0x1C5)
  | .ldH n g s => .slot (mkSlot n g s 0x1C6)
  | .ldHu n g s => .slot (mkSlot n g s 0x1C7)
  | .ldW n g s => .slot (mkSlot n g s 0x1C8)
  | .ldWu n g s => .slot (mkSlot n g s 0x1C9)
  | .ldD n g s => .slot (mkSlot n g s 0x1CA)
  | .stB n g s => .slot (mkSlot n g s 0x1CB)
  | .stH n g s => .slot (mkSlot n g s 0x1CC)
  | .stW n g s => .slot (mkSlot n g s 0x1CD)
  | .stD n g s => .slot (mkSlot n g s 0x1CE)
  | .ldv n g s => .slot (mkSlot n g s 0x1CF)
  | .ldvs n g s => .slot (mkSlot n g s 0x1D0)
  | .ldvg n g s => .slot (mkSlot n g s 0x1D1)
  | .stv n g s => .slot (mkSlot n g s 0x1D2)
  | .stvs n g s => .slot (mkSlot n g s 0x1D3)
  | .stvg n g s => .slot (mkSlot n g s 0x1D4)
  | .aadd n g s => .slot (mkSlot n g s 0x1D5)
  | .amin n g s => .slot (mkSlot n g s 0x1D6)
  | .amax n g s => .slot (mkSlot n g s 0x1D7)
  | .aand n g s => .slot (mkSlot n g s 0x1D8)
  | .aor n g s => .slot (mkSlot n g s 0x1D9)
  | .axor n g s => .slot (mkSlot n g s 0x1DA)
  | .aswp n g s => .slot (mkSlot n g s 0x1DB)
  | .acas n g s => .slot (mkSlot n g s 0x1DC)
  | .pubD n g s => .slot (mkSlot n g s 0x1DD)
  | .pubP n g s => .slot (mkSlot n g s 0x1DE)
  | .pubS n g s => .slot (mkSlot n g s 0x1DF)
  | .acqD n g s => .slot (mkSlot n g s 0x1E0)
  | .acqP n g s => .slot (mkSlot n g s 0x1E1)
  | .acqS n g s => .slot (mkSlot n g s 0x1E2)
  | .vjoin n g s => .slot (mkSlot n g s 0x1E3)
  | .xlpre n g s => .slot (mkSlot n g s 0x1E4)
  | .fadd n g s u => .slot (mkSlot n g s ((4 : BitVec 3) ++ u ++ (0x04 : BitVec 6)))
  | .fsub n g s u => .slot (mkSlot n g s ((4 : BitVec 3) ++ u ++ (0x05 : BitVec 6)))
  | .fmul n g s u => .slot (mkSlot n g s ((4 : BitVec 3) ++ u ++ (0x06 : BitVec 6)))
  | .fma n g s u => .slot (mkSlot n g s ((4 : BitVec 3) ++ u ++ (0x07 : BitVec 6)))
  | .fms n g s u => .slot (mkSlot n g s ((4 : BitVec 3) ++ u ++ (0x08 : BitVec 6)))
  | .fmin n g s u => .slot (mkSlot n g s ((4 : BitVec 3) ++ u ++ (0x09 : BitVec 6)))
  | .fmax n g s u => .slot (mkSlot n g s ((4 : BitVec 3) ++ u ++ (0x0A : BitVec 6)))
  | .fabs n g s u => .slot (mkSlot n g s ((4 : BitVec 3) ++ u ++ (0x0B : BitVec 6)))
  | .fneg n g s u => .slot (mkSlot n g s ((4 : BitVec 3) ++ u ++ (0x0C : BitVec 6)))
  | .fcmpEq n g s u => .slot (mkSlot n g s ((4 : BitVec 3) ++ u ++ (0x0D : BitVec 6)))
  | .fcmpLt n g s u => .slot (mkSlot n g s ((4 : BitVec 3) ++ u ++ (0x0E : BitVec 6)))
  | .fcmpLe n g s u => .slot (mkSlot n g s ((4 : BitVec 3) ++ u ++ (0x0F : BitVec 6)))
  | .fcmpUn n g s u => .slot (mkSlot n g s ((4 : BitVec 3) ++ u ++ (0x10 : BitVec 6)))
  | .fsel n g s u => .slot (mkSlot n g s ((4 : BitVec 3) ++ u ++ (0x11 : BitVec 6)))
  | .iadd n g s u => .slot (mkSlot n g s ((4 : BitVec 3) ++ u ++ (0x12 : BitVec 6)))
  | .isub n g s u => .slot (mkSlot n g s ((4 : BitVec 3) ++ u ++ (0x13 : BitVec 6)))
  | .imul n g s u => .slot (mkSlot n g s ((4 : BitVec 3) ++ u ++ (0x14 : BitVec 6)))
  | .imulh n g s u => .slot (mkSlot n g s ((4 : BitVec 3) ++ u ++ (0x15 : BitVec 6)))
  | .iand n g s u => .slot (mkSlot n g s ((4 : BitVec 3) ++ u ++ (0x16 : BitVec 6)))
  | .ior n g s u => .slot (mkSlot n g s ((4 : BitVec 3) ++ u ++ (0x17 : BitVec 6)))
  | .ixor n g s u => .slot (mkSlot n g s ((4 : BitVec 3) ++ u ++ (0x18 : BitVec 6)))
  | .ishl n g s u => .slot (mkSlot n g s ((4 : BitVec 3) ++ u ++ (0x19 : BitVec 6)))
  | .ishr n g s u => .slot (mkSlot n g s ((4 : BitVec 3) ++ u ++ (0x1A : BitVec 6)))
  | .isar n g s u => .slot (mkSlot n g s ((4 : BitVec 3) ++ u ++ (0x1B : BitVec 6)))
  | .imin n g s u => .slot (mkSlot n g s ((4 : BitVec 3) ++ u ++ (0x1C : BitVec 6)))
  | .imax n g s u => .slot (mkSlot n g s ((4 : BitVec 3) ++ u ++ (0x1D : BitVec 6)))
  | .iminu n g s u => .slot (mkSlot n g s ((4 : BitVec 3) ++ u ++ (0x1E : BitVec 6)))
  | .imaxu n g s u => .slot (mkSlot n g s ((4 : BitVec 3) ++ u ++ (0x1F : BitVec 6)))
  | .icmpEq n g s u => .slot (mkSlot n g s ((4 : BitVec 3) ++ u ++ (0x20 : BitVec 6)))
  | .icmpLt n g s u => .slot (mkSlot n g s ((4 : BitVec 3) ++ u ++ (0x21 : BitVec 6)))
  | .icmpLtu n g s u => .slot (mkSlot n g s ((4 : BitVec 3) ++ u ++ (0x22 : BitVec 6)))
  | .cvt n g s u => .slot (mkSlot n g s ((4 : BitVec 3) ++ u ++ (0x23 : BitVec 6)))
  | .pack n g s u => .slot (mkSlot n g s ((4 : BitVec 3) ++ u ++ (0x24 : BitVec 6)))
  | .unpack n g s u => .slot (mkSlot n g s ((4 : BitVec 3) ++ u ++ (0x25 : BitVec 6)))
  | .bcast n g s u => .slot (mkSlot n g s ((4 : BitVec 3) ++ u ++ (0x26 : BitVec 6)))
  | .lane n g s u => .slot (mkSlot n g s ((4 : BitVec 3) ++ u ++ (0x27 : BitVec 6)))
  | .mand n g s u => .slot (mkSlot n g s ((4 : BitVec 3) ++ u ++ (0x28 : BitVec 6)))
  | .mor n g s u => .slot (mkSlot n g s ((4 : BitVec 3) ++ u ++ (0x29 : BitVec 6)))
  | .mnot n g s u => .slot (mkSlot n g s ((4 : BitVec 3) ++ u ++ (0x2A : BitVec 6)))
  | .rcp n g s => .slot (mkSlot n g s 0x284)
  | .rsq n g s => .slot (mkSlot n g s 0x285)
  | .sqrt n g s => .slot (mkSlot n g s 0x286)
  | .exp2 n g s => .slot (mkSlot n g s 0x287)
  | .log2 n g s => .slot (mkSlot n g s 0x288)
  | .tanh n g s => .slot (mkSlot n g s 0x289)
  | .sigm n g s => .slot (mkSlot n g s 0x28A)
  | .silu n g s => .slot (mkSlot n g s 0x28B)
  | .gelut n g s => .slot (mkSlot n g s 0x28C)
  | .rmax n g s => .slot (mkSlot n g s 0x28D)
  | .rmin n g s => .slot (mkSlot n g s 0x28E)
  | .rsum n g s => .slot (mkSlot n g s 0x28F)
  | .twosum n g s => .slot (mkSlot n g s 0x290)
  | .perm n g s => .slot (mkSlot n g s 0x291)
  | .shuf n g s => .slot (mkSlot n g s 0x292)
  | .rng n g s => .slot (mkSlot n g s 0x293)
  | .dropm n g s => .slot (mkSlot n g s 0x294)
  | .wld n g s => .slot (mkSlot n g s 0x2C4)
  | .wfmt n g s => .slot (mkSlot n g s 0x2C5)
  | .mode n g s => .slot (mkSlot n g s 0x2C6)
  | .scale n g s => .slot (mkSlot n g s 0x2C7)
  | .strm n g s => .slot (mkSlot n g s 0x2C8)
  | .accz n g s => .slot (mkSlot n g s 0x2C9)
  | .drain n g s => .slot (mkSlot n g s 0x2CA)
  | .dfn n g s => .slot (mkSlot n g s 0x2CB)
  | .spar n g s => .slot (mkSlot n g s 0x2CC)
  | .mxAdmit n g s => .slot (mkSlot n g s 0x2CD)
  | .mxst n g s => .slot (mkSlot n g s 0x2CE)
  | .wgstep n g s => .slot (mkSlot n g s 0x2CF)
  | .salloc n g s => .slot (mkSlot n g s 0x304)
  | .sadd n g s => .slot (mkSlot n g s 0x305)
  | .ssub n g s => .slot (mkSlot n g s 0x306)
  | .srdn n g s => .slot (mkSlot n g s 0x307)
  | .srho n g s => .slot (mkSlot n g s 0x308)
  | .sfenceL n g s => .slot (mkSlot n g s 0x309)
  | .sfenceD n g s => .slot (mkSlot n g s 0x30A)
  | .sfenceP n g s => .slot (mkSlot n g s 0x30B)
  | .sevict n g s => .slot (mkSlot n g s 0x30C)
  | .srestore n g s => .slot (mkSlot n g s 0x30D)
  | .swrap n g s => .slot (mkSlot n g s 0x30E)
  | .sgain n g s => .slot (mkSlot n g s 0x30F)
  | .seps n g s => .slot (mkSlot n g s 0x310)
  | .sview n g s => .slot (mkSlot n g s 0x311)
  | .cpy n g s => .slot (mkSlot n g s 0x344)
  | .cpymx n g s => .slot (mkSlot n g s 0x345)
  | .seq n g s => .slot (mkSlot n g s 0x346)
  | .seqgo n g s => .slot (mkSlot n g s 0x347)
  | .wpr n g s => .slot (mkSlot n g s 0x348)
  | .wpwait n g s => .slot (mkSlot n g s 0x349)
  | .cpadd n g s => .slot (mkSlot n g s 0x34A)
  | .cpred n g s => .slot (mkSlot n g s 0x34B)
  | .cpbc n g s => .slot (mkSlot n g s 0x34C)
  | .cqstat n g s => .slot (mkSlot n g s 0x34D)
  | .tbinit n g s => .slot (mkSlot n g s 0x384)
  | .tbarr n g s => .slot (mkSlot n g s 0x385)
  | .tbexp n g s => .slot (mkSlot n g s 0x386)
  | .tbwait n g s => .slot (mkSlot n g s 0x387)
  | .tbtest n g s => .slot (mkSlot n g s 0x388)
  | .tkaln n g s => .slot (mkSlot n g s 0x389)
  | .tkrd n g s => .slot (mkSlot n g s 0x38A)
  | .phsend n g s => .slot (mkSlot n g s 0x38B)
  | .phrecv n g s => .slot (mkSlot n g s 0x38C)
  | .fjob n g s => .slot (mkSlot n g s 0x3C4)
  | .fjwait n g s => .slot (mkSlot n g s 0x3C5)
  | .fjstat n g s => .slot (mkSlot n g s 0x3C6)
  | .fprog n g s => .slot (mkSlot n g s 0x3C7)
  | .fullerEnd => .fuller (mkFuller 0 0 0 0 0 0 0)
  | .fullerFadd d a b r => .fuller (mkFuller 1 d a b 0 r 0)
  | .fullerFsub d a b r => .fuller (mkFuller 2 d a b 0 r 0)
  | .fullerFmul d a b r => .fuller (mkFuller 3 d a b 0 r 0)
  | .fullerFma d a b c r => .fuller (mkFuller 4 d a b c r 0)
  | .fullerFms d a b c r => .fuller (mkFuller 5 d a b c r 0)
  | .fullerFdiv d a b r => .fuller (mkFuller 6 d a b 0 r 0)
  | .fullerFsqrt d a r => .fuller (mkFuller 7 d a 0 0 r 0)
  | .fullerFrsq d a => .fuller (mkFuller 8 d a 0 0 0 0)
  | .fullerFrcp d a => .fuller (mkFuller 9 d a 0 0 0 0)
  | .fullerFmin d a b => .fuller (mkFuller 10 d a b 0 0 0)
  | .fullerFmax d a b => .fuller (mkFuller 11 d a b 0 0 0)
  | .fullerFabs d a => .fuller (mkFuller 12 d a 0 0 0 0)
  | .fullerFneg d a => .fuller (mkFuller 13 d a 0 0 0 0)
  | .fullerFsel d a b c => .fuller (mkFuller 14 d a b c 0 0)
  | .kadd d a c r => .fuller (mkFuller 15 d a 0 c r 0)
  | .cvi d i => .fuller (mkFuller 16 d 0 0 0 0 i)
  | .fcvt d a r i => .fuller (mkFuller 17 d a 0 0 r ((0 : BitVec 3) ++ i))
  | .fmov d a => .fuller (mkFuller 18 d a 0 0 0 0)
  | .fclamp d a b => .fuller (mkFuller 19 d a b 0 0 0)
  | .bundleIssue _ => .event
  | .asyncEventDelivery _ => .event
  | .resultDelivery _ => .event
  | .loadDataReady _ => .event
  | .storePerform _ => .event
  | .atomicPerform _ => .event
  | .pubComplete _ => .event
  | .accessDeadlineMiss _ => .event
  | .openAccessTimeout _ => .event
  | .uce _ _ => .event
  | .correctableErrorFreeze _ => .event
  | .freezeEnd _ => .event
  | .translationWalkComplete _ => .event
  | .barrierUpdate _ => .event
  | .genNotice _ => .event
  | .ssAct _ => .event
  | .streamFlitAccept _ _ => .event
  | .streamFlitPerform _ => .event
  | .ssBlockMove _ => .event
  | .ssEngineComplete _ => .event
  | .mxCommandStart _ => .event
  | .mxCommandEnd _ => .event
  | .scaleLatchLoad _ => .event
  | .drainRowRead _ => .event
  | .drainRowWrite _ => .event
  | .followOnArrive _ => .event
  | .courierCommandStart _ _ => .event
  | .courierLineLand _ _ => .event
  | .courierQueuePoll _ _ => .event
  | .fullerCardRun _ => .event
  | .fullerCardComplete _ => .event
  | .fullerRoutineLoad _ => .event
  | .fullerFaultRetry _ => .event
  | .pigeonholeFlitLand _ => .event
  | .phlate _ => .event
  | .pigeonholeScrub _ => .event
  | .beaconSend _ => .event
  | .beaconReceive _ => .event
  | .estimateStale _ _ => .event
  | .linkRetry _ _ => .event
  | .linkStateChange _ _ _ => .event
  | .mapQueue _ _ => .event
  | .unmap _ => .event
  | .preempt _ => .event
  | .prio _ _ => .event
  | .cancelUnit _ _ => .event
  | .cancelLaunch _ _ => .event
  | .cancelPhase _ _ => .event
  | .cancelGraph _ _ => .event
  | .cancelJob _ _ => .event
  | .resume _ _ => .event
  | .cmdReject _ => .event
  | .doorbell _ _ => .event
  | .directoryScan => .event
  | .selectionRound => .event
  | .queueSignal _ => .event
  | .bind _ => .event
  | .launchStart _ => .event
  | .reorderWindowReport _ _ => .event
  | .phaseEnd _ => .event
  | .preemptBudgetExpire _ => .event
  | .satchelSave _ => .event
  | .timeSliceYield _ => .event
  | .phaseReplay _ => .event
  | .haltreq _ => .event
  | .resumereq _ => .event
  | .haltGroupHalt _ => .event
  | .accessRegister _ _ => .event
  | .traceRingWrite _ => .event
  | .trquiesce _ _ => .event
  | .xlcmd _ _ => .event
  | .shootdownAck _ => .event
  | .stubcmd _ => .event
  | .keyLoad _ _ => .event
  | .keyGenerate _ _ => .event
  | .keyEmpty _ _ => .event
  | .attestationRequest => .event
  | .flock => .event
  | .governorSample _ _ => .event
  | .fatalError _ => .event
  | .powerOnBoot => .event
  | .postCommand _ _ => .event
  | .postData _ _ => .event
  | .postAck _ _ => .event
  | .postNak _ _ => .event
  | .postSendPoll => .event
  | .postResendTimeout _ => .event
  | .registerWrite _ _ => .event
  | .tick _ => .event
  | .moduleReset => .event

/-- Decoding a Fuller word: R250 rejects a reserved opcode, a nonzero unused field, a rounding mode above 3 and an
immediate that the operation does not allow. -/
def decodeFuller (w : FullerWord) : Except DecodeError Instr :=
  match fullerRow w with
  | some i => if encode i = .fuller w ∧ WellFormed i then .ok i else .error .badRoutineWord
  | none => .error .badRoutineWord

/-- Decoding the three bytes of a slot as a bundle stores them, least significant byte first (R56). -/
def decodeSlotBytes : List Byte → Except DecodeError (Instr × List Byte)
  | b0 :: b1 :: b2 :: rest => (decodeSlot (b2 ++ b1 ++ b0)).map fun i => (i, rest)
  | _ => .error .tooShort

/-- Decoding the four bytes of a Fuller word, little-endian (R252). -/
def decodeFullerBytes : List Byte → Except DecodeError (Instr × List Byte)
  | b0 :: b1 :: b2 :: b3 :: rest => (decodeFuller (b3 ++ b2 ++ b1 ++ b0)).map fun i => (i, rest)
  | _ => .error .tooShort

/-- The bytes of a slot word in memory (R56). -/
def slotBytes (w : Nat) : List Byte := [BitVec.ofNat 8 w, BitVec.ofNat 8 (w / 256), BitVec.ofNat 8 (w / 65536)]

/-- The instruction the decoder reads from a word of `nbits` bits: up to 24 bits a slot word, above that a Fuller
word; the bits above `nbits` are zero. -/
def decodeTableWord (nbits w : Nat) : Option Instr :=
  if nbits ≤ 24 then
    match decodeSlotBytes (slotBytes (w % 2 ^ nbits)) with
    | .ok (i, _) => some i
    | .error _ => none
  else
    match decodeFullerBytes (slotBytes (w % 2 ^ nbits) ++ [BitVec.ofNat 8 (w % 2 ^ nbits / 16777216)]) with
    | .ok (i, _) => some i
    | .error _ => none

end Sys2Proof
end

