-- ==== Sys2Proof/Machine/Bits.lean ====
section
/-! DEFINITION. Bit-field, sign-extension and byte-order helpers (spec/00 R3: bit 0 is the least significant bit,
multi-byte values are little-endian). -/

namespace Sys2Proof.Machine

/-- Bits `[hi:lo]` of a natural number, as a natural number (R3). -/
def bits (x hi lo : Nat) : Nat := (x >>> lo) % 2 ^ (hi + 1 - lo)

/-- Bit `i` of a natural number. -/
def bit (x i : Nat) : Bool := x.testBit i

/-- The integer that the low `w` bits of `x` read as in two's complement (R118, R143). -/
def sint (w x : Nat) : Int :=
  let y := x % 2 ^ w
  if y < 2 ^ (w - 1) then (y : Int) else (y : Int) - (2 ^ w : Nat)

/-- An integer reduced modulo `2^w`, as a natural number. -/
def wrap (w : Nat) (x : Int) : Nat := (x % ((2 ^ w : Nat) : Int)).toNat

/-- The value of a list of bytes, first byte least significant (R3). -/
def leNat : List Byte → Nat
  | [] => 0
  | b :: bs => b.toNat + 256 * leNat bs

/-- The `n` low bytes of a value, least significant first (R3). -/
def leBytes : (n : Nat) → Nat → List Byte
  | 0, _ => []
  | n + 1, x => BitVec.ofNat 8 x :: leBytes n (x / 256)

/-- Bytes `[a, a+n)` of a record, as a natural number; bytes past its end count as zero. -/
def field (r : List Byte) (a n : Nat) : Nat := leNat ((r.drop a).take n)

/-- A 32-bit mask of the low `n` bits. -/
def maskN (n : Nat) : Nat := 2 ^ n - 1

/-- The serial difference `(a - b) mod 2^32` read as signed 32 bits (R138, R244). -/
def serial (a b : Nat) : Int := sint 32 (wrap 32 ((a : Int) - (b : Int)))

/-- A Boolean as 0 or 1. -/
def b2n (b : Bool) : Nat := if b then 1 else 0

/-- Every byte of a list is zero (R5). -/
def allZero (l : List Byte) : Bool := l.all (· == 0)

end Sys2Proof.Machine
end

