-- ==== Sys2Proof/Machine/Crypto.lean ====
section
/-! DEFINITION. The published algorithms that spec/12 R281, spec/20 R382 and spec/23 R399 name: AES-256 (FIPS 197) in
XTS (IEEE 1619) and GMAC (SP 800-38D), SHA-384 (FIPS 180-4), ECDSA on P-384 (FIPS 186), CRC-32C. -/

namespace Sys2Proof.Machine

/-! ### AES-256 -/

/-- Multiplication by x in GF(2^8). -/
def xtime (a : Nat) : Nat := if a < 128 then 2 * a else (2 * a) ^^^ 0x11B

/-- Multiplication in GF(2^8), by the bits of `b` from the top. -/
def gmul (a b : Nat) : Nat :=
  [7, 6, 5, 4, 3, 2, 1, 0].foldl (fun r i => let r := xtime r; if b.testBit i then r ^^^ a else r) 0

/-- The inverse in GF(2^8), `a^254`; 0 stays 0. -/
def ginv (a : Nat) : Nat :=
  let a2 := gmul a a
  let a4 := gmul a2 a2
  let a8 := gmul a4 a4
  let a16 := gmul a8 a8
  let a32 := gmul a16 a16
  let a64 := gmul a32 a32
  gmul (gmul (gmul (gmul a2 a4) (gmul a8 a16)) (gmul a32 a64)) (gmul a64 a64)

/-- A byte rotated left. -/
def rotl8 (a k : Nat) : Nat := ((a <<< k) ||| (a >>> (8 - k))) % 256

/-- The S-box of one byte. -/
def sboxOf (x : Nat) : Nat :=
  let b := ginv x
  b ^^^ rotl8 b 1 ^^^ rotl8 b 2 ^^^ rotl8 b 3 ^^^ rotl8 b 4 ^^^ 0x63

/-- The S-box. -/
def sbox : List Nat := (List.range 256).map sboxOf

/-- The S-box at a byte. -/
def sub8 (x : Nat) : Nat := sbox.getD x 0

/-- The inverse S-box at a byte. -/
def invSub8 (y : Nat) : Nat := (sbox.idxOf? y).getD 0

/-- The exclusive or of two lists. -/
def xorL (a b : List Nat) : List Nat := a.zipWith (· ^^^ ·) b

/-- The key schedule's next word; `i` is its index, `ws` the words so far, newest first. -/
def aesNextWord (i : Nat) (ws : List (List Nat)) : List Nat :=
  let prev := ws.getD 0 []
  let back := ws.getD 7 []
  let t :=
    if i % 8 = 0 then xorL ((prev.drop 1 ++ prev.take 1).map sub8) [2 ^ (i / 8 - 1), 0, 0, 0]
    else if i % 8 = 4 then prev.map sub8
    else prev
  xorL back t

/-- The 60 words of the schedule of a 32-byte key. -/
def aesSchedule (key : List Nat) : List (List Nat) :=
  let init := (List.range 8).map fun i => (key.drop (4 * i)).take 4
  ((List.range 52).foldl (fun ws i => aesNextWord (i + 8) ws :: ws) init.reverse).reverse

/-- Round key `r`, 16 bytes. -/
def aesRoundKey (sch : List (List Nat)) (r : Nat) : List Nat := ((sch.drop (4 * r)).take 4).flatten

/-- Bytes `s[4c+r]` permuted by rows: column `c` of row `r` from column `c + k·r`. -/
def aesShift (k : Nat) (s : List Nat) : List Nat :=
  (List.range 16).map fun i => s.getD (4 * ((i / 4 + k * (i % 4)) % 4) + i % 4) 0

/-- A column mix by the matrix row `m` rotated. -/
def aesMix (m : List Nat) (s : List Nat) : List Nat :=
  (List.range 16).map fun i =>
    let c := 4 * (i / 4)
    (List.range 4).foldl (fun a j => a ^^^ gmul (s.getD (c + j) 0) (m.getD ((j + 4 - i % 4) % 4) 0)) 0

/-- AES-256 of one block. -/
def aesEnc (key block : List Nat) : List Nat :=
  let sch := aesSchedule key
  let s := (List.range 13).foldl (fun s r =>
    xorL (aesMix [2, 3, 1, 1] (aesShift 1 (s.map sub8))) (aesRoundKey sch (r + 1))) (xorL block (aesRoundKey sch 0))
  xorL (aesShift 1 (s.map sub8)) (aesRoundKey sch 14)

/-- The inverse of AES-256 of one block. -/
def aesDec (key block : List Nat) : List Nat :=
  let sch := aesSchedule key
  let s := (List.range 13).foldl (fun s r =>
    aesMix [14, 11, 13, 9] (xorL ((aesShift 3 s).map invSub8) (aesRoundKey sch (13 - r)))) (xorL block (aesRoundKey sch 14))
  xorL ((aesShift 3 s).map invSub8) (aesRoundKey sch 0)

/-- The bytes of a value, least significant first, as numbers. -/
def natBytes (n x : Nat) : List Nat := (leBytes n x).map (·.toNat)

/-- The tweak multiplied by x in GF(2^128), least significant byte first. -/
def xtsNext (t : List Nat) : List Nat :=
  let x := leNat (t.map (BitVec.ofNat 8))
  let y := if x < 2 ^ 127 then 2 * x else (2 * x) ^^^ (2 ^ 128 + 0x87)
  natBytes 16 y

/-- XTS of one 64-byte line at a physical address (R281): `f` is the block cipher under the data key, or its inverse;
the tweak is the line's address under the tweak key. -/
def xtsLine (f : List Nat → List Nat) (tweakKey : List Nat) (addr : Nat) (line : List Nat) : List Nat :=
  let t0 := aesEnc tweakKey (natBytes 16 addr)
  ((List.range 4).foldl (fun (acc : List Nat × List Nat) i =>
    let b := (line.drop (16 * i)).take 16
    (acc.1 ++ xorL (f (xorL b acc.2)) acc.2, xtsNext acc.2)) ([], t0)).1

/-- A line written under one 512-bit key (data key in the low half) and read under another (R281). -/
def foreignLine (written read : BitVec 512) (addr : Nat) (line : List Byte) : List Byte :=
  let dk := fun (k : BitVec 512) => natBytes 32 (k.toNat % 2 ^ 256)
  let tk := fun (k : BitVec 512) => natBytes 32 (k.toNat / 2 ^ 256)
  let c := xtsLine (aesEnc (dk written)) (tk written) addr (line.map (·.toNat))
  (xtsLine (aesDec (dk read)) (tk read) addr c).map (BitVec.ofNat 8)

/-- A big-endian value of bytes. -/
def beNat (l : List Byte) : Nat := leNat l.reverse

/-- The `n` bytes of a value, most significant first. -/
def beBytes (n x : Nat) : List Byte := (leBytes n x).reverse

/-- Multiplication in GF(2^128) with the bit order of GCM. -/
def ghashMul (x y : Nat) : Nat :=
  ((List.range 128).foldl (fun (acc : Nat × Nat) i =>
    let z := if x.testBit (127 - i) then acc.1 ^^^ acc.2 else acc.1
    let v := if acc.2 % 2 = 1 then (acc.2 / 2) ^^^ (0xE1 * 2 ^ 120) else acc.2 / 2
    (z, v)) (0, y)).1

/-- Blocks of 16 bytes, the last padded with zeros. -/
def blocks16 (fuel : Nat) (l : List Byte) : List Nat :=
  match fuel with
  | 0 => []
  | fuel + 1 => if l.isEmpty then [] else beNat ((l.take 16 ++ List.replicate 16 0).take 16) :: blocks16 fuel (l.drop 16)

/-- AES-256-GMAC of data under a 32-byte key and a 12-byte nonce: the 16-byte tag. -/
def gmac (key nonce data : List Byte) : List Byte :=
  let k := key.map (·.toNat)
  let e := fun (b : List Byte) => beNat ((aesEnc k (b.map (·.toNat))).map (BitVec.ofNat 8))
  let h := e (List.replicate 16 0)
  let x := (blocks16 (data.length + 1) data ++ [8 * data.length * 2 ^ 64]).foldl (fun a b => ghashMul (a ^^^ b) h) 0
  beBytes 16 (x ^^^ e (nonce.take 12 ++ [0, 0, 0, 1]))

/-! ### SHA-384 -/

/-- The first 80 primes. -/
def primes80 : List Nat :=
  (List.range 410).filter fun n => decide (2 ≤ n) && (List.range 21).all fun d => d < 2 || d * d > n || n % d != 0

/-- The largest number whose `k`-th power is at most `n`, bit by bit. -/
def rootGo (k n : Nat) : Nat → Nat → Nat
  | 0, r => r
  | b + 1, r => rootGo k n b (if (r + 2 ^ b) ^ k ≤ n then r + 2 ^ b else r)

/-- Round constants: fractions of cube roots of the first 80 primes. -/
def shaK : List Nat := primes80.map fun p => rootGo 3 (p * 2 ^ 192) 67 0 % 2 ^ 64

/-- Initial values: fractions of square roots of the ninth to sixteenth primes. -/
def shaIv : List Nat := ((primes80.drop 8).take 8).map fun p => rootGo 2 (p * 2 ^ 128) 67 0 % 2 ^ 64

/-- A 64-bit rotation to the right. -/
def rotr64 (x k : Nat) : Nat := ((x >>> k) ||| (x <<< (64 - k))) % 2 ^ 64

/-- The message schedule, newest first. -/
def shaSchedule (w : List Nat) : List Nat :=
  (List.range 64).foldl (fun ws _ =>
    let a := ws.getD 1 0
    let b := ws.getD 14 0
    let s1 := rotr64 a 19 ^^^ rotr64 a 61 ^^^ (a >>> 6)
    let s0 := rotr64 b 1 ^^^ rotr64 b 8 ^^^ (b >>> 7)
    ((s1 + ws.getD 6 0 + s0 + ws.getD 15 0) % 2 ^ 64) :: ws) w.reverse

/-- One block of SHA-512's compression. -/
def shaBlock (h w : List Nat) : List Nat :=
  let ws := (shaSchedule w).reverse
  let out := (shaK.zip ws).foldl (fun (s : List Nat) kw =>
    let g := fun i => s.getD i 0
    let e := g 4
    let a := g 0
    let t1 := g 7 + (rotr64 e 14 ^^^ rotr64 e 18 ^^^ rotr64 e 41) + ((e &&& g 5) ^^^ ((2 ^ 64 - 1 - e) &&& g 6)) + kw.1 + kw.2
    let t2 := (rotr64 a 28 ^^^ rotr64 a 34 ^^^ rotr64 a 39) + ((a &&& g 1) ^^^ (a &&& g 2) ^^^ (g 1 &&& g 2))
    [(t1 + t2) % 2 ^ 64, a, g 1, g 2, (g 3 + t1) % 2 ^ 64, e, g 5, g 6]) h
  (h.zip out).map fun x => (x.1 + x.2) % 2 ^ 64

/-- Blocks of 128 bytes as sixteen words. -/
def shaBlocks (fuel : Nat) (l : List Byte) : List (List Nat) :=
  match fuel with
  | 0 => []
  | fuel + 1 => if l.isEmpty then [] else ((List.range 16).map fun i => beNat ((l.drop (8 * i)).take 8)) :: shaBlocks fuel (l.drop 128)

/-- SHA-384 of a list of bytes, as a big-endian number. -/
def sha384 (m : List Byte) : Nat :=
  let z := (128 - (m.length + 17) % 128) % 128
  let p := m ++ [0x80] ++ List.replicate z 0 ++ beBytes 16 (8 * m.length)
  let h := (shaBlocks (p.length / 128 + 1) p).foldl shaBlock shaIv
  (h.take 6).foldl (fun a x => a * 2 ^ 64 + x) 0

/-! ### ECDSA on P-384 -/

/-- The field prime. -/
def p384P : Nat := 2 ^ 384 - 2 ^ 128 - 2 ^ 96 + 2 ^ 32 - 1
/-- The curve's coefficient b. -/
def p384B : Nat := 0xb3312fa7e23ee7e4988e056be3f82d19181d9c6efe8141120314088f5013875ac656398d8a2ed19d2a85c8edd3ec2aef
/-- The group order. -/
def p384N : Nat := 0xffffffffffffffffffffffffffffffffffffffffffffffffc7634d81f4372ddf581a0db248b0a77aecec196accc52973
/-- The base point. -/
def p384G : Nat × Nat :=
  (0xaa87ca22be8b05378eb1c71ef320ad746e1d3b628ba79b9859f741e082542a385502f25dbf55296c3a545e3872760ab7,
   0x3617de4a96262c6f5d9e98bf9292dc29f8f41dbd289a147ce9da3113b5f0b8c00a60b1ce1d7e819d7a431d7c90ea0e5f)

/-- Modular power by the bits of the exponent from the top. -/
def powMod (m a : Nat) : Nat → Nat → Nat
  | 0, _ => 1 % m
  | b + 1, e =>
    let r := powMod m a b (e / 2)
    if e % 2 = 1 then r * r % m * a % m else r * r % m

/-- The inverse modulo a prime below 2^384. -/
def invMod (m a : Nat) : Nat := powMod m a 384 (m - 2)

/-- The sum of two points; none is the point at infinity. -/
def ecAdd (a b : Option (Nat × Nat)) : Option (Nat × Nat) :=
  match a, b with
  | none, b => b
  | a, none => a
  | some (x, y), some (x', y') =>
    let p := p384P
    if x = x' ∧ (y + y') % p = 0 then none
    else
      let l := if x = x' then (3 * x * x + p - 3) % p * invMod p (2 * y % p) % p
               else (y' + p - y) % p * invMod p ((x' + p - x) % p) % p
      let x3 := (l * l + 2 * p - x - x') % p
      some (x3, (l * (x + p - x3) + p - y) % p)

/-- A multiple of a point. -/
def ecMul (q : Option (Nat × Nat)) : Nat → Nat → Option (Nat × Nat)
  | 0, _ => none
  | b + 1, e =>
    let r := ecMul q b (e / 2)
    let r := ecAdd r r
    if e % 2 = 1 then ecAdd r q else r

/-- Verification of a signature (r, s) on a digest under a public key. -/
def ecdsaVerify (key : Nat × Nat) (digest r s : Nat) : Bool :=
  let (x, y) := key
  let n := p384N
  let onCurve := decide (x < p384P) && decide (y < p384P) && (y * y % p384P == (x * x * x + (p384P - 3) * x + p384B) % p384P)
  let w := invMod n s
  let u := ecAdd (ecMul (some p384G) 384 (digest % n * w % n)) (ecMul (some key) 384 (r * w % n))
  onCurve && decide (0 < r) && decide (r < n) && decide (0 < s) && decide (s < n) &&
    match u with
    | none => false
    | some (ux, _) => ux % n == r

/-! ### CRC-32C -/

/-- The table entry of a byte: eight steps of the reflected polynomial 0x82F63B78. -/
def crcStep (c : Nat) : Nat :=
  (List.range 8).foldl (fun c _ => if c % 2 = 1 then (c / 2) ^^^ 0x82F63B78 else c / 2) c

/-- CRC-32C of a list of bytes (R214). -/
def crc32c (l : List Byte) : Nat :=
  (l.foldl (fun c b => (c / 256) ^^^ crcStep ((c ^^^ b.toNat) % 256)) 0xFFFFFFFF) ^^^ 0xFFFFFFFF

end Sys2Proof.Machine
end

