-- ==== Sys2Proof/Config.lean ====
section
/-! DEFINITION. What an implementation or the outside world fixes, and the free values of the model: constants without
a body, so that nothing can evaluate them or prove a value of them (log 3, log 12, log 13). -/

namespace Sys2Proof

/-- The free values, numbered by the counter `fresh` of the state (log 3). -/
opaque Config.freeNat : Nat → Nat

/-- The exponent byte of a zero element in a plane image, by format, which R176 and R233 leave open (log 41). -/
opaque Config.zeroExp : Nat → Nat

/-- Which of its two values kadd leaves in a register that is both fd and fc, by the register's value, fa and RM (R253, R307;
log 42): even for s', odd for e'. -/
opaque Config.kaddKeep : BitVec 32 → BitVec 32 → Nat → Nat

/-- The signature that the module's identity key makes (R400; log 13): the key never leaves the security block. -/
opaque Config.identitySign : List Byte → List Byte

/-- The identity certificate chain of the module (R400; log 13). -/
opaque Config.identityCert : List Byte

/-- The key digests in the fuses by KIND (R398, R399; log 13): 1 firmware, 2 loader. -/
opaque Config.keyDigest : Nat → BitVec 384

/-- The security version numbers in the fuses at the first power-on (R399; log 13): the counters by KIND. -/
opaque Config.fuseSvn : Nat → Nat

/-- The flash contents by byte address, zero beyond its end (R398, R399; log 13). -/
opaque Config.flashByte : Nat → Byte

/-- The physical cores that failed the tests of the boot and earlier repair, by die and index (R300, R404; log 13). -/
opaque Config.failedCore : Nat → Nat → Bool

/-- Where the images stand in flash (R398; log 13): firmware copies A and B, the loader. -/
opaque Config.flashImage : Nat → Nat

/-- Whether a port of a compute die trains (R364, R398; log 13). -/
opaque Config.portUp : Nat → Nat → Bool

/-- Whether a memory channel trains and passes its test (R404; log 13). -/
opaque Config.channelOk : Nat → Bool

/-- The module serial number (R400; log 13). -/
opaque Config.serial : BitVec 64

/-- The repair record in flash (R404; log 13). -/
opaque Config.repairRecord : List Byte

/-- The keys that the device generates, numbered by the counter `fresh` of the state (R401; log 13). -/
opaque Config.freeKey : Nat → BitVec 512

end Sys2Proof
end

