-- ==== Sys2Proof/Machine/State.lean ====
section
/-! DEFINITION. The state of the module as plain data: cores with their engines, compute dies, memory with its
coherence order, the Postmaster, the host-facing blocks and Gwynsum Post, and the state right after reset. A table
(`Tab`) lists only the entries that differ from the default its accessor names, keys rising. -/

namespace Sys2Proof.Machine

/-- A sparse table: key and value pairs, keys rising, no value equal to the table's default. -/
abbrev Tab (α : Type) := List (Nat × α)

/-- The whole physical address space, byte by byte (R258); an unlisted address reads as zero. -/
abbrev Memory := List Host.Cell

/-- The privilege level (R15). -/
inductive Level where
  | t | s
  deriving DecidableEq, Repr

/-- A moved value: of the scalar or of the vector class (R69). -/
inductive Val where
  | s (x : Word)
  | v (x : Vec)
  deriving DecidableEq, Repr

/-- An exact number of the device's arithmetic: a NaN (signalling or not), an infinity, or the dyadic
`(-1)^neg · m · 2^e`; a zero keeps its sign. -/
inductive Num where
  | nan (signalling : Bool)
  | inf (neg : Bool)
  | fin (neg : Bool) (m : Nat) (e : Int)
  deriving DecidableEq, Repr

/-- The register files of a core, by physical number (R8, R9). -/
structure Files where
  g : Tab Word
  v : Tab Vec
  p : Tab Bool
  m : Tab Word
  o : Tab Word
  w : Tab Vec
  deriving DecidableEq, Repr

/-- The control and status registers of a core (R16). -/
structure Csrs where
  xstat : Word
  xpc : Word
  xcause : Word
  xaddr : Word
  grb : BitVec 6
  vrb : BitVec 5
  prb : BitVec 3
  trip : BitVec 32
  stgw : BitVec 4
  vstat : BitVec 16
  mxstat : Word
  ssstat : Word
  devctl : Word
  wpb : Tab Word
  wpm : Tab Word
  savebase : Word
  savelim : Word
  lrtbase : Word
  tileidx : BitVec 32
  phaseid : Word
  launchid : Word
  jobid : Word
  asid : BitVec 16
  keyid : BitVec 10
  seed : Word
  deriving DecidableEq, Repr

/-- Operand and result ports (R10, R82). Scalar operand ports by `4u + p`, vector operand ports by `4i + p` with
`i` 0, 1, 2 for VA0, VA1, VX; result ports by source code less 0x0F0. -/
structure Ports where
  sOp : Tab Word
  vOp : Tab Vec
  sRes : Tab Word
  vRes : Tab Vec
  deriving DecidableEq, Repr

/-- An operation in flight to a result port (R84): the port's source code, the value (absent until an SS operation
has sampled), the VSTAT flags it delivers (R145), the issue ticks still to count, the level it counts at (R324), and
the SS operation it waits for. -/
structure Flight where
  port : Nat
  val : Option Val
  flags : BitVec 8
  rem : Nat
  lvl : Level
  ssid : Nat
  deriving DecidableEq, Repr

/-- One entry of a load-data queue (R12): its number, shape and bytes, the tick (in the core's unfrozen ticks) at
which it is ready, whether its access has completed and whether it has arrived, that is, can be popped, and the bytes that an own atomic still has to deliver (R127): position in
the entry, number of the atomic, position in its result (0 to 7 the value it leaves, 8 to 15 the old value). `homes` are
the cores whose scratchpad it reads and `frz` counts their freezes meanwhile (R266); `places` are the runs of bytes that a load
reads, each with its address, its length and its key slot (R402). -/
structure LdEntry where
  id : Nat
  vec : Bool
  signed : Bool
  bytes : List Byte
  due : Nat
  issued : Nat
  done : Bool
  arrived : Bool
  padded : Bool
  homes : List Nat
  frz : Nat
  deps : List (Nat × Nat × Nat)
  places : List (Nat × Nat × Nat)
  deriving DecidableEq, Repr

/-- The atomic operations of R131. -/
inductive AtomOp where
  | add | min | max | and | or | xor | swp | cas
  deriving DecidableEq, Repr

/-- A store or atomic that has issued and has not performed (R125): its number, the physical bytes it writes (for an
atomic its doubleword address), the tick at which it performs, the publish it follows (R133), whether it runs PADDED,
the stamp of its issue, its level, and the key slots of its lines. -/
structure Access where
  id : Nat
  atomic : Option AtomOp
  chunks : List (Nat × List Byte)
  keys : List (Nat × Nat)
  operand : Word
  expected : Word
  va : Word
  due : Nat
  issued : Nat
  stamp : Nat
  afterPub : Nat
  padded : Bool
  frz : Nat
  lvl : Level
  deriving DecidableEq, Repr

/-- Scopes of publication, wider later (R270). -/
inductive Scope where
  | d | p | s
  deriving DecidableEq, Repr

/-- A publish in flight (R133): its number, its scope, the first access number it does not cover, the engine writes it
covers (the observed command numbers), and, once its writes have performed, the tick at which it completes. -/
structure Pub where
  id : Nat
  scope : Scope
  upto : Nat
  cmds : List Nat
  issued : Nat
  due : Option Nat
  deriving DecidableEq, Repr

/-- The kinds of update of a barrier (R137, R229). -/
inductive BarKind where
  | init (arrvi : Nat)
  | arr (count : Nat)
  | exp (units : Nat)
  | dec (units : Nat)
  deriving DecidableEq, Repr

/-- A barrier update on its way to the barrier's home (R136): due in ticks of the issuing core; `stamp` is that of the
issue of its operation or command (R229). -/
structure BarUpd where
  kind : BarKind
  addr : Nat
  due : Nat
  afterPub : Nat
  cmd : Nat
  stamp : Nat
  deriving DecidableEq, Repr

/-- A pending CU effect (R101): the operation's low code and its captured ports a and b. -/
structure CuPend where
  op : Nat
  a : Word
  b : Word
  deriving DecidableEq, Repr

/-- The loop inputs of a bundle's original issue (R105, R331). -/
structure LoopIn where
  trip : BitVec 32
  stgw : BitVec 4
  prb : BitVec 3
  preds : Tab Bool
  deriving DecidableEq, Repr

/-- A shadow source of an uncommitted slot (R323). -/
structure Shadow where
  slot : Nat
  val : Val
  deriving DecidableEq, Repr

/-- Why a bundle is held at issue (the causes of R356 that a hold can have). -/
inductive HoldCause where
  | ldqFull | earlyPop | xlMiss | doneWin | tbwait | tkaln | sfence | wpwait | phrecv | fjwait
  | mxqFull | mxDrain | cqFull | flqFull | remote | cphaz | vjoin | phsend | drain
  deriving DecidableEq, Repr

/-- The result of the checks of a slot at issue: it can issue, it holds the bundle (R63), it waits for a translation
(R124), it faults (code, detail, XADDR), or a watchpoint halts the core (R344). -/
inductive Check where
  | ok
  | hold (cause : HoldCause) (budget : Nat)
  | walk (va : Nat) (write : Bool)
  | fault (code detail xaddr : Nat)
  | halt
  deriving DecidableEq, Repr

/-- The bundle that a core is issuing, slot by slot (R65): its index, the slot reached, its words, the register files
as they stood at issue, and as selectors read them (R143), the values popped from ag.q by slot, the port moves that its
triggers see and what its committing moves leave in ports, ENMASK, DONE, the pending CU effect, whether it is a re-issue by
eret, its shadow entries, the loop inputs of the original issue, the registers written so far, a slot exempt from watchpoints
(R345), the stamp of the issue, whether its stalls are settled (R63), the slot at which the scan has found that the bundle
stops, with what stops it, the cause of the hold that ended when it opened (R140), and the swizzled view before the bundle where a
slot of it has changed that (R63). -/
structure Issue where
  idx : Nat
  slot : Nat
  words : Bundle
  files : Files
  sel : Files
  pops : List (Nat × Val)
  moves : List (Nat × Val)
  puts : List (Nat × Val)
  en : BitVec 8
  done : BitVec 8
  pend : Option CuPend
  reissue : Bool
  shadows : List Shadow
  loopIn : LoopIn
  written : List Nat
  noWatch : Option Nat
  stamp : Nat
  scanned : Bool
  stop : Option (Nat × Check)
  heldFor : Option HoldCause
  swz : Option (Tab Byte)
  deriving DecidableEq, Repr

/-- A bundle held at issue (R357): the tick of its first attempt, by the die and by the core's unfrozen ticks (R130), the slot
and cause last found, and that wait's budget. -/
structure Hold where
  since : Nat
  first : Nat
  slot : Nat
  cause : HoldCause
  budget : Nat
  deriving DecidableEq, Repr

/-- A postmark or trace record accepted by the die's trace unit (R351, R355). -/
structure TraceRec where
  postmark : Bool
  bytes : List Byte
  deriving DecidableEq, Repr

/-- Why a core has stopped for good or for the host. -/
inductive RunState where
  /-- No launch: the state after reset. -/
  | idle
  /-- Bound, waiting for the start tick (R305). -/
  | ready
  /-- Issuing bundles. -/
  | run
  /-- Its part of the launch has ended (R109). -/
  | ended
  /-- Stopped by a pre-emption or a yield and settling (R335). -/
  | settling
  /-- Saved. -/
  | saved
  /-- Stopped by XLFLT at T level and settling for the park (R327). -/
  | parking
  /-- Parked, its frame written. -/
  | parked
  /-- Stopped by a failed save (R332). -/
  | saveFailed
  /-- Halted by the debug core (R344). -/
  | halted
  /-- Stopped by a fault at S level (R326). -/
  | stubflt
  /-- Stopped by a replay cause (R339). -/
  | replay
  /-- Stopped by a fatal error (R408). -/
  | dead
  deriving DecidableEq, Repr

/-- An S-level bank (R324): o12 to o15, the ports and results of CU, IA0, IA1 and AG, the 8-entry queue; and the deadline of a
waitc or ifence that a stub has issued (R108). -/
structure SBank where
  o : Tab Word
  sOp : Tab Word
  sRes : Tab Word
  ldq : List LdEntry
  wait : Nat
  deriving DecidableEq, Repr

/-- One cached translation (R275, R276, R278). -/
structure TlbEntry where
  asid : BitVec 16
  vbase : Nat
  size : Nat
  pte : Word
  deriving DecidableEq, Repr

/-- A requester of translations, in the tie order of R278. -/
inductive Requester where
  | core (c : Nat)
  | courier (c : Nat)
  | dieCourier (c q : Nat)
  | fuller (d : Nat)
  | none
  deriving DecidableEq, Repr

/-- The matrix array's mode (R179). -/
inductive MxMode where
  | fwd | bwd | wgrad
  deriving DecidableEq, Repr

/-- A weight format with its smoothing flag and factors (R177). -/
structure WFmt where
  fmt : BitVec 4
  smooth : Bool
  fac : Tab Lane
  deriving DecidableEq, Repr

/-- A queued MX command or follow-on (R173, R195): its number, the low code of its trigger (0x0D for a queued ADMIT), its
captured operands, its tag, the MX tick of its trigger, the earliest tick that the scales before it allow (R183), and
SEED and TILEIDX at its trigger (R192). -/
structure MxCmd where
  id : Nat
  op : Nat
  a : Word
  b : Word
  tag : BitVec 8
  trig : Nat
  scaleMin : Nat
  lvl : Level
  seed : Word
  tidx : BitVec 32
  deriving DecidableEq, Repr

/-- The running MX command: its command, its first tick and length, the vectors captured so far (bytes of each
operand image, the edge latches it entered under), and whether it ends in an error (R183, R196). -/
structure MxRun where
  cmd : MxCmd
  start : Nat
  len : Nat
  images : List (List Byte)
  images2 : List (List Byte)
  edges : List (Tab Byte)
  follow : Bool
  mode : MxMode
  err : Nat
  deriving DecidableEq, Repr

/-- A row that a drain has read and has not yet written (R190): the row's number in the drain, the tick at which it is
written, its pairs and the bytes of its derivative input. -/
structure DrainRow where
  cmd : MxCmd
  i : Nat
  due : Nat
  pairs : Tab (BitVec 36 × BitVec 36)
  der : List Byte
  dfn : Word
  deriving DecidableEq, Repr

/-- An undelivered row of a register drain (R193): the bundles of its level still to issue before it is delivered, and,
once ready, its two halves. -/
structure RegRow where
  cnt : Nat
  lvl : Level
  trig : Nat
  i : Nat
  data : Option (Vec × Vec)
  flags : BitVec 8
  deriving DecidableEq, Repr

/-- The matrix array of a core (R22, R173 to R199). -/
structure Mx where
  latch : Tab Num
  pendFmt : WFmt
  latched : WFmt
  mode : MxMode
  edge : Tab Byte
  sparse : Bool
  meta2 : Tab Byte
  pairs : Tab (BitVec 36 × BitVec 36)
  dfn : Word
  gradOff : Nat
  gradFmt : BitVec 4
  gradScale : Byte
  queue : List MxCmd
  running : Option MxRun
  scales : List (Nat × Nat)
  follow : List MxCmd
  arriving : List MxCmd
  rows : List DrainRow
  regRows : List RegRow
  count : BitVec 32
  deriving DecidableEq, Repr

/-- A stream descriptor (R23, R204, R205). -/
structure Desc where
  first : Nat
  rows : Nat
  n : Nat
  f : Nat
  unit : Bool
  gain : Nat
  eps : Lane
  deriving DecidableEq, Repr

/-- A row-table entry (R23). -/
structure RowMeta where
  ssq : BitVec 112
  wrapc : BitVec 16
  deriving DecidableEq, Repr

/-- An SS operation that has issued and not yet acted (R202): its number, low code, act tick and captured ports, SEED at
issue, and for a block command the pieces of its memory operand (address, key slot, length) and its barrier. -/
structure SsOp where
  id : Nat
  op : Nat
  due : Nat
  a : Word
  b : Word
  c : Word
  data : Vec
  lvl : Level
  seed : Word
  spans : List (Nat × Nat × Nat)
  tb : Nat
  deriving DecidableEq, Repr

/-- A flit of courier adds (R209, R237): the stream address of its first element, the source elements with their
format, the rounding mode, subtract, the issuing core, and the tick of the store's die at which a queue accepted it. -/
structure Flit where
  sid : Nat
  row : Nat
  el : Nat
  fmt : BitVec 4
  rm : Nat
  sub : Bool
  data : List Byte
  core : Nat
  acc : Nat
  deriving DecidableEq, Repr

/-- A command of the stream engine (R215 to R217): its row address, the virtual address and the pieces of its envelope,
its barrier, the envelope, the blocks moved, the tick of its act, its command number, the flags so far, and the row
length and binary point of its stream. -/
structure SsEng where
  op : Nat
  rowAddr : Nat
  va : Nat
  spans : List (Nat × Nat × Nat)
  tb : Nat
  bytes : List Byte
  pos : Nat
  acted : Nat
  stamp : Nat
  lvl : Level
  cmd : Nat
  flags : BitVec 8
  n : Nat
  f : Nat
  deriving DecidableEq, Repr

/-- The stream store of a core (R23, R202 to R219). -/
structure Store where
  elems : Tab (BitVec 48)
  rows : Tab RowMeta
  desc : Tab (Option Desc)
  ops : List SsOp
  dieQ : List Flit
  pkgQ : List Flit
  eng : List SsEng
  drains : List (Nat × Nat)
  deriving DecidableEq, Repr

/-- A courier command (R223, R227): its number, its entry, the captured records (the second is a destination shape), the
core state it issued under, the tick of its issue, and the core's own swizzled view at that tick for a source read through
it. -/
structure CpCmd where
  id : Nat
  op : Nat
  dest : Word
  tb : Word
  ctl : Word
  aux : List Byte
  dst : List Byte
  stamp : Nat
  asid : BitVec 16
  keyid : BitVec 10
  lvl : Level
  issued : Nat
  cap : Option Memory
  deriving DecidableEq, Repr

/-- The running command of a queue (R229): its first tick, the units landed, the bytes landed, the flags so far, the
earliest tick at which the next line can land, the row length read at the start (R237). -/
structure CpRun where
  start : Nat
  elem : Nat
  landed : Nat
  flags : BitVec 8
  next : Nat
  n : Nat
  deriving DecidableEq, Repr

/-- One courier queue of a core (R221, R222). -/
structure Queue where
  ring : Word
  aux : Word
  log2 : Nat
  head : BitVec 32
  tail : BitVec 32
  prog : Nat
  faulted : Bool
  faddr : Word
  recAddr : Word
  cmds : List CpCmd
  running : Option CpRun
  deriving DecidableEq, Repr

/-- A level of the Sorter (R235). -/
structure SortLevel where
  cnt : BitVec 24
  sstr : BitVec 40
  dstr : BitVec 40
  deriving DecidableEq, Repr

/-- Courier and Sorter state of a core (R25, R221, R235); `landed` lists commands (queue and number) with landed writes
that wpr or wpwait has still to show (R230). -/
structure Courier where
  wp : Tab Word
  queues : Tab Queue
  landed : List (Nat × Nat)
  sbase : Word
  levels : Tab SortLevel
  deriving DecidableEq, Repr

/-- The Fuller's state of a core (R246, R249): the next card's number, the last completed card, the cards skipped, the
first error (number, code), the flags, the completed cards that fjwait has still to cover (number, command), and of the cards that
the last frame carries the place of their issue in the core's order and their level (number, place, level; log 21). -/
structure FullerCore where
  next : BitVec 32
  last : BitVec 32
  skipped : Nat
  err : Option (BitVec 32 × Nat)
  flags : BitVec 8
  cards : List (BitVec 32 × Nat)
  saved : List (BitVec 32 × Nat × Level)
  deriving DecidableEq, Repr

/-- A schedule entry (R302). -/
structure SchedEntry where
  tidx : Nat
  tx : BitVec 24
  ty : BitVec 24
  tz : BitVec 24
  entry : Nat
  deriving DecidableEq, Repr

/-- The swizzled view of a core's scratchpad and the bytes each view has taken since the last vjoin (R129, R262):
local offsets written through each view, and the writes of other agents that wait for an acq that covers them
(the number of the write in the coherence order, its local offset and, for a swizzled write, its byte); `linOwn` are the bytes
that the core's own couriers have landed through the linear view (R130). -/
structure Views where
  swz : Memory
  linDirty : List Nat
  swzDirty : List Nat
  linWait : List (Nat × Nat)
  swzWait : List (Nat × Nat × Byte)
  linOwn : List (Nat × Nat)
  deriving DecidableEq, Repr

/-- A core's registers for the debug core (R343); `haltAt` is the tick at which its halt group halts it, `step` is 1 before and
2 after the bundle of a single step (R345); `resumed` is the debug module's resume acknowledgement (R342). -/
structure Dbg where
  dpc : BitVec 14
  dstat : Word
  haltreq : Bool
  group : Nat
  rgroup : Nat
  haltAt : Option Nat
  step : Nat
  resumed : Bool
  deriving DecidableEq, Repr

/-- Pages that xlpre or a launch preloads and that have still to be requested (R135, R279): the tables and the address space, the
next page and how many are left, and how many of them fill the core's micro-TLB. -/
structure Preload where
  root : Nat
  asid : BitVec 16
  page : Nat
  left : Nat
  micro : Nat
  deriving DecidableEq, Repr

/-- The header that a core that has ended its launch leaves at a pre-emption: not written, written, or its save failed (R332, R334). -/
inductive EndSave where
  | unsaved | saved | failed
  deriving DecidableEq, Repr

/-- One logical core with everything that belongs to it. `waitLeft` holds WREM of a restored core until it starts (R108, R333);
`reenter` holds DONE and the slot exempt from watchpoints when the next issue re-enters a bundle (R113, R345); `wx` the imprecise
hits on their way: tick, ACT, cause, address (R349); `pendEv` the asynchronous events that wait: PEND bit, cause, address (R322);
`stopSel` the files that the selectors of a stopped bundle read (R143), `lastScr` the PADDED figure of the last AG store or atomic
to the own scratchpad (R130), `copies` the copies of phrecv that perform at the start of the next tick (address, bytes, stamp;
R244), `wxStub` whether the stub that runs is, or runs within, that of a WATCHX (R349), `fetched` the bundles that were fetched
before the host wrote their locations (R116); `mxEvt` and `ssEvt` the first event of the tick with MXSTAT and SSSTAT as they were
before it (R21). -/
structure Core where
  files : Files
  csr : Csrs
  tx : BitVec 24
  ty : BitVec 24
  tz : BitVec 24
  ports : Ports
  sbank : SBank
  flight : List Flight
  newFlags : BitVec 8
  newMx : Word
  newSs : Word
  mxEvt : Option (Word × Word)
  ssEvt : Option (Word × Word)
  ldq : List LdEntry
  accs : List Access
  pubs : List Pub
  bups : List BarUpd
  copies : List (Nat × List Byte × Nat)
  pc : BitVec 14
  code : Tab Bundle
  stubNew : Option (List Bundle)
  run : RunState
  issue : Option Issue
  enmask : BitVec 8
  pend : Option CuPend
  loopIn : Option LoopIn
  shadows : List Shadow
  held : Option Hold
  waitUntil : Nat
  waitLeft : Nat
  now : Nat
  freeze : Nat
  itag : BitVec 32
  sched : List SchedEntry
  cursor : Nat
  reported : Bool
  cancelled : List Nat
  launch : Option (Nat × Nat)
  resident : Bool
  stopReq : Bool
  stopNow : Bool
  views : Views
  mx : Mx
  ss : Store
  cp : Courier
  fl : FullerCore
  obs : List Nat
  utlb : List TlbEntry
  ctlb : List TlbEntry
  preloads : List Preload
  xlFault : List (Nat × Bool × Nat)
  dbg : Dbg
  devt : Nat
  busyFrom : Nat
  endedAt : Nat
  dev : Nat
  arriveAt : Nat
  endSave : EndSave
  reenter : Option (BitVec 8 × Option Nat)
  wx : List (Nat × Nat × Word × Word)
  pendEv : List (Nat × Word × Word)
  scrTick : Nat
  lastScr : Nat
  stopSel : Option Files
  wxStub : Bool
  fetched : List (Nat × Bundle)
  deriving DecidableEq, Repr

/-- A flit on its way to a pigeonhole (R243). -/
structure PhFlit where
  port : Nat
  par : Nat
  pos : Nat
  tag : BitVec 32
  data : BitVec 512
  due : Nat
  deriving DecidableEq, Repr

/-- A pigeonhole position (R375). -/
structure PhPos where
  valid : Bool
  tag : BitVec 32
  data : BitVec 512
  deriving DecidableEq, Repr

/-- A beacon in flight (R368): the receiver's port, the receiver's tick at which it arrives, its fields, and whether it is to fail
its CRC (R365). -/
structure Beacon where
  port : Nat
  due : Nat
  dval : Nat
  est : Option Nat
  bad : Bool
  deriving DecidableEq, Repr

/-- The estimate of another die's DTICK (R369, R370). -/
structure Estimate where
  val : Nat
  valid : Bool
  age : Nat
  stale : Bool
  deriving DecidableEq, Repr

/-- For whom a walker sets D (R276): the core, the level and the KEYID register of a write that waits. -/
structure Writer where
  core : Nat
  lvl : Level
  key : BitVec 10
  deriving DecidableEq, Repr

/-- A page walk in the pending-walk table (R278): what it translates, the writes that wait for it, the requesters that wait, those that
only take the entry (preloads), the tick and the tie rank of its first request, and, once it has started, the tick at which it is
done. -/
structure Walk where
  root : Nat
  asid : BitVec 16
  va : Nat
  writers : List Writer
  req : List Requester
  fill : List Requester
  asked : Nat
  rank : Nat
  due : Option Nat
  deriving DecidableEq, Repr

/-- A shootdown request (R280, R393). -/
structure Shootdown where
  gen : BitVec 32
  asid : BitVec 16
  all : Bool
  g : Bool
  va : Nat
  len : Nat
  waits : List (Nat × Nat)
  due : Nat
  deriving DecidableEq, Repr

/-- An entry of the Fuller queue (R246, R250). -/
inductive FlItem where
  | card (core : Nat) (seq : BitVec 32) (card : List Byte) (stamp : Nat) (asid : BitVec 16) (keyid : BitVec 10) (lvl : Level) (bank : Option Nat)
  | prog (core : Nat) (last : BitVec 32) (slot : Nat) (image : List Byte) (bank : Option Nat)
  deriving DecidableEq, Repr

/-- The running card (R247): the issuing core, its number and card, the group record (empty until the card has started),
the element, whether its routine runs and the word reached, the registers f0 to f15, whether the routine has finished and
how many tensors of the element are passed, and a halt address (R248). -/
structure FlRun where
  core : Nat
  seq : BitVec 32
  card : List Byte
  grp : List Byte
  stamp : Nat
  asid : BitVec 16
  keyid : BitVec 10
  lvl : Level
  bank : Option Nat
  b1 : Lane
  b2 : Lane
  i : Nat
  word : Nat
  f : Tab Lane
  flags : BitVec 8
  wrote : Nat
  inElem : Bool
  halted : Option Word
  finished : Bool
  hyp : List Lane
  deriving DecidableEq, Repr

/-- A routine bank (R251): the launch that holds it, or none, and its 16 slots. -/
structure Bank where
  holder : Option (Nat × Nat)
  slots : Tab (Option (List Byte))
  deriving DecidableEq, Repr

/-- The debug block of a die (R341, R342, R350); `rtlb` holds the translations of the ring pages written last (R353). -/
structure DieDbg where
  trctl : Word
  trbase : Word
  trsize : Word
  pkbase : Word
  pksize : Word
  trasid : BitVec 16
  trwp : Word
  pkwp : Word
  trset : Word
  pkset : Word
  trdrop : Word
  pkdrop : Word
  wxdrop : Word
  buffer : List TraceRec
  data : Word
  hartsel : Nat
  hartMask : List Nat
  hasel : Bool
  window : Nat
  cmderr : Nat
  command : BitVec 32
  dmactive : Bool
  grouptype : Bool
  rtlb : List TlbEntry
  deriving DecidableEq, Repr

/-- One compute die. `nextAt` is the time of its next tick in millionths of a nominal period, `tickAt` that of its last one, `ticked`
whether it has ticked since REF last advanced, `isRef` whether its tick was the one that advanced REF (R1, R367, R371; log 7), `dctlb`
the micro-TLBs of its die couriers (R278). -/
structure Die where
  dtick : Nat
  nextAt : Nat
  tickAt : Nat
  ticked : Bool
  isRef : Bool
  atick : Nat
  est : Tab Estimate
  up : BitVec 5
  retry : BitVec 16
  blost : BitVec 8
  beacons : List Beacon
  pigeon : Tab PhPos
  phFlits : List PhFlit
  tlb : List TlbEntry
  walks : List Walk
  shoots : List Shootdown
  xlva : Word
  xllen : Word
  xlgen : BitVec 32
  xlack : BitVec 32
  fq : List FlItem
  frun : Option FlRun
  ffreeze : Nat
  dcfreeze : Tab Nat
  dctlb : Tab (List TlbEntry)
  ftlb : List TlbEntry
  banks : Tab Bank
  dbg : DieDbg
  remap : Tab (BitVec 16)
  stubaddr : Word
  clkStep : Nat
  deriving DecidableEq, Repr

/-- What made a write: an access of its core or a system agent, a courier of the core, another engine of it. -/
inductive WriteSrc where
  | core | courier | engine
  deriving DecidableEq, Repr

/-- A write in the coherence order (R267): its number, address, bytes, issuing core, stamps of issue and of perform,
the cores whose view holds it with the stamp at which it entered (R268), the scope it is published at (R133, R270), what made
it, and for an engine its command; command 0 marks what an acas that writes nothing brings into its own core's view (R127), and a
drain row, which its core publishes only after a vjoin (R273). `swz` marks a write through the swizzled view of a scratchpad (R129). -/
structure WriteRec where
  seq : Nat
  addr : Nat
  bytes : List Byte
  core : Nat
  issued : Nat
  performed : Nat
  seen : List (Nat × Nat)
  pub : Option Scope
  src : WriteSrc
  cmd : Option Nat
  swz : Bool
  deriving DecidableEq, Repr

/-- A combined update of a barrier (R27, R138): the home's tick, the doubleword before it, and the cores that have
observed it. -/
structure BarRec where
  addr : Nat
  tick : Nat
  before : Word
  told : List Nat
  deriving DecidableEq, Repr

/-- A courier decrement that has performed and the generation it counted toward (R229, R230). -/
structure BarCmd where
  addr : Nat
  core : Nat
  cmd : Nat
  gen : BitVec 32
  deriving DecidableEq, Repr

/-- The seven states of a hardware queue slot (R292). -/
inductive SlotState where
  | unmapped | mapped | selected | bound | running | draining | suspended
  deriving DecidableEq, Repr

/-- A launch of a bound phase (R289, R303): its record, the cores it uses, its window base and what has been reported
and not yet counted, and the fields of its record that the Postmaster needs. -/
structure LaunchRun where
  recAddr : Nat
  launchid : Word
  flags : BitVec 16
  nunit : Nat
  cores : List Nat
  base : Nat
  rep : Tab (Option (BitVec 16))
  udone : Nat
  ufail : Nat
  ucanc : Nat
  stata : Nat
  bal : Nat
  deriving DecidableEq, Repr

/-- The graph a slot runs (R288, R290, R305): its records, its identity, the phase reached, its core mask, the bound
launches, the snapshot of its phase with the first write number after it (R268, R272), the start tick, the replays of the
phase (R340), the expiry of a pre-emption budget (R334), a replay cause that waits (R339), whether it binds from a
suspension record (R336), whether it is cancelled and the HEAD that a job cancel leaves (R299), and
whether the suspension record of a phase boundary could not be written (R332). -/
structure GraphRun where
  graph : Nat
  ctx : Nat
  entry : Nat
  gseq : BitVec 48
  nph : Nat
  phase : Nat
  cores : List Nat
  launches : List LaunchRun
  snap : Memory
  snapSeq : Nat
  start : Nat
  replays : Nat
  budget : Option Nat
  replay : Option Nat
  resumed : Bool
  cancelled : Bool
  cut : Option (BitVec 32)
  stuck : Bool
  deriving DecidableEq, Repr

/-- What R31 keeps of a suspended graph and its frame does not name (log 21): the graph, the coherence order at the
suspension with the number that followed it, and the windows of its cores. -/
structure KeptRun where
  run : GraphRun
  log : List WriteRec
  seq : Nat
  wins : Memory
  deriving DecidableEq, Repr

/-- A hardware queue slot (R292); `stamp` is one more than the tick of its eligibility, 0 while it is not eligible. -/
structure Slot where
  state : SlotState
  recAddr : Option Nat
  lastrec : Option Nat
  head : BitVec 32
  tail : BitVec 32
  prio : BitVec 4
  age : BitVec 16
  stamp : Nat
  latched : Nat
  heldPreempt : Bool
  heldUnmap : Bool
  unmapPending : Bool
  susp : Nat
  graph : Option GraphRun
  deriving DecidableEq, Repr

/-- The Postmaster (R292, R293, R334): its slots and registers, the cancelled units by launch record (R299), and beside the
frames and suspension records in memory, by their addresses, what R31 keeps and they do not name (log 21). -/
structure Pm where
  slots : Tab Slot
  carg : Word
  cmdcode : BitVec 8
  errs : BitVec 32
  agestep : BitVec 8
  prdelta : BitVec 5
  dirbase : Word
  dirlen : BitVec 13
  dbdrop : Word
  pbudget : BitVec 32
  cancels : List (Nat × Nat)
  frames : Tab (Option Core)
  runs : Tab (Option KeptRun)
  deriving DecidableEq, Repr

/-- What the device reports to the host (R394). -/
inductive Report where
  | remap (slot : Nat)
  | stubflt (core : Nat) (code : Nat) (xaddr : Word)
  | park (core : Nat) (cause : Word)
  | saveflt (core : Nat) (detail : Nat) (addr : Word)
  | stale (d j : Nat)
  | throttle
  | replay (core : Nat) (cause : Nat) (detail : Nat) (addr : Word)
  | nak (conn : BitVec 32) (psn : BitVec 32) (reason : Nat)
  deriving DecidableEq, Repr

/-- A key slot: the key material it holds (R401). -/
abbrev KeySlot := Option (BitVec 512)

/-- The host complex, security block, feature block, keys and governor (R392 to R409). `attReq` is the report under way: the REF tick at
which it appears and its body (R400); `keyRun` the key command that runs: when it takes effect, the table, the slot and the key (R401); `svn` what firmware has raised the fused counters to, and `fwOn` whether accepted firmware runs
(R399; log 13). -/
structure HostBlock where
  regs : Tab Word
  fwant : Tab Word
  locked : Bool
  feat : Tab Word
  mkeys : Tab KeySlot
  pkeys : Tab KeySlot
  keyIn : BitVec 512
  bootStat : Word
  service : Option Nat
  fwSvn : BitVec 32
  fwDigest : BitVec 384
  ldDigest : BitVec 384
  nonce : List Byte
  report : List Byte
  reports : Nat
  attReq : Option (Nat × List Byte)
  keyRun : Option (Nat × Bool × Nat × KeySlot)
  fwOn : Bool
  svn : Tab Nat
  entry : Option Word
  watts : Nat
  overFor : Nat
  fatal : Option (BitVec 32)
  dumped : Bool
  posted : List Report
  lineKey : Tab KeySlot
  dumpKey : KeySlot
  deriving DecidableEq, Repr

/-- A receive region of Post (R385). -/
structure RecvRegion where
  handle : Nat
  base : Nat
  size : Nat
  barrier : Nat
  deriving DecidableEq, Repr

/-- A send ring of Post (R385): its ring and TAIL word, the entries taken, its connection. -/
structure SendRing where
  ring : Nat
  tailAddr : Nat
  size : Nat
  taken : Nat
  core : Nat
  deriving DecidableEq, Repr

/-- A Post connection (R383): its key slot and job, the next packet number to receive and to send, the packets not
yet acknowledged with the barrier their acknowledgement decrements, the tick of the last acknowledgement. -/
structure Conn where
  kslot : BitVec 10
  job : Word
  peer : BitVec 32
  expect : BitVec 32
  nextPsn : BitVec 32
  unacked : List (BitVec 32 × List Byte × Option Nat)
  lastAck : Nat
  regions : List RecvRegion
  rings : List SendRing
  deriving DecidableEq, Repr

/-- Gwynsum Post: the connections, the packets that wait to leave, the packets dropped (R381 to R385). -/
structure Post where
  conns : Tab (Option Conn)
  out : List (BitVec 32 × List Byte)
  dropped : Nat
  lastPoll : Nat
  deriving DecidableEq, Repr

/-- The events of the device, with the names and the data of their rows in `Instr`. -/
inductive Event where
  /-- BUNDLE_ISSUE (R65). -/
  | bundleIssue (c : Nat)
  /-- ASYNC_EVENT_DELIVERY (R322). -/
  | asyncEventDelivery (c : Nat)
  /-- RESULT_DELIVERY (R84). -/
  | resultDelivery (c : Nat)
  /-- LOAD_DATA_READY (R126). -/
  | loadDataReady (c : Nat)
  /-- STORE_PERFORM (R263). -/
  | storePerform (c : Nat)
  /-- ATOMIC_PERFORM (R132). -/
  | atomicPerform (c : Nat)
  /-- PUB_COMPLETE (R133). -/
  | pubComplete (c : Nat)
  /-- ACCESS_DEADLINE_MISS (R126). -/
  | accessDeadlineMiss (c : Nat)
  /-- OPEN_ACCESS_TIMEOUT (R264). -/
  | openAccessTimeout (c : Nat)
  /-- UCE (R320). -/
  | uce (c : Nat) (addr : Word)
  /-- CORRECTABLE_ERROR_FREEZE (R266). -/
  | correctableErrorFreeze (a : Freezable)
  /-- FREEZE_END (R266). -/
  | freezeEnd (a : Freezable)
  /-- TRANSLATION_WALK_COMPLETE (R278). -/
  | translationWalkComplete (d : Nat)
  /-- BARRIER_UPDATE (R27). -/
  | barrierUpdate (d : Nat)
  /-- GEN_NOTICE (R138). -/
  | genNotice (c : Nat)
  /-- SS_ACT (R202). -/
  | ssAct (c : Nat)
  /-- STREAM_FLIT_ACCEPT (R209). -/
  | streamFlitAccept (c q : Nat)
  /-- STREAM_FLIT_PERFORM (R209). -/
  | streamFlitPerform (c : Nat)
  /-- SS_BLOCK_MOVE (R215). -/
  | ssBlockMove (c : Nat)
  /-- SS_ENGINE_COMPLETE (R215). -/
  | ssEngineComplete (c : Nat)
  /-- MX_COMMAND_START (R183). -/
  | mxCommandStart (c : Nat)
  /-- MX_COMMAND_END (R183). -/
  | mxCommandEnd (c : Nat)
  /-- SCALE_LATCH_LOAD (R182). -/
  | scaleLatchLoad (c : Nat)
  /-- DRAIN_ROW_READ (R190). -/
  | drainRowRead (c : Nat)
  /-- DRAIN_ROW_WRITE (R194). -/
  | drainRowWrite (c : Nat)
  /-- FOLLOW_ON_ARRIVE (R195). -/
  | followOnArrive (c : Nat)
  /-- COURIER_COMMAND_START (R229). -/
  | courierCommandStart (c q : Nat)
  /-- COURIER_LINE_LAND (R229). -/
  | courierLineLand (c q : Nat)
  /-- COURIER_QUEUE_POLL (R337). -/
  | courierQueuePoll (c q : Nat)
  /-- FULLER_CARD_RUN (R247). -/
  | fullerCardRun (d : Nat)
  /-- FULLER_CARD_COMPLETE (R247). -/
  | fullerCardComplete (d : Nat)
  /-- FULLER_ROUTINE_LOAD (R250). -/
  | fullerRoutineLoad (d : Nat)
  /-- FULLER_FAULT_RETRY (R338). -/
  | fullerFaultRetry (d : Nat)
  /-- PIGEONHOLE_FLIT_LAND (R243). -/
  | pigeonholeFlitLand (d : Nat)
  /-- PHLATE (R244). -/
  | phlate (c : Nat)
  /-- PIGEONHOLE_SCRUB (R377). -/
  | pigeonholeScrub (d : Nat)
  /-- BEACON_SEND (R368). -/
  | beaconSend (d : Nat)
  /-- BEACON_RECEIVE (R369). -/
  | beaconReceive (d : Nat)
  /-- ESTIMATE_STALE (R370). -/
  | estimateStale (d j : Nat)
  /-- LINK_RETRY (R362). -/
  | linkRetry (d port : Nat)
  /-- LINK_STATE_CHANGE (R364). -/
  | linkStateChange (d port : Nat) (up : Bool)
  /-- MAP (R292). -/
  | mapQueue (slot : BitVec 8) (addr : BitVec 48)
  /-- UNMAP (R292). -/
  | unmap (slot : BitVec 8)
  /-- PREEMPT (R334). -/
  | preempt (slot : BitVec 8)
  /-- PRIO (R297). -/
  | prio (slot : BitVec 8) (val : BitVec 4)
  /-- CANCEL_UNIT (R299). -/
  | cancelUnit (slot : BitVec 8) (carg : Word)
  /-- CANCEL_LAUNCH (R299). -/
  | cancelLaunch (slot : BitVec 8) (carg : Word)
  /-- CANCEL_PHASE (R299). -/
  | cancelPhase (slot : BitVec 8) (carg : Word)
  /-- CANCEL_GRAPH (R299). -/
  | cancelGraph (slot : BitVec 8) (carg : Word)
  /-- CANCEL_JOB (R299). -/
  | cancelJob (slot : BitVec 8) (carg : Word)
  /-- RESUME (R327). -/
  | resume (slot : BitVec 8) (carg : Word)
  /-- CMD_REJECT (R293). -/
  | cmdReject (op : BitVec 4)
  /-- DOORBELL (R294). -/
  | doorbell (slot : BitVec 8) (tail : BitVec 32)
  /-- DIRECTORY_SCAN (R295). -/
  | directoryScan
  /-- SELECTION_ROUND (R296). -/
  | selectionRound
  /-- QUEUE_SIGNAL (R292). -/
  | queueSignal (slot : BitVec 8)
  /-- BIND (R305). -/
  | bind (slot : BitVec 8)
  /-- LAUNCH_START (R305). -/
  | launchStart (slot : BitVec 8)
  /-- REORDER_WINDOW_REPORT (R303). -/
  | reorderWindowReport (slot : BitVec 8) (j : Nat)
  /-- PHASE_END (R272). -/
  | phaseEnd (slot : BitVec 8)
  /-- PREEMPT_BUDGET_EXPIRE (R334). -/
  | preemptBudgetExpire (slot : BitVec 8)
  /-- SATCHEL_SAVE (R332). -/
  | satchelSave (c : Nat)
  /-- TIME_SLICE_YIELD (R301). -/
  | timeSliceYield (c : Nat)
  /-- PHASE_REPLAY (R339). -/
  | phaseReplay (slot : BitVec 8)
  /-- HALTREQ (R344). -/
  | haltreq (c : Nat)
  /-- RESUMEREQ (R345). -/
  | resumereq (c : Nat)
  /-- HALT_GROUP_HALT (R344). -/
  | haltGroupHalt (c : Nat)
  /-- ACCESS_REGISTER (R342). -/
  | accessRegister (d : Nat) (command : BitVec 32)
  /-- TRACE_RING_WRITE (R352). -/
  | traceRingWrite (d : Nat)
  /-- TRQUIESCE (R353). -/
  | trquiesce (d : Nat) (req : Bool)
  /-- XLCMD (R393). -/
  | xlcmd (d : Nat) (val : Word)
  /-- SHOOTDOWN_ACK (R280). -/
  | shootdownAck (d : Nat)
  /-- STUBCMD (R397). -/
  | stubcmd (d : Nat)
  /-- KEY_LOAD (R401). -/
  | keyLoad (post : Bool) (slot : BitVec 10)
  /-- KEY_GENERATE (R401). -/
  | keyGenerate (post : Bool) (slot : BitVec 10)
  /-- KEY_EMPTY (R401). -/
  | keyEmpty (post : Bool) (slot : BitVec 10)
  /-- ATTESTATION_REQUEST (R400). -/
  | attestationRequest
  /-- FLOCK (R403). -/
  | flock
  /-- GOVERNOR_SAMPLE (R407). -/
  | governorSample (watts : Nat) (temps : List Nat)
  /-- FATAL_ERROR (R408). -/
  | fatalError (cause : BitVec 32)
  /-- POWER_ON_BOOT (R398). -/
  | powerOnBoot
  /-- POST_COMMAND (R384). -/
  | postCommand (port : Nat) (pkt : List Byte)
  /-- POST_DATA (R385). -/
  | postData (port : Nat) (pkt : List Byte)
  /-- POST_ACK (R383). -/
  | postAck (port : Nat) (pkt : List Byte)
  /-- POST_NAK (R381). -/
  | postNak (port : Nat) (pkt : List Byte)
  /-- POST_SEND_POLL (R385). -/
  | postSendPoll
  /-- POST_RESEND_TIMEOUT (R383). -/
  | postResendTimeout (conn : BitVec 32)
  /-- The host registers a connection of Post, with its regions and rings (R383, R385; log 48): an input with no row of its own. -/
  | postRegister (conn : BitVec 32) (c : Option Conn)
  /-- REGISTER_WRITE (R4). -/
  | registerWrite (addr : BitVec 48) (val : Word)
  /-- TICK (R28). -/
  | tick (d : Nat)
  /-- MODULE_RESET (R408). -/
  | moduleReset
  deriving DecidableEq, Repr

/-- Whose move is next: the agenda, the slots of the open bundle of core `cur`, or the words of a Fuller. -/
inductive Turn where
  | agenda
  | bundle
  | fuller (d : Nat)
  deriving DecidableEq, Repr

/-- The module. `cur` and `turn` say which agent moves next, `agenda` holds the events of this tick still to happen,
`inbox` the inputs of the outside world with the REF tick at which each lands, `stamp` numbers issues and performs, `tickStamp`
is the stamp at the last tick,
`fresh` numbers the free values. -/
structure State where
  cur : Nat
  turn : Turn
  agenda : List Event
  inbox : List (Nat × Event)
  cores : Tab Core
  dies : Tab Die
  mem : Memory
  wlog : List WriteRec
  wseq : Nat
  bars : List BarRec
  barCmds : List BarCmd
  pm : Pm
  host : HostBlock
  post : Post
  stamp : Nat
  tickStamp : Nat
  fresh : Nat
  deriving DecidableEq, Repr

/-- Why the machine stops. No instruction of a well-formed program stops the machine. -/
inductive Fault where
  /-- Raised by `exec` on an event that names an agent the module does not have (a core at or above 768, a die at or
  above 4, a queue, port or slot out of range): safe, the device has no such event. -/
  | noSuchAgent
  deriving DecidableEq, Repr

/-- Why an instruction has no meaning. -/
inductive Refusal where
  /-- Raised by an arm of `exec` whose instruction has no meaning yet: safe. -/
  | notModelled (mnemonic : String)
  deriving DecidableEq, Repr

/-- Registers files after reset (log 1). -/
def Files.reset : Files := { g := [], v := [], p := [], m := [], o := [], w := [] }

/-- The control registers after reset (R16, R18, R20). -/
def Csrs.reset : Csrs :=
  { xstat := 0x10000, xpc := 0, xcause := 0, xaddr := 0, grb := 0, vrb := 0, prb := 0, trip := 0, stgw := 0,
    vstat := 0, mxstat := 0, ssstat := 0, devctl := 0x01000001, wpb := [], wpm := [], savebase := 0, savelim := 0,
    lrtbase := 0, tileidx := 0, phaseid := 0, launchid := 0, jobid := 0, asid := 0, keyid := 0, seed := 0 }

/-- Ports after reset (log 1). -/
def Ports.reset : Ports := { sOp := [], vOp := [], sRes := [], vRes := [] }

/-- The S bank after reset (log 1). -/
def SBank.reset : SBank := { o := [], sOp := [], sRes := [], ldq := [], wait := 0 }

/-- A weight format at launch start: FP32 (code 0), no smoothing (R7). -/
def WFmt.reset : WFmt := { fmt := 0, smooth := false, fac := [] }

/-- The matrix array at launch start (R7, R184, R188). -/
def Mx.reset : Mx :=
  { latch := [], pendFmt := .reset, latched := .reset, mode := .fwd, edge := [], sparse := false, meta2 := [],
    pairs := [], dfn := 0x3F80000000000000, gradOff := 0, gradFmt := 0, gradScale := 0x7F, queue := [],
    running := none, scales := [], follow := [], arriving := [], rows := [], regRows := [], count := 0 }

/-- The stream store with every descriptor invalid (R7). -/
def Store.reset : Store :=
  { elems := [], rows := [], desc := [], ops := [], dieQ := [], pkgQ := [], eng := [], drains := [] }

/-- The courier and Sorter at launch start (R7, R235). -/
def Courier.reset : Courier := { wp := [], queues := [], landed := [], sbase := 0, levels := [] }

/-- The Fuller's state of a core at launch start (R246, R249). -/
def FullerCore.reset : FullerCore := { next := 1, last := 0, skipped := 0, err := none, flags := 0, cards := [], saved := [] }

/-- An empty courier queue (log 15). -/
def Queue.reset : Queue :=
  { ring := 0, aux := 0, log2 := 0, head := 0, tail := 0, prog := 0, faulted := false, faddr := 0, recAddr := 0, cmds := [],
    running := none }

/-- Sorter levels at launch start (R235). -/
def SortLevel.reset : SortLevel := { cnt := 0, sstr := 0, dstr := 0 }

/-- Two equal, empty scratchpad views. -/
def Views.reset : Views := { swz := [], linDirty := [], swzDirty := [], linWait := [], swzWait := [], linOwn := [] }

/-- Debug registers of a core after reset (R343; DPC log 1). -/
def Dbg.reset : Dbg := { dpc := 0, dstat := 0, haltreq := false, group := 0, rgroup := 0, haltAt := none, step := 0, resumed := false }

/-- A logical core after reset: no launch, S level (R18). -/
def Core.reset : Core :=
  { files := .reset, csr := .reset, tx := 0, ty := 0, tz := 0, ports := .reset, sbank := .reset, flight := [],
    newFlags := 0, newMx := 0, newSs := 0, mxEvt := none, ssEvt := none, ldq := [], accs := [], pubs := [], bups := [], copies := [], pc := 0, code := [], stubNew := none, run := .idle,
    issue := none, enmask := 0, pend := none, loopIn := none, shadows := [], held := none, waitUntil := 0, waitLeft := 0, now := 0,
    freeze := 0, itag := 0, sched := [], cursor := 0, reported := false, cancelled := [], launch := none,
    resident := true, stopReq := false, stopNow := false, views := .reset, mx := .reset, ss := .reset, cp := .reset,
    fl := .reset, obs := [], utlb := [], ctlb := [], preloads := [], xlFault := [], dbg := .reset, devt := 0,
    busyFrom := 0, endedAt := 0, dev := 0, arriveAt := 0, endSave := .unsaved, reenter := none,
    wx := [], pendEv := [], scrTick := 0, lastScr := 0, stopSel := none, wxStub := false, fetched := [] }

/-- A die's debug block after reset (R350: QREQ and QACK are 1). -/
def DieDbg.reset : DieDbg :=
  { trctl := 0x60, trbase := 0, trsize := 0, pkbase := 0, pksize := 0, trasid := 0, trwp := 0, pkwp := 0, trset := 0,
    pkset := 0, trdrop := 0, pkdrop := 0, wxdrop := 0, buffer := [], data := 0, hartsel := 0, hartMask := [], hasel := false, window := 0,
    cmderr := 0, command := 0, dmactive := false, grouptype := false, rtlb := [] }

/-- A compute die after reset: DTICK is zero (R28, R367), no port is up (R366). -/
def Die.reset : Die :=
  { dtick := 0, nextAt := 0, tickAt := 0, ticked := false, isRef := false, atick := 0, est := [], up := 0, retry := 0, blost := 0, beacons := [], pigeon := [], phFlits := [],
    tlb := [], walks := [], shoots := [], xlva := 0, xllen := 0, xlgen := 0, xlack := 0, fq := [], frun := none,
    ffreeze := 0, dcfreeze := [], dctlb := [], ftlb := [], banks := [], dbg := .reset, remap := [], stubaddr := 0, clkStep := 0 }

/-- A queue slot after reset: UNMAPPED, LASTREC none (R292). -/
def Slot.reset : Slot :=
  { state := .unmapped, recAddr := none, lastrec := none, head := 0, tail := 0, prio := 0, age := 0, stamp := 0,
    latched := 0, heldPreempt := false, heldUnmap := false, unmapPending := false, susp := 0, graph := none }

/-- The Postmaster after reset: AGESTEP 16, PRDELTA 4 (R293), PBUDGET 100,000 (R334). -/
def Pm.reset : Pm :=
  { slots := [], carg := 0, cmdcode := 0, errs := 0, agestep := 16, prdelta := 4, dirbase := 0, dirlen := 0,
    dbdrop := 0, pbudget := 100000, cancels := [], frames := [], runs := [] }

/-- The host-facing blocks after reset: no feature lock, every key slot empty (R401, R403). -/
def HostBlock.reset : HostBlock :=
  { regs := [], fwant := [], locked := false, feat := [], mkeys := [], pkeys := [], keyIn := 0, bootStat := 0,
    service := none, fwSvn := 0, fwDigest := 0, ldDigest := 0, nonce := [], report := [], reports := 0, attReq := none, keyRun := none, fwOn := false, svn := [],
    entry := none, watts := 0, overFor := 0, fatal := none, dumped := false, posted := [], lineKey := [], dumpKey := none }

/-- Post with no connection. -/
def Post.reset : Post := { conns := [], out := [], dropped := 0, lastPoll := 0 }

/-- The module right after power-on or a module reset: the boot ROM's sequence is the first thing to happen (R398). -/
def State.reset : State :=
  { cur := 0, turn := .agenda, agenda := [.powerOnBoot], inbox := [], cores := [], dies := [], mem := [], wlog := [],
    wseq := 0, bars := [], barCmds := [], pm := .reset, host := .reset, post := .reset, stamp := 1, tickStamp := 0, fresh := 0 }

end Sys2Proof.Machine
end

