-- ==== Sys2Proof/Machine/Tab.lean ====
section
/-! DEFINITION. Sparse tables and byte memory in canonical form: keys strictly rising, no entry equal to what an
unlisted key reads as. -/

namespace Sys2Proof.Machine

/-- What a table holds at a key; `d` is what an unlisted key reads as. -/
def tget {α : Type} (d : α) : Tab α → Nat → α
  | [], _ => d
  | (k', v) :: t, k => if k' = k then v else tget d t k

/-- A table without the entries of a key. -/
def terase {α : Type} : Tab α → Nat → Tab α
  | [], _ => []
  | (k', v) :: t, k => if k' = k then terase t k else (k', v) :: terase t k

/-- Insertion before the first larger key. -/
def tinsert {α : Type} : Tab α → Nat → α → Tab α
  | [], k, v => [(k, v)]
  | (k', v') :: t, k, v => if k < k' then (k, v) :: (k', v') :: t else (k', v') :: tinsert t k v

/-- A table after a write; writing the default removes the entry. -/
def tset {α : Type} [DecidableEq α] (d : α) (t : Tab α) (k : Nat) (v : α) : Tab α :=
  if v = d then terase t k else tinsert (terase t k) k v

/-- A table after a change of one entry. -/
def tmod {α : Type} [DecidableEq α] (d : α) (t : Tab α) (k : Nat) (f : α → α) : Tab α := tset d t k (f (tget d t k))

/-- A table from the values of the keys `0 .. n-1`. -/
def tfrom {α : Type} [DecidableEq α] (d : α) (n : Nat) (f : Nat → α) : Tab α :=
  (List.range n).filterMap fun k => if f k = d then none else some (k, f k)

/-- Keys strictly rising, each above `lo`, and no value equal to the default. -/
def tabWfFrom {α : Type} [DecidableEq α] (d : α) : (lo : Nat) → Tab α → Bool
  | _, [] => true
  | lo, (k, v) :: t => decide (lo ≤ k) && decide (v ≠ d) && tabWfFrom d (k + 1) t

/-- The canonical form of a table. -/
def tabWf {α : Type} [DecidableEq α] (d : α) (t : Tab α) : Bool := tabWfFrom d 0 t

/-- The canonical form of memory: addresses strictly rising, no byte equal to the 0 of an unlisted address. -/
def Memory.wf (m : Memory) : Bool := tabWf (0 : Byte) m

/-- One byte of memory; an unlisted address reads as 0 (log 2). -/
def memByte (m : Memory) (a : Nat) : Byte := tget 0 m a

/-- Writing one byte. -/
def memPut (m : Memory) (a : Nat) (b : Byte) : Memory := tset 0 m a b

/-- `n` bytes from address `a` upwards. -/
def memRead (m : Memory) (a n : Nat) : List Byte := (List.range n).map fun i => memByte m (a + i)

/-- Writing bytes from address `a` upwards. -/
def memWrite : Memory → Nat → List Byte → Memory
  | m, _, [] => m
  | m, a, b :: bs => memWrite (memPut m a b) (a + 1) bs

/-- The entries of a table with keys in `[lo, lo+n)`. -/
def tslice {α : Type} (t : Tab α) (lo n : Nat) : Tab α := t.filter fun x => decide (lo ≤ x.1) && decide (x.1 < lo + n)

/-- A table whose entries with keys in `[lo, lo+n)` are replaced by those of `new`. -/
def tsplice {α : Type} (t : Tab α) (lo n : Nat) (new : Tab α) : Tab α :=
  (t.filter fun x => decide (x.1 < lo)) ++ tslice new lo n ++ t.filter fun x => decide (lo + n ≤ x.1)

/-- The entries of a list of entries that rise from `lo` and differ from the default: all of them, in canonical form. -/
def tcanon {α : Type} [DecidableEq α] (d : α) : (lo : Nat) → Tab α → Tab α
  | _, [] => []
  | lo, (k, v) :: t => if lo ≤ k ∧ v ≠ d then (k, v) :: tcanon d (k + 1) t else tcanon d lo t

/-- A long run of bytes as table entries from a key upwards. -/
def bytesTab (a : Nat) (l : List Byte) : Memory :=
  (l.zipIdx).filterMap fun x => if x.1 = 0 then none else some (a + x.2, x.1)

/-- Writing a long run of bytes from address `a` upwards. -/
def memBlit (m : Memory) (a : Nat) (l : List Byte) : Memory := tsplice m a l.length (bytesTab a l)

/-- A long run of bytes. -/
def memSlice (m : Memory) (a n : Nat) : List Byte :=
  ((List.range n).foldl (fun (x : Memory × List Byte) i =>
    match x.1 with
    | (k, b) :: t => if k = a + i then (t, b :: x.2) else (x.1, 0 :: x.2)
    | [] => ([], 0 :: x.2)) (tslice m a n, [])).2.reverse

/-- A little-endian value of `n` bytes (R3). -/
def memNat (m : Memory) (a n : Nat) : Nat := leNat (memRead m a n)

end Sys2Proof.Machine
end

