-- ==== Sys2Proof/Machine/Ops.lean ====
section
/-! DEFINITION. The named operations over the state: agents, free values, physical map (R258, R259), the coherence
order and the views (R127, R262, R267 to R270), the arithmetic flags (R19, R21), trace records and postmarks (R351,
R355, R357), taking a trap and returning from one (R113, R321 to R327). -/

namespace Sys2Proof.Machine

/-! ### Agents -/

/-- Logical core `c`. -/
def coreOf (st : State) (c : Nat) : Core := tget Core.reset st.cores c

/-- Replacing a core. -/
def setCore (st : State) (c : Nat) (k : Core) : State := { st with cores := tset Core.reset st.cores c k }

/-- Changing a core. -/
def modCore (st : State) (c : Nat) (f : Core → Core) : State := setCore st c (f (coreOf st c))

/-- Compute die `d`. -/
def dieOf (st : State) (d : Nat) : Die := tget Die.reset st.dies d

/-- Replacing a die. -/
def setDie (st : State) (d : Nat) (x : Die) : State := { st with dies := tset Die.reset st.dies d x }

/-- Changing a die. -/
def modDie (st : State) (d : Nat) (f : Die → Die) : State := setDie st d (f (dieOf st d))

/-- The number of compute dies (R1). -/
def numDies : Nat := 4

/-- The die of a logical core (R1, R259). -/
def dieIx (c : Nat) : Nat := c / 192

/-- A queue slot of the Postmaster. -/
def slotOf (st : State) (q : Nat) : Slot := tget Slot.reset st.pm.slots q

/-- Changing a queue slot. -/
def modSlot (st : State) (q : Nat) (f : Slot → Slot) : State :=
  { st with pm := { st.pm with slots := tset Slot.reset st.pm.slots q (f (slotOf st q)) } }

/-- The graph under which a core runs. -/
def graphOf (st : State) (c : Nat) : Option GraphRun :=
  match (coreOf st c).launch with
  | none => none
  | some (q, _) => (slotOf st q).graph

/-- A free value between `lo` and `hi` (log 3). -/
def draw (st : State) (lo hi : Nat) : Nat × State :=
  (lo + Config.freeNat st.fresh % (hi + 1 - lo), { st with fresh := st.fresh + 1 })

/-- A fresh stamp: stamps number issues and performs in the order in which they happen. -/
def nextStamp (st : State) : State := { st with stamp := st.stamp + 1 }

/-- A report to the host (R394). -/
def report (st : State) (r : Report) : State :=
  { st with host := { st.host with posted := st.host.posted ++ [r] } }

/-- A bit of FEAT0 (R403): zero before the feature lock. -/
def feature (st : State) (i : Nat) : Bool := (tget 0 st.host.feat 0).getLsbD i

/-! ### Levels and status -/

/-- XSTAT.LVL (R18). -/
def lvlOf (k : Core) : Level := if bit k.csr.xstat.toNat 16 then .s else .t

/-- A level as a bit (R18). -/
def lvlBit : Level → Nat
  | .t => 0
  | .s => 1

/-- The tick before which no bundle of the core's level issues: the deadline of a waitc or ifence (R108, R116); a stub leaves that
of the bundles it interrupts alone. -/
def waitOf (k : Core) : Nat := if lvlOf k = .s then k.sbank.wait else k.waitUntil

/-- Setting that tick. -/
def putWait (k : Core) (t : Nat) : Core :=
  if lvlOf k = .s then { k with sbank := { k.sbank with wait := t } } else { k with waitUntil := t }

/-- XSTAT.PLVL. -/
def plvlOf (k : Core) : Level := if bit k.csr.xstat.toNat 17 then .s else .t

/-- XSTAT from its fields; PEND is kept (R18). -/
def xstatOf (done : BitVec 8) (slotres : Nat) (mid shd : Bool) (plvl lvl : Level) (pend : Nat) : Word :=
  BitVec.ofNat 64 (done.toNat * 2 ^ 24 + (slotres % 8) * 2 ^ 20 + b2n mid * 2 ^ 19 + b2n shd * 2 ^ 18
    + lvlBit plvl * 2 ^ 17 + lvlBit lvl * 2 ^ 16 + pend % 256)

/-- XSTAT.DONE. -/
def xDone (x : Word) : BitVec 8 := x.extractLsb' 24 8

/-- XSTAT.MID. -/
def xMid (x : Word) : Bool := bit x.toNat 19

/-- XSTAT with another LVL. -/
def xWithLvl (x : Word) (l : Level) : Word :=
  match l with
  | .s => x ||| 0x10000
  | .t => x &&& ~~~0x10000

/-- XSTAT.PEND recomputed from the events that wait (R322). -/
def xPend (k : Core) : Core :=
  let p := k.pendEv.foldl (fun a e => a ||| 2 ^ e.1) 0
  { k with csr := { k.csr with xstat := (k.csr.xstat &&& ~~~0xFF) ||| BitVec.ofNat 64 (p % 256) } }

/-- ORing flags into VSTAT; they survive a software write of the same tick (R21). -/
def orVstat (k : Core) (f : BitVec 8) : Core :=
  { k with csr := { k.csr with vstat := k.csr.vstat ||| f.setWidth 16 }, newFlags := k.newFlags ||| f }

/-- ORing bits into MXSTAT, on the same terms (R21). -/
def orMxstat (k : Core) (f : Word) : Core :=
  { k with csr := { k.csr with mxstat := k.csr.mxstat ||| f }, newMx := k.newMx ||| f }

/-- ORing bits into SSSTAT, on the same terms (R21). -/
def orSsstat (k : Core) (f : Word) : Core :=
  { k with csr := { k.csr with ssstat := k.csr.ssstat ||| f }, newSs := k.newSs ||| f }

/-- MXSTAT after an MX error whose ERRC and ERRTAG are those of `e`: they are recorded when ERR was 0 (R196, R197). -/
def mxRecord (x e : Word) : Word := if x.getLsbD 16 then x else (x &&& ~~~0xFFFF000000) ||| 0x10000 ||| e

/-- SSSTAT after an event whose ECODE and ESID are those of `e` (R218). -/
def ssRecord (x e : Word) : Word := if x.getLsbD 8 then x else (x &&& ~~~0xFF0000) ||| 0x100 ||| e

/-- MXSTAT as the tick found it before its first MX error, which a software write of the tick comes before (R21). -/
def mxBefore (k : Core) : Word := (k.mxEvt.map (·.1)).getD k.csr.mxstat

/-- SSSTAT as the tick found it before its first event. -/
def ssBefore (k : Core) : Word := (k.ssEvt.map (·.1)).getD k.csr.ssstat

/-- What is set in this tick is set after a software write of the tick: the flags are ORed in, and the first error and the first
event are recorded (R21, R197, R218). -/
def keepNewFlags (k : Core) : Core :=
  let mx := match k.mxEvt with
    | some e => mxRecord k.csr.mxstat e.2
    | none => k.csr.mxstat
  let ss := match k.ssEvt with
    | some e => ssRecord k.csr.ssstat e.2
    | none => k.csr.ssstat
  { k with csr := { k.csr with vstat := k.csr.vstat ||| k.newFlags.setWidth 16, mxstat := mx ||| k.newMx, ssstat := ss ||| k.newSs } }

/-- DEVCTL.TMODE: 1 is PADDED (R20). -/
def tmodePadded (k : Core) : Bool := bit k.csr.devctl.toNat 0

/-! ### The physical map (R258, R259) -/

/-- What a physical address reaches: global memory, a scratchpad byte of a logical core, or nothing. -/
inductive Target where
  | glob
  | scratch (core off : Nat)
  | none
  deriving DecidableEq, Repr

/-- Bytes of global memory (R258). -/
def globalBytes : Nat := 6144000000000

/-- Bytes of a scratchpad (R259). -/
def scratchBytes : Nat := 3145728

/-- The base of the window of logical core `c` (R259). -/
def windowBase (c : Nat) : Nat := 0xC00000000000 + (c / 192) * 2 ^ 36 + (c % 192) * 2 ^ 22

/-- The target of a physical address (R258, R259). -/
def target (pa : Nat) : Target :=
  if pa < globalBytes then .glob
  else if pa < 0xC00000000000 then .none
  else
    let x := pa - 0xC00000000000
    let d := x / 2 ^ 36
    let y := x % 2 ^ 36
    let r := y / 2 ^ 22
    let o := y % 2 ^ 22
    if d < 4 && r < 192 && o < scratchBytes then .scratch (192 * d + r) o else .none

/-- The region of an access by core `c` (R122, R259): own 0, same die 1, other die 2, global 3. -/
def regionOf (c pa : Nat) : Nat :=
  match target pa with
  | .scratch o _ => if o = c then 0 else if dieIx o = dieIx c then 1 else 2
  | _ => 3

/-- Padded latency of loads and stores by region (R89, R263). -/
def padLoad (region : Nat) : Nat :=
  match region with
  | 0 => 12
  | 1 => 96
  | 2 => 240
  | _ => 2400

/-- Padded latency of atomics by region (R89, R263). -/
def padAtomic (region : Nat) : Nat := if region < 3 then padLoad region else 2600

/-! ### The coherence order and the views (R267, R268) -/

/-- The byte that a list of chunks writes at an address; the later chunk wins (R128). -/
def chunkByte (chunks : List (Nat × List Byte)) (a : Nat) : Option Byte :=
  chunks.foldl (fun acc ch => if ch.1 ≤ a ∧ a < ch.1 + ch.2.length then (ch.2[a - ch.1]?).or acc else acc) none

/-- Whether a write through a view, the swizzled one or not, holds a byte at an address. -/
def recIn (swz : Bool) (r : WriteRec) (a : Nat) : Bool := r.swz == swz && decide (r.addr ≤ a) && decide (a < r.addr + r.bytes.length)

/-- Whether a write holds a byte at an address, through the linear view where it is a scratchpad's. -/
def recHas (r : WriteRec) (a : Nat) : Bool := recIn false r a

/-- Its byte at the address. -/
def recByte (r : WriteRec) (a : Nat) : Byte := r.bytes.getD (a - r.addr) 0

/-- Whether core `c` has the write in its view at stamp `t`. -/
def seenAt (r : WriteRec) (c t : Nat) : Bool := r.seen.any fun x => x.1 == c && decide (x.2 ≤ t)

/-- The snapshot that the view of core `c` starts from and the first write number after it (R268); a core without a
graph sees the newest values. -/
def snapOf (st : State) (c : Nat) : Memory × Nat :=
  match graphOf st c with
  | some g => (g.snap, g.snapSeq)
  | none => (st.mem, st.wseq)

/-- The byte that the view of core `c` holds at stamp `t`, apart from its own writes still to perform: the latest in
coherence order among the writes in the view, else the snapshot (R268). `wlog` lists the newest first; `swz` asks for the swizzled
view of another core's scratchpad (R261). -/
def viewThrough (swz : Bool) (st : State) (c t a : Nat) : Byte :=
  let (snap, s0) := snapOf st c
  match st.wlog.find? (fun r => decide (s0 ≤ r.seq) && recIn swz r a && seenAt r c t) with
  | some r => recByte r a
  | none => memByte snap a

/-- The same through the linear view. -/
def viewPerformed (st : State) (c t a : Nat) : Byte := viewThrough false st c t a

/-- The latest own write still to perform at an address, issued by stamp `t`: the byte of a store, or an atomic with
the position of the byte in its doubleword (R127). -/
def ownPending (k : Core) (t a : Nat) : Option (Byte ⊕ (Nat × Nat)) :=
  (k.accs.reverse.filter fun x => decide (x.stamp ≤ t)).findSome? fun x =>
    match x.atomic with
    | some _ => x.chunks.findSome? fun ch =>
        if ch.1 ≤ a ∧ a < ch.1 + 8 then some (.inr (x.id, a - ch.1)) else none
    | none => (chunkByte x.chunks a).map .inl

/-- A byte as core `c` reads it at stamp `t` (R127, R268); for a byte of an own atomic still to perform, what the view
holds beneath it. -/
def viewByte (st : State) (c t a : Nat) : Byte :=
  match ownPending (coreOf st c) t a with
  | some (.inl b) => b
  | _ => viewPerformed st c t a

/-- `n` bytes of the view. -/
def viewRead (st : State) (c t a n : Nat) : List Byte := (List.range n).map fun i => viewByte st c t (a + i)

/-- The marks that a linear write leaves on the scratchpad it lands in: an own write, and one of an own courier, takes part in
the next vjoin (R129, R130), a write of another agent or engine once the core's view holds it (R230, R262). -/
def markLinear (st : State) (c addr : Nat) (n seq : Nat) (src : WriteSrc) : State :=
  match target addr with
  | .scratch o off =>
    let offs := (List.range n).map (off + ·)
    modCore st o fun k =>
      if o = c ∧ src = .core then { k with views := { k.views with linDirty := offs ++ k.views.linDirty } }
      else if o = c ∧ src = .courier then
        { k with views := { k.views with linOwn := offs.map (fun x => (seq, x)) ++ k.views.linOwn } }
      else { k with views := { k.views with linWait := offs.map (fun x => (seq, x)) ++ k.views.linWait } }
  | _ => st

/-- A plain write performs at its home through the linear view: it enters the coherence order and memory (R267). The
write is core `c`'s; `seen` says whose views hold it at once. -/
def perform (st : State) (c addr : Nat) (bytes : List Byte) (issued : Nat) (seen : List (Nat × Nat))
    (pub : Option Scope) (src : WriteSrc) (cmd : Option Nat) : State :=
  let r : WriteRec := { seq := st.wseq, addr := addr, bytes := bytes, core := c, issued := issued,
                        performed := st.stamp, seen := seen, pub := pub, src := src, cmd := cmd, swz := false }
  markLinear { st with mem := memWrite st.mem addr bytes, wlog := r :: st.wlog, wseq := st.wseq + 1,
                       stamp := st.stamp + 1 } c addr bytes.length st.wseq src

/-- The copies of core `c`'s phrecvs of the last tick perform, before every other write of this one (R244, R267; log 5). -/
def landCopies (st : State) (c : Nat) : State :=
  let k := coreOf st c
  if k.copies.isEmpty then st
  else k.copies.foldl (fun st x => perform st c x.1 x.2.1 x.2.2 [(c, x.2.2)] none .core none) (setCore st c { k with copies := [] })

/-- What an own atomic that writes nothing brings into the view of core `c`: the bytes at the home, as the newest value, with no
place among the writes of the location (R127, R131). -/
def seeHome (st : State) (c addr : Nat) (bytes : List Byte) (issued : Nat) : State :=
  let r : WriteRec := { seq := st.wseq, addr := addr, bytes := bytes, core := c, issued := issued, performed := st.stamp,
                        seen := [(c, issued)], pub := none, src := .core, cmd := some 0, swz := false }
  { st with wlog := r :: st.wlog, wseq := st.wseq + 1, stamp := st.stamp + 1 }

/-- A write of core `c` through the swizzled view of core `o`'s scratchpad takes its place in the coherence order (R267). -/
def logSwz (st : State) (c o off : Nat) (bytes : List Byte) (issued : Nat) (seen : List (Nat × Nat)) (cmd : Option Nat) : State :=
  let r : WriteRec := { seq := st.wseq, addr := windowBase o + off, bytes := bytes, core := c, issued := issued,
                        performed := st.stamp, seen := seen, pub := none, src := .engine, cmd := cmd, swz := true }
  { st with wlog := r :: st.wlog, wseq := st.wseq + 1, stamp := st.stamp + 1 }

/-- A write performs through the swizzled view of core `o`'s scratchpad (R129, R261): it is kept apart from the linear
view until a vjoin merges the two; a write of another agent waits for a covering acq (R262). -/
def performSwz (st : State) (c o off : Nat) (bytes : List Byte) (issued : Nat) (cmd : Option Nat) : State :=
  let seq := st.wseq
  let st := logSwz st c o off bytes issued [] (some (cmd.getD 0))
  let offs := (List.range bytes.length).map (off + ·)
  modCore st o fun k =>
    if o = c then { k with views := { k.views with swz := memWrite k.views.swz off bytes
                                                   swzDirty := offs ++ k.views.swzDirty } }
    else { k with views := { k.views with swzWait := (offs.zip bytes).map (fun x => (seq, x.1, x.2))
                                                      ++ k.views.swzWait } }

/-- Whether an acq of a scope by core `c` takes a write: one published to its own die, or for a wider acq also one published to
the package or beyond (R134, R270; log 9). -/
def reaches (scope : Scope) (r : WriteRec) (c : Nat) : Bool :=
  match r.pub with
  | none => false
  | some x => dieIx r.core == dieIx c || (scope != .d && x != .d)

/-- The byte of core `c`'s swizzled view at an offset once it has taken a write of another agent: the latest in coherence order among
those that it holds and its own (R262, R268). -/
def swzNewest (st : State) (c off : Nat) (b : Byte) : Byte :=
  match st.wlog.find? fun r => recIn true r (windowBase c + off) && (r.core == c || seenAt r c st.stamp) with
  | some r => recByte r (windowBase c + off)
  | none => b

/-- A pigeonhole position that holds nothing (R375). -/
def phEmpty : PhPos := { valid := false, tag := 0, data := 0 }

/-- The positions that `f` picks lose V; tag and flit stay (R375, R377). -/
def clearValid (f : PhPos → Bool) (t : Tab PhPos) : Tab PhPos :=
  t.filterMap fun p =>
    if p.2.valid && f p.2 then
      let v := { p.2 with valid := false }
      if v = phEmpty then none else some (p.1, v)
    else some p

/-- A swizzled view that changes in a bundle's slot: the other slots see it as it was before the bundle (R63). -/
def keepSwz (k : Core) : Core := { k with issue := k.issue.map fun i => { i with swz := some (i.swz.getD k.views.swz) } }

/-- The swizzled view of a core as the slots of its open bundle see it (R63). -/
def swzSeen (k : Core) : Tab Byte := (k.issue.bind (·.swz)).getD k.views.swz

/-- The writes into core `c`'s scratchpad that its view now holds join the next merge (R262). -/
def takeWaits (st : State) (c : Nat) : State :=
  let got := (st.wlog.filter fun r => seenAt r c st.stamp).map (·.seq)
  modCore st c fun k =>
    let (lt, lw) := k.views.linWait.partition fun x => got.contains x.1
    let (stk, sw) := k.views.swzWait.partition fun x => got.contains x.1
    { keepSwz k with views := { k.views with
        linDirty := lt.map (·.2) ++ k.views.linDirty, linWait := lw
        swz := stk.foldl (fun m x => memPut m x.2.1 (swzNewest st c x.2.1 x.2.2)) k.views.swz
        swzDirty := stk.map (·.2.1) ++ k.views.swzDirty, swzWait := sw } }

/-- An acq of core `c` (R134, R269): the view takes every write published to a scope that reaches it, and the writes of
other agents into its scratchpad join the merges of R262. -/
def acquire (st : State) (c : Nat) (scope : Scope) : State :=
  let t := st.stamp
  let log := st.wlog.map fun r => if reaches scope r c && !seenAt r c t then { r with seen := (c, t) :: r.seen } else r
  nextStamp (takeWaits { st with wlog := log } c)

/-- The byte that the linear view gives a merge of core `c` (R129, R130): the latest among the writes that the view holds and
those that its own couriers have landed. -/
def mergeByte (st : State) (c t o : Nat) : Byte :=
  let k := coreOf st c
  let a := windowBase c + o
  let own := (k.views.linOwn.filter fun x => x.2 == o).map (·.1)
  if own.isEmpty then viewByte st c t a
  else
    match st.wlog.find? fun r => recHas r a && (own.contains r.seq || (decide ((snapOf st c).2 ≤ r.seq) && seenAt r c t)) with
    | some r => recByte r a
    | none => viewByte st c t a

/-- Bytes at rising offsets, as runs. -/
def byteRuns : Tab (Option Byte) → List (Nat × List Byte)
  | [] => []
  | (o, b) :: t =>
    match byteRuns t with
    | (p, l) :: rest => if o + 1 = p then (o, b.getD 0 :: l) :: rest else (o, [b.getD 0]) :: (p, l) :: rest
    | [] => [(o, [b.getD 0])]

/-- The bytes of some offsets, as runs. -/
def runsAt (offs : List Nat) (f : Nat → Byte) : List (Nat × List Byte) := byteRuns (offs.foldl (fun t o => tset none t o (some (f o))) [])

/-- The merge of vjoin (R129): swizzled writes win; the linear view takes them as own writes of the core. What either view takes from
the other, and the swizzled writes that the core may now publish, stand as own writes in the order of that view (R268, R273). -/
def vjoinMerge (st : State) (c : Nat) : State :=
  let k := coreOf st c
  let t := st.stamp
  let sw := k.views.swzDirty.eraseDups
  let lin := (k.views.linDirty ++ k.views.linOwn.map (·.2)).eraseDups.filter fun o => !sw.contains o
  let fromSwz := runsAt sw (memByte k.views.swz)
  let fromLin := runsAt lin (mergeByte st c t)
  let swz := fromLin.foldl (fun m x => memWrite m x.1 x.2) k.views.swz
  let st := fromSwz.foldl (fun s x => perform s c (windowBase c + x.1) x.2 t [(c, t)] none .core none) st
  let st := (fromSwz ++ fromLin).foldl (fun s x => logSwz s c c x.1 x.2 t [(c, t)] none) st
  modCore st c fun k => { keepSwz k with views := { k.views with swz := swz, linDirty := [], swzDirty := [], linOwn := [] } }

/-- The wider of two scopes (R133: a wider scope includes the narrower). -/
def widerScope : Option Scope → Scope → Scope
  | some .s, _ => .s
  | _, .s => .s
  | some .p, _ => .p
  | _, .p => .p
  | _, _ => .d

/-- Publishing: the writes of core `c` issued before the publish, and those of its engines that it had observed by then,
become readable at the scope (R133, R230). -/
def publish (st : State) (c : Nat) (p : Pub) : State :=
  { st with wlog := st.wlog.map fun r =>
      if r.core = c ∧ (snapOf st c).2 ≤ r.seq ∧ r.issued < p.issued ∧ r.cmd.all (fun id => p.cmds.contains id && seenAt r c p.issued) then
        { r with pub := some (widerScope r.pub p.scope) } else r }

/-! ### Trace records and postmarks -/

/-- Whether the trace unit of a die accepts a record (R352). -/
def ringAccepts (g : DieDbg) (postmark : Bool) : Bool :=
  let en := bit g.trctl.toNat (if postmark then 3 else 2)
  let ringFull := (if postmark then g.pksize else g.trsize) == 0 || !bit g.trctl.toNat 4 &&
    (if postmark then decide (g.pksize.toNat ≤ (g.pkwp.toNat - g.pkset.toNat) + 16 * (g.buffer.filter (·.postmark)).length)
     else decide (g.trsize.toNat ≤ (g.trwp.toNat - g.trset.toNat) + 16 * (g.buffer.filter fun r => !r.postmark).length))
  en && !bit g.trctl.toNat 5 && !bit g.trctl.toNat 7 && decide (g.buffer.length < 256) && !ringFull

/-- A record offered to the trace unit: accepted into the buffer, or counted as dropped (R352). -/
def offerRecord (g : DieDbg) (r : TraceRec) : DieDbg :=
  if ringAccepts g r.postmark then { g with buffer := g.buffer ++ [r], trctl := g.trctl &&& ~~~0x40 }
  else if r.postmark then { g with pkdrop := g.pkdrop + 1 } else { g with trdrop := g.trdrop + 1 }

/-- A trace record of core `c` (R351). -/
def traceRec (st : State) (c kind src dst data : Nat) : State :=
  let k := coreOf st c
  if bit k.csr.devctl.toNat 3 then
    let d := dieIx c
    let b := leBytes 4 (src % 2 ^ 14 + (dst % 2 ^ 14) * 2 ^ 14 + kind * 2 ^ 28) ++ leBytes 4 (dieOf st d).dtick
             ++ leBytes 2 c ++ leBytes 2 data ++ leBytes 4 k.csr.tileidx.toNat
    modDie st d fun x => { x with dbg := offerRecord x.dbg { postmark := false, bytes := b } }
  else st

/-- The bytes of a postmark (R355). -/
def postmarkBytes (bundle slot lvl cause ticks c : Nat) (phase : Word) : List Byte :=
  leBytes 2 bundle ++ leBytes 1 (slot % 8 + 8 * lvl) ++ leBytes 1 cause ++ leBytes 4 ticks ++ leBytes 2 c
    ++ leBytes 6 phase.toNat

/-- Whether the engines of a core have stopped before their next byte: for a replay, or for good (R339, R408). -/
def enginesStopped (k : Core) : Bool := k.run ∈ [.replay, .dead]

/-- Ticks lost by a core count in DEVT and DEV (R357). -/
def loseTicks (st : State) (c ticks : Nat) : State := modCore st c fun k => { k with devt := k.devt + ticks, dev := k.dev + ticks }

/-- A postmark of core `c` (R355, R357): ticks lost are added to DEVT and DEV, and with DEVCTL.PMARK set the record goes to the trace
unit, which writes it while TRCTL.PKEN is set and else counts it as dropped (R352). For PMARK (cause 5) `ticks` is the tag; with DEVCTL.PMARK 0 it reaches no counter, since
DEVT and DEV leave tags out and the spec names no other (log 44). -/
def postmark (st : State) (c bundle slot cause ticks : Nat) : State :=
  let k := coreOf st c
  let d := dieIx c
  let st := if cause = 5 then st else loseTicks st c ticks
  if (cause = 5 ∨ 0 < ticks) ∧ bit k.csr.devctl.toNat 2 then
    let b := postmarkBytes bundle slot (lvlBit (lvlOf k)) cause ticks c k.csr.phaseid
    modDie st d fun x => { x with dbg := offerRecord x.dbg { postmark := true, bytes := b } }
  else st

/-- The postmark code of a hold cause (R356). -/
def holdCode : HoldCause → Nat
  | .ldqFull => 1
  | .earlyPop => 2
  | .xlMiss => 3
  | .doneWin => 4
  | .tbwait => 6
  | .tkaln => 7
  | .sfence => 8
  | .wpwait => 9
  | .phrecv => 10
  | .fjwait => 11
  | .mxqFull => 12
  | .mxDrain => 13
  | .cqFull => 14
  | .flqFull => 15
  | .remote => 16
  | .cphaz => 18
  | .vjoin => 19
  | .phsend => 0
  | .drain => 0

/-- The postmark of a hold that ends: H less the budget of a wait, freezes left out (R357); a hold of vjoin in PADDED
mode, of phsend, whose ticks count as lost all the same, and of the drain before a stub writes none (R130, R321). -/
def chargeHold (st : State) (c : Nat) : State :=
  let k := coreOf st c
  match k.held with
  | none => st
  | some h =>
    let st := modCore st c fun k => { k with held := none }
    let ticks := k.now - h.first - h.budget
    if h.cause = .phsend then loseTicks st c ticks
    else if holdCode h.cause = 0 then st
    else
      if 0 < ticks then postmark st c k.pc.toNat h.slot (holdCode h.cause) ticks else st

/-! ### Result ports in flight (R84, R97) -/

/-- Whether a unit's ports have an S bank (R324): CU, IA0, IA1, AG. -/
def banked (u : Nat) : Bool := u < 4

/-- Writing a scalar result port (source code) at a level. -/
def putScalarRes (k : Core) (port : Nat) (l : Level) (x : Word) : Core :=
  if l = .s ∧ port < 0x0F3 then { k with sbank := { k.sbank with sRes := tset 0 k.sbank.sRes (port - 0x0F0) x } }
  else { k with ports := { k.ports with sRes := tset 0 k.ports.sRes (port - 0x0F0) x } }

/-- The flags of a stream read reach SSSTAT too (R210). -/
def ssFlags (f : Flight) (k : Core) : Core := if f.ssid = 0 then k else orSsstat k (f.flags.setWidth 64)

/-- Delivering a result to its port with its flags. -/
def deliver (k : Core) (f : Flight) : Core :=
  match f.val with
  | some (.s x) => ssFlags f (orVstat (putScalarRes k f.port f.lvl x) f.flags)
  | some (.v x) =>
    ssFlags f (orVstat { k with ports := { k.ports with vRes := tset 0 k.ports.vRes (f.port - 0x0F0) x } } f.flags)
  | none => k

/-- One issue tick at a level (R84, R324): every operation of the level comes one nearer, and those due deliver, the
later triggered last (R11). -/
def advanceFlights (k : Core) : Core :=
  let l := lvlOf k
  let fs := k.flight.map fun f => if f.lvl = l ∧ 0 < f.rem then { f with rem := f.rem - 1 } else f
  let due := fs.filter fun f => f.rem = 0 ∧ f.lvl = l ∧ f.val.isSome
  due.foldl deliver { k with flight := fs.filter fun f => !(f.rem = 0 ∧ f.lvl = l ∧ f.val.isSome) }

/-- The drain of R97 for the operations in flight that `p` picks: they deliver, in trigger order; an SS operation that has not
sampled yet delivers at its act tick (R321). -/
def drainWhere (p : Flight → Bool) (k : Core) : Core :=
  let fs := k.flight.map fun f => if p f then { f with rem := 0 } else f
  (fs.filter fun f => p f && f.val.isSome).foldl deliver { k with flight := fs.filter fun f => !(p f && f.val.isSome) }

/-- The drain at a stop that saves the core: every operation. -/
def drainFlights (k : Core) : Core := drainWhere (fun _ => true) k

/-- The drain at a stop that keeps the core's state in place: every operation but those of MX (R97, R321, R344). -/
def drainInPlace (k : Core) : Core := drainWhere (fun f => f.port != 0x0FA) k

/-- The drain when a stub returns: what it has triggered (R324). -/
def drainStub (k : Core) : Core := drainWhere (fun f => f.lvl == .s) k

/-- The drain of a stop. -/
def drainAt (saves : Bool) (k : Core) : Core := if saves then drainFlights k else drainInPlace k

/-- Putting an operation in flight (R84). -/
def launchResult (k : Core) (port : Nat) (v : Option Val) (flags : BitVec 8) (latency ssid : Nat) : Core :=
  { k with flight := k.flight ++
      [{ port := port, val := v, flags := flags, rem := latency, lvl := lvlOf k, ssid := ssid }] }

/-- Whether a row of a register drain has left its drain's queue entry: it is ready, read, or of the running command. -/
def rowStarted (m : Mx) (r : RegRow) : Bool :=
  r.data.isSome || m.running.any (fun x => x.cmd.id == r.trig) || m.rows.any fun x => x.cmd.id == r.trig

/-- At a stop that saves a core its T-level row next due, once its drain has started, is MX's in-flight result: it is due at
once (R97, R199). -/
def dueRow (k : Core) : Core :=
  match k.mx.regRows.find? (·.lvl == .t) with
  | some r =>
    if rowStarted k.mx r then
      { k with mx := { k.mx with regRows := k.mx.regRows.map fun x => if x.trig = r.trig ∧ x.i = r.i ∧ x.lvl = .t then { x with cnt := 0 } else x } }
    else k
  | none => k

/-! ### Traps (R319, R321) -/

/-- What a cause carries: code, detail, XADDR, the port or unit detail, INFO and ASYNC (R319, R320). -/
structure Cause where
  code : Nat
  detail : Nat
  xaddr : Nat
  unit : Nat
  info : Nat
  async : Bool
  deriving DecidableEq, Repr

/-- The XCAUSE word (R319). -/
def xcauseOf (f : Cause) : Word :=
  BitVec.ofNat 64 ((f.info % 2 ^ 16) * 2 ^ 32 + (f.unit % 16) * 2 ^ 20 + (f.detail % 256) * 256 + b2n f.async * 128
    + f.code % 32)

/-- The bundle index of the stub for a code (R321). -/
def stubVector (code : Nat) : Nat := 9898 + code

/-- The source code of slot `s` of a bundle. -/
def slotSrc (w : Bundle) (s : Nat) : Nat := (w.extractLsb' (24 * s + 10) 9).toNat

/-- The slot word `s` of a bundle (R56). -/
def slotWordOf (w : Bundle) (s : Nat) : SlotWord := w.extractLsb' (24 * s) 24

/-- Which slots of a bundle are literals (R62). -/
def literalSlots (w : Bundle) : List Bool :=
  (List.range 8).foldl (fun acc s =>
    let lit := match acc.getLast? with
      | some false => s > 0 && (slotSrc w (s - 1) == 0x186 || slotSrc w (s - 1) == 0x187)
      | _ => false
    acc ++ [lit]) []

/-- A stop at a slot or between bundles: the registers that a trap sets, apart from the level and the vector. Used by
traps, parks and debug halts. -/
structure Stop where
  xpc : BitVec 14
  done : BitVec 8
  slotres : Nat
  mid : Bool
  shadows : List Shadow
  deriving DecidableEq, Repr

/-- Physical code of a source register (class base and number after rotation, R9), or none. -/
def physCode (k : Core) (s : Nat) : Option Nat :=
  if s < 0x40 then some s
  else if s < 0x80 then some (64 + (s - 64 + k.csr.grb.toNat) % 64)
  else if s < 0xA0 then some s
  else if s < 0xC0 then some (0xA0 + (s - 0xA0 + k.csr.vrb.toNat) % 32)
  else if s < 0xC8 then some s
  else if s < 0xD0 then some (0xC8 + (s - 0xC8 + k.csr.prb.toNat) % 8)
  else if s < 0xF0 then some s
  else none

/-- The value of a result port (source code) at the level of the core. -/
def resultPort (k : Core) (s : Nat) : Val :=
  let i := s - 0x0F0
  if s ∈ [0x0F3, 0x0F5, 0x0F7, 0x0F8, 0x0FB, 0x0FC, 0x0FD] then .v (tget 0 k.ports.vRes i)
  else if s < 0x0F3 ∧ lvlOf k = .s then .s (tget 0 k.sbank.sRes i)
  else .s (tget 0 k.ports.sRes i)

/-- The value of a register class code from a set of files (R8). -/
def fileVal (f : Files) (code : Nat) : Val :=
  if code < 0x80 then .s (if code = 0 then 0 else tget 0 f.g code)
  else if code < 0xC0 then .v (tget 0 f.v (code - 0x80))
  else if code < 0xD0 then .s (if code = 0xC0 then 1 else BitVec.ofNat 64 (b2n (tget false f.p (code - 0xC0))))
  else if code < 0xE0 then .s (tget 0 f.o (code - 0xD0))
  else if code < 0xE8 then .v (tget 0 f.w (code - 0xE0))
  else .s (tget 0 f.m (code - 0xE8))

/-- The files as the level of the core sees them: at S level o12 to o15 are the bank's (R324). -/
def filesOf (k : Core) : Files :=
  if lvlOf k = .s then
    { k.files with o := [12, 13, 14, 15].foldl (fun o i => tset 0 o i (tget 0 k.sbank.o i)) k.files.o }
  else k.files

/-- The shadow entries of a stop at a slot of an open bundle (R323), given the core before and after the drain. -/
def shadowsOf (k k' : Core) (i : Issue) : List Shadow :=
  let lits := literalSlots i.words
  (List.range 8).filterMap fun s =>
    if i.done.toNat.testBit s || !i.en.toNat.testBit s || lits.getD s false then none
    else
      match i.shadows.find? (·.slot == s) with
      | some e => some e
      | none =>
        let src := slotSrc i.words s
        match i.pops.find? (·.1 == s) with
        | some p => some { slot := s, val := p.2 }
        | none =>
          match physCode k src with
          | some p => if i.written.contains p then some { slot := s, val := fileVal i.files p } else none
          | none =>
            if 0x0F0 ≤ src ∧ src ≤ 0x101 then
              let v := resultPort k src
              if resultPort k' src ≠ v then some { slot := s, val := v } else none
            else none

/-- A result that the drain of a stop delivers late, from an SS operation that acts after the stop, or a row that lands when the
core is saved (R199), leaves shadow entries too (R321, R323): `k` and `k'` are the core before and after it. -/
def lateShadows (k k' : Core) : Core :=
  let halted := decide (k.run = .halted) && decide (lvlOf k = .t)
  let x := if halted then k.dbg.dstat else k.csr.xstat
  if (halted || decide (lvlOf k = .s)) && xMid x then
    let w := tget 0 k.code (if halted then k.dbg.dpc.toNat else k.csr.xpc.toNat)
    let lits := literalSlots w
    let more := (List.range 8).filterMap fun s =>
      let src := slotSrc w s
      if (xDone x).toNat.testBit s || !k.enmask.toNat.testBit s || lits.getD s false || k.shadows.any (·.slot == s)
          || decide (src < 0x0F0) || decide (0x101 < src) || resultPort k src == resultPort k' src then none
      else some ({ slot := s, val := resultPort k src } : Shadow)
    if more.isEmpty then k'
    else
      let all := (List.range 8).flatMap fun s => (k.shadows ++ more).filter (·.slot == s)
      if halted then { k' with shadows := all, dbg := { k'.dbg with dstat := k'.dbg.dstat ||| 0x40000 } }
      else { k' with shadows := all, csr := { k'.csr with xstat := k'.csr.xstat ||| 0x40000 } }
  else k'

/-- The stop of a core at slot `s` of its open bundle (R65): flights drain, shadows are recorded, ENMASK, the pending
record and the loop inputs are kept (R101, R105, R321); `saves` says whether the stop saves the core (R97). -/
def stopAtSlot (k : Core) (i : Issue) (saves : Bool) : Core × Stop :=
  let k' := drainAt saves k
  let sh := shadowsOf k k' i
  ({ k' with issue := none, enmask := i.en, pend := i.pend, loopIn := some i.loopIn, shadows := sh, reenter := none
             stopSel := some i.sel },
   { xpc := k.pc, done := i.done, slotres := i.slot, mid := true, shadows := sh })

/-- The stop of a core between bundles or at a held bundle (MID 0). Inside a stub, what the trapped bundle has left stays
(R101, R344). -/
def stopBetween (k : Core) (pc : BitVec 14) : Core × Stop :=
  let sh := if lvlOf k = .s then k.shadows else []
  ({ drainInPlace k with issue := none, shadows := sh, reenter := none },
   { xpc := pc, done := 0, slotres := 0, mid := false, shadows := sh })

/-- The stop of a core at a bundle that it re-enters and that a wait holds: what has committed stays committed (R344; log 45). -/
def stopReentered (k : Core) (done : BitVec 8) : Core × Stop :=
  ({ drainInPlace k with issue := none },
   { xpc := k.pc, done := done, mid := true, shadows := k.shadows
     slotres := ((List.range 8).find? fun s => !done.toNat.testBit s && k.enmask.toNat.testBit s).getD 0 })

/-- Setting the trap registers of R321. -/
def setTrap (k : Core) (s : Stop) (f : Cause) : Core :=
  let pend := k.csr.xstat.toNat % 256
  { k with
    csr := { k.csr with
      xpc := s.xpc.setWidth 64
      xstat := xstatOf s.done s.slotres s.mid (!s.shadows.isEmpty) (lvlOf k) .s pend
      xcause := xcauseOf f
      xaddr := BitVec.ofNat 64 f.xaddr }
    xlFault := k.xlFault.filter fun x => x.2.1 }

/-- Whether a code replays the phase (kind P of R320). -/
def replayCode (code : Nat) : Bool := code ∈ [24, 25, 26, 27, 28]

/-- The phase of a slot is to be replayed for a cause (R339); the first cause is kept. -/
def requestReplay (st : State) (c : Nat) (f : Cause) : State :=
  let st := report st (.replay c f.code f.detail (BitVec.ofNat 64 f.xaddr))
  let st := modCore st c fun k => { k with run := .replay }
  match (coreOf st c).launch with
  | none => st
  | some (q, _) => modSlot st q fun s =>
      { s with graph := s.graph.map fun g => { g with replay := g.replay.or (some f.code) } }

/-- TAKING AN EXCEPTION (R321, R326, R327, R339): core `c`, stopped as `k` with stop `s` at level `l`, takes cause `f`.
A replay cause stops the core for the replay; a fault at S level stops it for good and changes no trap register; XLFLT
at T level parks it; every other cause sets the trap registers and enters the stub of its code. DESIGN CHOICE (log 44): FROM of the
trace record is XPC, for sysc and brk the bundle after theirs (R351). -/
def takeTrap (st : State) (c : Nat) (k : Core) (s : Stop) (f : Cause) : State :=
  let frm := s.xpc.toNat
  let st := if k.held.isSome then chargeHold (setCore st c k) c else setCore st c k
  let k := coreOf st c
  if replayCode f.code then requestReplay (modCore st c fun k => { k with issue := none }) c f
  else if f.code = 8 then
    setCore st c { dueRow (setTrap k s f) with run := .parking, xlFault := [] }
  else
    let st := setCore st c { setTrap k s f with
      pc := BitVec.ofNat 14 (stubVector f.code), wxStub := f.code == 20 || (k.wxStub && lvlOf k == .s) }
    traceRec st c 8 frm (stubVector f.code) (xcauseOf f).toNat

/-- A double fault (R326): the core stops with nothing changed and no slot of the bundle committed; a hold of the bundle is
charged (R357). -/
def stubFault (st : State) (c : Nat) (f : Cause) : State :=
  report (modCore (chargeHold st c) c fun k => { k with run := .stubflt, issue := none })
    (.stubflt c f.code (BitVec.ofNat 64 f.xaddr))

/-- A fault raised at slot `i.slot` of the open bundle of core `c` (kinds D and E). -/
def faultAtSlot (st : State) (c : Nat) (i : Issue) (f : Cause) : State :=
  let k := coreOf st c
  let st := { st with turn := .agenda }
  if lvlOf k = .s ∧ ¬ replayCode f.code then stubFault st c f
  else
    let (k', s) := stopAtSlot k i (f.code == 8)
    takeTrap st c k' s f

/-- A fault that stops core `c` between bundles: ILLBND, a fetch or a fall-through fault (R65, R102), an asynchronous
event (R322). -/
def faultBetween (st : State) (c : Nat) (f : Cause) (en : BitVec 8) : State :=
  let k := coreOf st c
  let st := { st with turn := .agenda }
  if lvlOf k = .s ∧ ¬ replayCode f.code then stubFault st c f
  else
    let (k', s) := stopBetween k k.pc
    takeTrap st c { k' with enmask := en, pend := none, loopIn := none } s f

/-- The slot that a re-entry after a precise watchpoint trap exempts from the check (R345). -/
def watchedSlot (r : Csrs) : Option Nat :=
  if r.xcause.toNat % 32 = 9 then some ((r.xstat.toNat >>> 20) % 8) else none

/-- The code store with the bundles that the die agent holds for a core's protected partition (R397). The core has fetched `n`
bundles ahead of issue, and those issue as fetched (R116). -/
def takeStubs (n : Nat) (k : Core) : Core :=
  match k.stubNew with
  | none => k
  | some l =>
    let ahead := ((List.range n).map (k.pc.toNat + ·)).filter fun x => decide (9898 ≤ x) && decide (x ≤ 10921)
    { k with stubNew := none
             fetched := ahead.map fun x => (x, ((k.fetched.find? (·.1 == x)).map (·.2)).getD (tget 0 k.code x))
             code := tsplice k.code 9898 1024 ((l.zipIdx).filterMap fun x => if x.1 = 0 then none else some (9898 + x.2, x.1)) }

/-- Core `c` takes them; how many bundles, up to four, it has fetched ahead is a free value (R116, log 3). -/
def installStubs (st : State) (c : Nat) : State :=
  if (coreOf st c).stubNew.isNone then st
  else
    let (n, st) := draw st 0 4
    modCore st c (takeStubs n)

/-- A core re-enters where its XSTAT, XPC and PLVL say (R113): the whole bundle when MID is 0, else the slots that DONE leaves. A
stub that returns to a stub leaves the record of the trapped bundle alone. XPC is wider than the program counter, which takes
its low 14 bits (log 44). -/
def reenterCore (k : Core) : Core :=
  let mid := xMid k.csr.xstat
  let k' := { k with csr := { k.csr with xstat := xWithLvl k.csr.xstat (plvlOf k) }
                     pc := k.csr.xpc.setWidth 14
                     reenter := if mid then some (xDone k.csr.xstat, watchedSlot k.csr) else none
                     issue := none }
  if mid ∨ plvlOf k = .s then k' else { k' with pend := none, loopIn := none, shadows := [] }

/-- RETURNING FROM AN EXCEPTION (R113, R324): S-level operations in flight deliver, the level becomes PLVL, and the next issue is
at XPC. -/
def returnFromTrap (st : State) (c frm : Nat) : State :=
  let st := installStubs (modCore st c fun k => reenterCore (drainStub k)) c
  let k := coreOf st c
  traceRec st c 9 frm k.pc.toNat ((k.csr.xstat.toNat >>> 16) % 2 ^ 16)

/-! ### Debug halts (R344) -/

/-- DSTAT of a halt (R343). -/
def dstatOf (old : Word) (s : Stop) (l : Level) (hcause : Nat) : Word :=
  BitVec.ofNat 64 (s.done.toNat * 2 ^ 24 + (s.slotres % 8) * 2 ^ 20 + b2n s.mid * 2 ^ 19
    + b2n (!s.shadows.isEmpty) * 2 ^ 18 + lvlBit l * 2 ^ 16 + hcause * 256) ||| (old &&& 0x20001)

/-- Core `c`, stopped as `k` with stop `s`, halts for the debug core (R344): the trap registers stay. Members of its
halt group follow within 64 ticks, a free value (log 8). -/
def haltCore (st : State) (c : Nat) (k : Core) (s : Stop) (hcause : Nat) : State :=
  let st := if k.held.isSome then chargeHold (setCore st c k) c else setCore st c k
  let k := coreOf st c
  let ds := dstatOf k.dbg.dstat s (lvlOf k) hcause
  let st := setCore st c { k with run := .halted, issue := none,
                                  dbg := { k.dbg with dpc := s.xpc, dstat := ds, haltreq := false, haltAt := none } }
  let st := traceRec st c 11 s.xpc.toNat s.xpc.toNat (ds.toNat % 2 ^ 16)
  let g := k.dbg.group
  if g = 0 then st
  else
    let d := dieIx c
    (List.range 192).foldl (fun st i =>
      let o := 192 * d + i
      let x := coreOf st o
      if o ≠ c ∧ x.dbg.group = g ∧ x.run = .run ∧ x.dbg.haltAt.isNone then
        let (t, st) := draw st 0 64
        modCore st o fun x => { x with dbg := { x.dbg with haltAt := some ((dieOf st d).dtick + t) } }
      else st) st

end Sys2Proof.Machine
end

