-- ==== Sys2Proof/Machine/Xlate.lean ====
section
/-! DEFINITION. Address translation (R275 to R280), the key slots and the encryption of global memory (R281, R402). -/

namespace Sys2Proof.Machine

/-- The context descriptor of a core's graph (R285). -/
def ctxOf (st : State) (c : Nat) : Option Nat := (graphOf st c).map (·.ctx)

/-- ROOT of a context descriptor. -/
def ctxRoot (st : State) (ctx : Nat) : Nat := memNat st.mem ctx 8

/-- The root that a core's accesses walk from. -/
def rootOf (st : State) (c : Nat) : Option Nat := (ctxOf st c).map (ctxRoot st)

/-- Size of the page that a leaf of a level maps (R275). -/
def leafSize (level : Nat) (c : Bool) : Nat :=
  match level with
  | 1 => 2 ^ 30
  | 2 => 2 ^ 21
  | _ => if c then 2 ^ 16 else 2 ^ 12

/-- Index of a virtual address at a level (R275). -/
def vaIndex (level va : Nat) : Nat :=
  match level with
  | 0 => bits va 51 39
  | 1 => bits va 38 30
  | 2 => bits va 29 21
  | _ => bits va 20 12

/-- PTE fields as bits (R276). -/
def pteV (x : Nat) : Bool := x.testBit 0
/-- R. -/
def pteR (x : Nat) : Bool := x.testBit 3
/-- W. -/
def pteW (x : Nat) : Bool := x.testBit 4
/-- S. -/
def pteS (x : Nat) : Bool := x.testBit 5
/-- D. -/
def pteD (x : Nat) : Bool := x.testBit 7
/-- G. -/
def pteG (x : Nat) : Bool := x.testBit 8
/-- C. -/
def pteC (x : Nat) : Bool := x.testBit 9
/-- PPN as a byte address. -/
def ptePa (x : Nat) : Nat := bits x 47 12 * 4096
/-- TM: 1 PADDED. -/
def pteTm (x : Nat) : Bool := x.testBit 52
/-- KD. -/
def pteKd (x : Nat) : Bool := x.testBit 53
/-- KEYID. -/
def pteKey (x : Nat) : Nat := bits x 63 54

/-- Reserved bits of a PTE that are set (R276). -/
def pteReserved (x : Nat) : Bool := bits x 51 48 != 0 || bits x 11 10 != 0 || bits x 2 1 != 0

/-- What one entry of a level says (R275 to R277): a fault, the next table, or a leaf. -/
inductive PteKind where
  | fault (detail : Nat)
  | table (pa : Nat)
  | leaf
  deriving DecidableEq, Repr

/-- The kind of an entry (R276, R277), used for itself or, at level 3, for the whole of its 64 KiB group. A level 3 entry without R
and W is malformed (log 20). -/
def pteKind (level x : Nat) (group : Bool) : PteKind :=
  if !pteV x then .fault 0
  else if pteReserved x || (pteW x && !pteR x) then .fault 2
  else if pteR x then
    if level = 0 then .fault 0
    else if pteC x && level ≠ 3 then .fault 2
    else if ptePa x % leafSize level group ≠ 0 then .fault 2
    else .leaf
  else if level = 3 then .fault 2
  else if x ≠ 1 + ptePa x then .fault 2
  else .table (ptePa x)

/-- A level 3 leaf with C (R275). -/
def groupLeaf (x : Nat) : Bool := pteV x && pteR x && pteC x

/-- The walk of the levels (R275): the leaf's address and the size it maps, or a fault. An aligned group of 16 level 3 entries,
marked by C in a leaf of its first entry or of the entry of the address, uses its first entry. -/
def walkLevels (mem : Memory) (va : Nat) : List Nat → Nat → Except Nat (Nat × Nat)
  | [], _ => .error 0
  | level :: rest, table =>
    let i := vaIndex level va
    let first := table + 8 * (i - i % 16)
    let here := table + 8 * i
    let group := level == 3 && (groupLeaf (memNat mem first 8) || groupLeaf (memNat mem here 8))
    let a := if group then first else here
    let x := memNat mem a 8
    match pteKind level x group with
    | .fault d => .error d
    | .table t => walkLevels mem va rest t
    | .leaf => .ok (a, leafSize level group)

/-- A walk from a root: the entry to cache and its address, after A, and D where `dirty` says that a write goes through the entry,
are set (R276). -/
def walk (mem : Memory) (root : Nat) (asid : BitVec 16) (va : Nat) (dirty : TlbEntry → Bool) : Except Nat (TlbEntry × Nat × Nat) :=
  match walkLevels mem va [0, 1, 2, 3] root with
  | .error d => .error d
  | .ok (a, size) =>
    let x := memNat mem a 8
    let e : TlbEntry := { asid := asid, vbase := va - va % size, size := size, pte := BitVec.ofNat 64 x }
    let y := x ||| 0x40 ||| (if dirty e then 0x80 else 0)
    .ok ({ e with pte := BitVec.ofNat 64 y }, a, y)

/-- Whether a cached translation serves an address of an ASID (R276: G serves every ASID). -/
def tlbHit (e : TlbEntry) (asid : BitVec 16) (va : Nat) : Bool :=
  (e.asid == asid || pteG e.pte.toNat) && decide (e.vbase ≤ va) && decide (va < e.vbase + e.size)

/-- The result of a translation: an address with its key slot and its timing, a miss, or a fault detail (R277). -/
inductive XRes where
  | ok (pa key : Nat) (padded : Bool)
  | miss
  | fault (detail : Nat)
  deriving DecidableEq, Repr

/-- Whether a memory key slot is empty (R401). -/
def keyEmptySlot (st : State) (k : Nat) : Bool := (tget none st.host.mkeys k).isNone

/-- Whether a launch of the phase that core `c` belongs to occupies logical core `o` (R259). -/
def phaseHas (st : State) (c o : Nat) : Bool :=
  match graphOf st c with
  | none => false
  | some g => g.launches.any fun l => l.cores.contains o

/-- The checks of an access through an entry (R276, R277): permission, target, key; a write through an entry without D is to be
walked. -/
def checkEntry (st : State) (c : Nat) (l : Level) (keyReg : BitVec 10) (e : TlbEntry) (va : Nat) (write : Bool) : XRes :=
  let x := e.pte.toNat
  let goes := fun (r : XRes) => if write && !pteD x then .miss else r
  if (write && !pteW x) || (!write && !pteR x) || (pteS x && l = .t) then .fault 1
  else
    let pa := ptePa x + (va - e.vbase)
    match target pa with
    | .none => .fault 3
    | .scratch o _ => if phaseHas st c o then goes (.ok pa 0 (tmodePadded (coreOf st c))) else .fault 3
    | .glob =>
      let key := if pteKd x then keyReg.toNat else pteKey x
      if keyEmptySlot st key then .fault 5 else goes (.ok pa key (pteTm x || !feature st 16))

/-- Whether a write of a core at a level goes through an entry (R276). -/
def mayWrite (st : State) (w : Writer) (va : Nat) (e : TlbEntry) : Bool :=
  match checkEntry st w.core w.lvl w.key e va true with
  | .fault _ => false
  | _ => true

/-- A translation for core `c` or an engine of it, against a micro-TLB and the die's shared TLB (R278). -/
def xlate (st : State) (c : Nat) (utlb : List TlbEntry) (l : Level) (asid : BitVec 16) (keyReg : BitVec 10) (va : Nat)
    (write : Bool) : XRes :=
  if 2 ^ 52 ≤ va then .fault 4
  else
    match (utlb ++ (dieOf st (dieIx c)).tlb).find? (tlbHit · asid va) with
    | some e => checkEntry st c l keyReg e va write
    | none => .miss

/-- The most entries of a micro-TLB, of a shared TLB, of a pending-walk table (R278). -/
def utlbMax : Nat := 64
/-- Shared TLB. -/
def tlbMax : Nat := 16384
/-- Pending walks. -/
def walksMax : Nat := 1024
/-- The walkers of a die (R278). -/
def walkersMax : Nat := 64

/-- Filling a TLB with an entry; the oldest makes room (R278: replacement changes timing only). -/
def tlbFill (n : Nat) (t : List TlbEntry) (e : TlbEntry) : List TlbEntry :=
  (e :: t.filter fun x => !(x.asid == e.asid && x.vbase == e.vbase)).take n

/-- Whether a pending walk is for the page of a request. -/
def samePage (w : Walk) (asid : BitVec 16) (va : Nat) : Bool := w.asid == asid && w.va / 4096 == va / 4096

/-- The union of two lists without repeats. -/
def addNew {α : Type} [DecidableEq α] (l m : List α) : List α := l ++ m.filter fun x => !l.contains x

/-- Couriers of a die that serve queues 4 to 7 (R1). -/
def dieCouriers : Nat := 64

/-- The die courier that serves queue `q` of core `c`; the choice changes timing only (R221). -/
def courierIx (c q : Nat) : Nat := (4 * (c % 192) + (q - 4)) % dieCouriers

/-- The rank of a requester among those of one tick: cores, core couriers, die couriers, the Fuller (R278). -/
def walkRank : Requester → Nat
  | .core c => c
  | .courier c => 1024 + c
  | .dieCourier c q => 2048 + courierIx c q
  | .fuller _ => 3072
  | .none => 3073

/-- A walk takes its place among those that have not started, by the tick and the rank of its request (R278). -/
def queueWalk (w : Walk) : List Walk → List Walk
  | [] => [w]
  | x :: xs =>
    if x.due.isNone && (decide (w.asked < x.asked) || (w.asked == x.asked && decide (w.rank < x.rank))) then w :: x :: xs
    else x :: queueWalk w xs

/-- A walk is asked for, or what waits for the page joins the walk that it has; a full table takes no new one (R278).
`writers` are the writes that wait, `req` those who wait, `fill` those who only take the entry, `asker` who asks. -/
def joinWalk (st : State) (d root : Nat) (asid : BitVec 16) (va : Nat) (writers : List Writer) (req fill : List Requester)
    (asker : Requester) : State :=
  let x := dieOf st d
  if x.walks.any (samePage · asid va) then
    setDie st d { x with walks := x.walks.map fun w => if samePage w asid va then
      { w with writers := addNew w.writers writers, req := addNew w.req req, fill := addNew w.fill fill } else w }
  else if walksMax ≤ x.walks.length then st
  else
    let w : Walk := { root := root, asid := asid, va := va, writers := writers, req := req, fill := fill, asked := x.dtick,
                      rank := walkRank asker, due := none }
    setDie st d { x with walks := queueWalk w x.walks }

/-- The first walk of a list that has not started starts, to be done at a tick. -/
def startFirst (t : Nat) : List Walk → List Walk
  | [] => []
  | w :: ws => if w.due.isNone then { w with due := some t } :: ws else w :: startFirst t ws

/-- At most `n` of the walks asked for in earlier ticks start, in the order of R278; the time of a walk is a free value (log 8). -/
def startWalks (d : Nat) : Nat → State → State
  | 0, st => st
  | n + 1, st =>
    if (dieOf st d).walks.any fun w => w.due.isNone && decide (w.asked < (dieOf st d).dtick) then
      let (t, st) := draw st 1 65536
      startWalks d n (modDie st d fun x => { x with walks := startFirst (x.dtick + t) x.walks })
    else st

/-- The walks that are done: a request is served once the walks that started before it have finished (R278). -/
def doneWalks (now : Nat) (l : List Walk) : List Walk := l.takeWhile fun w => w.due.any fun t => decide (t ≤ now)

/-- An access of core `w.core`, or of an engine of it, that missed asks for a walk; it retries each tick until it has one (R278). -/
def requestWalk (st : State) (d root : Nat) (asid : BitVec 16) (va : Nat) (write : Bool) (w : Writer) (r : Requester) : State :=
  joinWalk st d root asid va (if write then [w] else []) [r] [] r

/-! ### Die couriers and preloads (R135, R278, R279) -/

/-- The micro-TLB of the courier that serves queue `q` of core `c` (R278). -/
def courierTlb (st : State) (c q : Nat) : List TlbEntry :=
  if q < 4 then (coreOf st c).ctlb else tget [] (dieOf st (dieIx c)).dctlb (courierIx c q)

/-- One page of a preload (R135): the entry that the die holds enters the micro-TLB, or a walk is asked for. -/
def preloadPage (st : State) (c : Nat) (p : Preload) : State :=
  let va := 4096 * p.page
  match (dieOf st (dieIx c)).tlb.find? (tlbHit · p.asid va) with
  | some e =>
    if 0 < p.micro && !(coreOf st c).utlb.any (tlbHit · p.asid va) then
      modCore st c fun k => { k with utlb := tlbFill utlbMax k.utlb e }
    else st
  | none => joinWalk st (dieIx c) p.root p.asid va [] [] (if 0 < p.micro then [.core c] else []) (.core c)

/-- The end of the page that holds `va` as the die or else the tables have it when a preload asks for it; none without a valid
translation (R135). -/
def preloadEnd (st : State) (c : Nat) (p : Preload) (va : Nat) : Option Nat :=
  match (dieOf st (dieIx c)).tlb.find? (tlbHit · p.asid va) with
  | some e => some (e.vbase + e.size)
  | none =>
    match walkLevels st.mem va [0, 1, 2, 3] p.root with
    | .ok (_, size) => some (va - va % size + size)
    | .error _ => none

/-- What is left of a preload after its next page: a page with a translation takes one entry of the micro-TLB, one without is
skipped (R135). -/
def nextPage (st : State) (c : Nat) (p : Preload) : Preload :=
  match preloadEnd st c p (4096 * p.page) with
  | some z => let n := max 1 (z / 4096 - p.page); { p with page := p.page + n, left := p.left - n, micro := p.micro - 1 }
  | none => { p with page := p.page + 1, left := p.left - 1 }

/-- At most `fuel` pages of the first preload of core `c` are asked for, while the die's table has room; pages past the address
space have no translation (R135, R278). Unless `fills`, a page that would change the micro-TLB at once waits for the next tick, so that no
slot of the bundle that starts the preload finds it changed (R63). -/
def runPreload (c : Nat) (fills : Bool) : Nat → State → State
  | 0, st => st
  | fuel + 1, st =>
    match (coreOf st c).preloads with
    | [] => st
    | p :: rest =>
      if p.left = 0 ∨ 2 ^ 40 ≤ p.page then modCore st c fun k => { k with preloads := rest }
      else if walksMax ≤ (dieOf st (dieIx c)).walks.length ∨ (!fills && (dieOf st (dieIx c)).tlb.any (tlbHit · p.asid (4096 * p.page))) then st
      else runPreload c fills fuel (preloadPage (modCore st c fun k => { k with preloads := nextPage st c p :: rest }) c p)

/-- A range is to be preloaded: every page that overlaps it, its lowest pages in the micro-TLB (R135, R279). -/
def startPreload (st : State) (c : Nat) (asid : BitVec 16) (root base len : Nat) : State :=
  if len = 0 then st
  else
    let p : Preload := { root := root, asid := asid, page := base / 4096, left := (base + len - 1) / 4096 + 1 - base / 4096, micro := utlbMax }
    runPreload c false walksMax (modCore st c fun k => { k with preloads := k.preloads ++ [p] })

/-! ### Encryption (R281, R402) -/

/-- The key material of a slot; an empty slot holds none. -/
def keyMat (st : State) (k : Nat) : Option (BitVec 512) := tget none st.host.mkeys k

/-- The base of the dump (R408). -/
def dumpBase : Nat := 0x059482F00000

/-- Whether an address lies in the region of the dump, 8 GiB (R408). -/
def inDump (a : Nat) : Bool := decide (dumpBase ≤ a) && decide (a < dumpBase + 2 ^ 33)

/-- The key under which a line was last written: that of its own record, else for a line of the dump that of the dump (R408); none
for a line that nothing has written since boot (log 12). -/
def lineKeyOf (st : State) (a : Nat) : KeySlot :=
  match tget none st.host.lineKey (a / 64) with
  | some m => some m
  | none => if inDump a then st.host.dumpKey else none

/-- Bytes of a line as a reader with key slot `k` finds them, from the plaintext `line`. -/
def readLine (st : State) (k a : Nat) (line : List Byte) : List Byte :=
  match keyMat st k, lineKeyOf st a with
  | some m, some w => if w = m then line else foreignLine w m (a - a % 64) line
  | _, _ => line

/-- A byte of global memory under a key, from a function that gives plaintext bytes (R281); scratchpad is not
encrypted. -/
def keyedByte (st : State) (k : Nat) (plain : Nat → Byte) (a : Nat) : Byte :=
  if a < globalBytes then
    match keyMat st k, lineKeyOf st a with
    | some m, some w =>
      if w = m then plain a
      else (readLine st k a ((List.range 64).map fun i => plain (a - a % 64 + i))).getD (a % 64) 0
    | _, _ => plain a
  else plain a

/-- The key slot of the latest own write still to perform that holds the byte of an address at stamp `t`. -/
def ownKey (k : Core) (t a : Nat) : Option Nat :=
  (k.accs.reverse.filter fun x => decide (x.stamp ≤ t)).findSome? fun x =>
    if x.atomic.isSome then none
    else (x.chunks.zip x.keys).findSome? fun p =>
      if p.1.1 ≤ a ∧ a < p.1.1 + p.1.2.length then some p.2.2 else none

/-- A byte of core `c`'s view at stamp `t`, read under key slot `key`: an own store still to perform counts as written
under the key of its own mapping (R127, R281, R402). -/
def viewKeyed (st : State) (c t key a : Nat) : Byte :=
  match ownKey (coreOf st c) t a with
  | some w => if keyMat st w = keyMat st key then viewByte st c t a else keyedByte st key (viewByte st c t) a
  | none => keyedByte st key (viewByte st c t) a

/-- The line of an address comes under key slot `k`: what another key had written there reads as other bytes from now
on (R281). -/
def takeLine (st : State) (c k a : Nat) : State :=
  match keyMat st k with
  | none => st
  | some m =>
    let base := a - a % 64
    let st' := if (lineKeyOf st a).all (· == m) then st
      else perform st c base (readLine st k a (memRead st.mem base 64)) st.stamp [] (some .s) .core none
    { st' with host := { st'.host with lineKey := tset none st'.host.lineKey (a / 64) (some m) } }

/-- A plain write under a key slot performs at its home (R267, R281); bytes may cross lines. -/
def performKeyed (st : State) (c k addr : Nat) (bytes : List Byte) (issued : Nat) (seen : List (Nat × Nat))
    (pub : Option Scope) (src : WriteSrc) (cmd : Option Nat) : State :=
  let st := if addr < globalBytes then
      ((List.range (bytes.length / 64 + 2)).foldl (fun s i =>
        let l := addr - addr % 64 + 64 * i
        if l < addr + bytes.length then takeLine s c k l else s) st)
    else st
  perform st c addr bytes issued seen pub src cmd

end Sys2Proof.Machine
end

