-- ==== Sys2Proof/Machine/Operands.lean ====
section
/-! DEFINITION. Every source and destination form (R8 to R13, R58 to R61, R66, R69, R82), the four operand ports of a
trigger (R10, R86), and the issue of one slot of a bundle (R63 to R65): disabled, held, faulting or committed. -/

namespace Sys2Proof.Machine

/-! ### Values (R69) -/

/-- 64 equal lanes. -/
def splat (x : Lane) : Vec := BitVec.ofNat 2048 (x.toNat * ((2 ^ 2048 - 1) / (2 ^ 32 - 1)))

/-- Lane `i` of a vector (R143). -/
def laneOf (v : Vec) (i : Nat) : Lane := v.extractLsb' (32 * i) 32

/-- The value of lanes, first lane lowest. -/
def lanesNat : List Lane → Nat
  | [] => 0
  | x :: xs => x.toNat + 2 ^ 32 * lanesNat xs

/-- The vector of 64 lanes. -/
def ofLanes (l : List Lane) : Vec := BitVec.ofNat 2048 (lanesNat l)

/-- The 64 lanes of a vector. -/
def lanesOf (v : Vec) : List Lane := (List.range 64).map (laneOf v)

/-- A moved value as a scalar: a vector gives lanes 1 and 0 (R69). -/
def valS : Val → Word
  | .s x => x
  | .v x => x.setWidth 64

/-- A moved value as a vector: a scalar's low 32 bits go to all lanes (R69). -/
def valV : Val → Vec
  | .s x => splat (x.setWidth 32)
  | .v x => x

/-- A moved value as a predicate (R69). -/
def valP (v : Val) : Bool := valS v != 0

/-- The value of a short immediate code (R59). -/
def shortImm (s : Nat) : Word := ((BitVec.ofNat 6 s).signExtend 64)

/-! ### Ports (R10, R81, R324) -/

/-- Whether a unit's operand ports are vectors: VA0, VA1, VX (R10). -/
def vectorUnit (u : Nat) : Bool := u == 4 || u == 5 || u == 6

/-- Operand port `p` of a scalar unit at a level. -/
def portS (k : Core) (l : Level) (u p : Nat) : Word :=
  if l = .s ∧ banked u then tget 0 k.sbank.sOp (4 * u + p) else tget 0 k.ports.sOp (4 * u + p)

/-- Operand port `p` of a vector unit. -/
def portV (k : Core) (u p : Nat) : Vec := tget 0 k.ports.vOp (4 * (u - 4) + p)

/-- Writing operand port `p` of unit `u` at a level; a vector unit takes a vector (R10, R69). -/
def putPort (k : Core) (l : Level) (u p : Nat) (v : Val) : Core :=
  if vectorUnit u then { k with ports := { k.ports with vOp := tset 0 k.ports.vOp (4 * (u - 4) + p) (valV v) } }
  else if l = .s ∧ banked u then { k with sbank := { k.sbank with sOp := tset 0 k.sbank.sOp (4 * u + p) (valS v) } }
  else { k with ports := { k.ports with sOp := tset 0 k.ports.sOp (4 * u + p) (valS v) } }

/-! ### The open bundle -/

/-- TRIP, STGW, PRB and the predicates as the loop test of a bundle reads them (R105). -/
def loopNow (k : Core) : LoopIn := { trip := k.csr.trip, stgw := k.csr.stgw, prb := k.csr.prb, preds := k.files.p }

/-- A bundle of which no slot has issued. -/
def freshIssue (k : Core) : Issue :=
  { idx := k.pc.toNat, slot := 0, words := 0, files := filesOf k, sel := filesOf k, pops := [], moves := [], puts := [], en := 0xFF,
    done := 0, pend := none, reissue := false, shadows := [], loopIn := loopNow k, written := [], noWatch := none, stamp := 0,
    scanned := false, stop := none, heldFor := none, swz := none }

/-- The bundle that core `k` is issuing. -/
def issueOf (k : Core) : Issue := k.issue.getD (freshIssue k)

/-- The stamp of the bundle that core `c` is issuing: what engines capture is seen as of it (R63, R227). -/
def bundleStamp (st : State) (c : Nat) : Nat :=
  match (coreOf st c).issue with
  | some i => i.stamp
  | none => st.stamp

/-- Physical predicate of a name under PRB (R9). -/
def physP (prb : BitVec 3) (n : Nat) : Nat := if n < 8 then n else 8 + (n - 8 + prb.toNat) % 8

/-- A physical predicate; p0 reads as 1 (R8). -/
def predVal (p : Tab Bool) (n : Nat) : Bool := n == 0 || tget false p n

/-- Whether a slot is enabled (R64): by its guard as the predicates stood before the bundle; in a re-issue by ENMASK
(R113). -/
def slotEnabled (k : Core) (i : Issue) (n : BitVec 1) (g : BitVec 4) : Bool :=
  if i.reissue then i.en.toNat.testBit i.slot
  else predVal i.files.p (physP k.csr.prb g.toNat) != (n == 1)

/-- The load-data queue of the core's level (R12, R324). -/
def ldqOf (k : Core) : List LdEntry := if lvlOf k = .s then k.sbank.ldq else k.ldq

/-- Replacing the load-data queue of the core's level. -/
def setLdq (k : Core) (q : List LdEntry) : Core :=
  if lvlOf k = .s then { k with sbank := { k.sbank with ldq := q } } else { k with ldq := q }

/-- Capacity of the load-data queue of the core's level (R12, R324). -/
def ldqMax (k : Core) : Nat := if lvlOf k = .s then 8 else 64

/-- The value of a load-data entry (R12, R127, R128): its class, and for a scalar its bytes extended. -/
def ldVal (e : LdEntry) : Val :=
  if e.vec then .v (BitVec.ofNat 2048 (leNat e.bytes))
  else
    let w := 8 * e.bytes.length
    let x := leNat e.bytes
    .s (if e.signed then BitVec.ofInt 64 (sint w x) else BitVec.ofNat 64 x)

/-- The vector whose lane `i` holds `i` (R60). -/
def laneVec : Vec := ofLanes ((List.range 64).map (BitVec.ofNat 32))

/-- Whether a source takes the next slot as its literal (R62). -/
def litSource (s : Nat) : Bool := s == 0x186 || s == 0x187

/-- The value of a source code for the slot that issues (R58 to R60, R62, R82): a shadow entry first (R323), registers as
they stood at issue, result ports as delivered. -/
def readSource (k : Core) (i : Issue) (s : Nat) : Val :=
  match i.shadows.find? (·.slot == i.slot) with
  | some e => e.val
  | none =>
    match physCode k s with
    | some p => fileVal i.files p
    | none =>
      if s < 0x102 then resultPort k s
      else if 0x140 ≤ s ∧ s < 0x180 then .s (shortImm s)
      else
        match s with
        | 0x180 =>
          match i.pops.find? (·.1 == i.slot) with
          | some p => p.2
          | none => ((ldqOf k).head?.map ldVal).getD (.s 0)
        | 0x181 => .s (k.tx.setWidth 64)
        | 0x182 => .s (k.ty.setWidth 64)
        | 0x183 => .s (k.tz.setWidth 64)
        | 0x184 => .v laneVec
        | 0x185 => .v 0
        | 0x186 => .s ((slotWordOf i.words (i.slot + 1)).signExtend 64)
        | 0x187 => .s ((slotWordOf i.words (i.slot + 1)).setWidth 64)
        | _ => .s 0

/-- Writing a register of the main and operand files by destination code (R8, R9, R58, R66, R324): g0, p0 and code 0
are ignored. -/
def putReg (k : Core) (d : Nat) (v : Val) : Core :=
  match physCode k d with
  | none => k
  | some p =>
    let f := k.files
    if p < 0x80 then if p = 0 then k else { k with files := { f with g := tset 0 f.g p (valS v) } }
    else if p < 0xC0 then { k with files := { f with v := tset 0 f.v (p - 0x80) (valV v) } }
    else if p < 0xD0 then if p = 0xC0 then k else { k with files := { f with p := tset false f.p (p - 0xC0) (valP v) } }
    else if p < 0xE0 then
      if lvlOf k = .s ∧ 0xDC ≤ p then { k with sbank := { k.sbank with o := tset 0 k.sbank.o (p - 0xD0) (valS v) } }
      else { k with files := { f with o := tset 0 f.o (p - 0xD0) (valS v) } }
    else if p < 0xE8 then { k with files := { f with w := tset 0 f.w (p - 0xE0) (valV v) } }
    else { k with files := { f with m := tset 0 f.m (p - 0xE8) (valS v) } }

/-- Writing a move's value to its destination (R58, R61, R66): a port takes what the slots that commit leave in it. -/
def putDest (k : Core) (i : Issue) (d : Nat) (v : Val) : Core :=
  if d < 0x100 then putReg k d v
  else
    let v := ((i.puts.find? (·.1 == d)).map (·.2)).getD v
    putPort k (lvlOf k) ((d - 0x100) / 64) ((d - 0x100) % 64) v

/-! ### The operands of a trigger -/

/-- Operands of a triggered operation: its core and level, ports a to d as scalars, and as vectors on a vector unit. -/
structure Args where
  core : Nat
  lvl : Level
  a : Word
  b : Word
  c : Word
  d : Word
  va : Vec
  vb : Vec
  vc : Vec
  vd : Vec

/-- Port `p` of unit `u` as the trigger sees it: moves of its own bundle first (R10, R66). -/
def seenPort (k : Core) (i : Issue) (u p : Nat) : Val :=
  match i.moves.find? (·.1 == 0x100 + 64 * u + p) with
  | some m => m.2
  | none => if vectorUnit u then .v (portV k u p) else .s (portS k (lvlOf k) u p)

/-- The operands of a trigger of unit `u` whose moved value is `v`. On a vector unit a scalar control is read from lane
0 (R86), and the scalar operands are the lanes 0. -/
def argsOf (c : Nat) (k : Core) (i : Issue) (u : Nat) (v : Val) : Args :=
  let b := seenPort k i u 1
  let cc := seenPort k i u 2
  let d := seenPort k i u 3
  if vectorUnit u then
    let z := fun (x : Val) => (laneOf (valV x) 0).setWidth 64
    { core := c, lvl := lvlOf k, a := z v, b := z b, c := z cc, d := z d, va := valV v, vb := valV b, vc := valV cc,
      vd := valV d }
  else
    { core := c, lvl := lvlOf k, a := valS v, b := valS b, c := valS cc, d := valS d, va := 0, vb := 0, vc := 0, vd := 0 }

/-! ### Checks -/

/-- The first check that is not `ok`. -/
def Check.andThen : Check → Check → Check
  | .ok, y => y
  | x, _ => x

/-- A fault when a condition holds. -/
def faultIf (c : Bool) (code detail xaddr : Nat) : Check := if c then .fault code detail xaddr else .ok

/-- ILLCTL of a port when a condition holds (R86, R320). -/
def illctlIf (c : Bool) (port xaddr : Nat) : Check := faultIf c 6 port xaddr

/-- The budget of a wait: bits [31:0] of port d (R85). -/
def budgetOf (a : Args) : Nat := a.d.toNat % 2 ^ 32

/-- A triggered operation: its unit, its checks at issue and its effect when its slot commits. -/
structure Trigger where
  unit : Nat
  check : State → Args → Check
  act : State → Args → State

/-- The check that a source makes (R13, R62): a literal needs a next slot, a pop that its bundle has not already taken an
entry. -/
def sourceCheck (k : Core) (i : Issue) (s : Nat) : Check :=
  if litSource s ∧ 7 ≤ i.slot then .fault 2 2 0
  else if s = 0x180 ∧ (i.shadows.find? (·.slot == i.slot)).isNone ∧ (i.pops.find? (·.1 == i.slot)).isNone then
    match (ldqOf k).head? with
    | none => .fault 10 0 0
    | some e => if e.arrived then .ok else .hold .earlyPop 0
  else .ok

/-- Taking the entry of a pop that its bundle has not already taken (R12). -/
def sourcePop (k : Core) (i : Issue) (s : Nat) : Core :=
  if s = 0x180 ∧ (i.shadows.find? (·.slot == i.slot)).isNone ∧ (i.pops.find? (·.1 == i.slot)).isNone then
    setLdq k ((ldqOf k).drop 1)
  else k

/-! ### Pops and port moves of a bundle (R12, R13, R66, R84) -/

/-- The slots that are no literals (R62). -/
def realSlots (w : Bundle) : List Nat :=
  let l := literalSlots w
  (List.range 8).filter fun s => !l.getD s false

/-- The slots of an issue that are to issue: enabled and not committed. -/
def liveSlots (i : Issue) : List Nat := (realSlots i.words).filter fun s => i.en.toNat.testBit s && !i.done.toNat.testBit s

/-- The destination code of slot `s`. -/
def slotDst (w : Bundle) (s : Nat) : Nat := (slotD (slotWordOf w s)).toNat

/-- The slots of an issue that pop (R12, R323): live, with source ag.q and no shadow entry. -/
def popSlots (i : Issue) : List Nat :=
  (liveSlots i).filter fun s => slotSrc i.words s == 0x180 && (i.shadows.find? (·.slot == s)).isNone

/-- Those that have not taken their entry. -/
def duePops (i : Issue) : List Nat := (popSlots i).filter fun s => (i.pops.find? (·.1 == s)).isNone

/-- The operand ports b, c and d (bits 0, 1, 2) that the operations of each unit read (R87 to R96), from trigger code 0x04 on. -/
def portTable : List (List Nat) :=
  let r := fun (n x : Nat) => List.replicate n x
  let ia := r 17 1 ++ r 3 0 ++ r 12 1 ++ [3, 3, 7, 3, 3, 0]
  let va := r 3 5 ++ r 2 7 ++ [1, 1, 0, 0] ++ r 4 1 ++ [5] ++ r 18 1 ++ [3, 3, 1, 3, 1, 1, 0]
  [ [0, 1, 0, 1] ++ r 10 0 ++ [1, 1, 1, 0, 0], ia, ia, r 7 0 ++ r 4 1 ++ [0, 1, 1, 6, 7, 7] ++ r 7 1 ++ [3] ++ r 7 0 ++ [1], va, va,
    r 12 0 ++ [1, 1, 3, 3, 7], [0, 1, 0, 0, 3, 0, 1, 0, 0, 0, 0, 1], [7, 3, 3, 0, 0, 4, 4, 4, 3, 3, 0, 1, 1, 3],
    [7, 7, 1, 7, 0, 5, 7, 7, 7, 0], [1, 1, 1, 7, 0, 4, 0, 3, 7], [0, 4, 0, 1] ]

/-- Whether the trigger of destination code `d` reads operand port `p`. -/
def readsPort (d p : Nat) : Bool :=
  let x := d - 0x100
  decide (0 < p) && (((portTable.getD (x / 64) []).getD (x % 64 - 4) 0).testBit (p - 1))

/-- The slots, left to right, whose moves to port code `d` can be seen: live ones but for a pop that finds no entry. -/
def movers (i : Issue) (lost : Nat → Bool) (d : Nat) : List Nat := (liveSlots i).filter fun s => slotDst i.words s == d && !lost s

/-- A trigger needs the value of a pop that has not found its entry yet (R13, R63): the rightmost move to a port that it reads
pops, and an entry of the queue is still to arrive. DESIGN CHOICE (log 44): where the pop stands above the first faulting slot and the
trigger below it, the bundle is held, since the trigger sees the move (R10, R84). -/
def needsPop (k : Core) (i : Issue) (d : Nat) : Bool :=
  let due := duePops i
  let lost := fun (s : Nat) => due.contains s && decide ((ldqOf k).length ≤ due.findIdx (· == s))
  decide (0x104 ≤ d) && decide (4 ≤ (d - 0x100) % 64) && [1, 2, 3].any fun p => readsPort d p &&
    ((movers i lost (d - d % 64 + p)).getLast?.any due.contains)

/-- The unit that XCAUSE names for a fault at a slot (R319). -/
def causeUnit (s d : Nat) : Nat :=
  if 0x100 ≤ d then (d - 0x100) / 64
  else if s = 0x180 then 3
  else
    match s with
    | 0x0F0 => 0
    | 0x0F1 => 1
    | 0x0F2 => 2
    | 0x0F3 => 4
    | 0x0F4 => 4
    | 0x0F5 => 5
    | 0x0F6 => 5
    | 0x0F7 => 6
    | 0x0F8 => 6
    | 0x0F9 => 6
    | 0x0FA => 7
    | 0x0FB => 7
    | 0x0FC => 7
    | 0x0FD => 8
    | 0x0FE => 8
    | 0x0FF => 9
    | 0x100 => 10
    | 0x101 => 11
    | _ => 15

/-- Slot `n` and the slots after it up to `n + w` are committed. -/
def doneBits (done : BitVec 8) (n w : Nat) : BitVec 8 := done ||| BitVec.ofNat 8 ((2 ^ w - 1) * 2 ^ n)

/-- The slot commits (R65): its DONE bit (and its literal's) is set and the next slot is reached. -/
def commitSlot (st : State) (i : Issue) (w : Nat) (written : List Nat) : State :=
  modCore { st with turn := .bundle } st.cur fun k =>
    let j := k.issue.getD i
    { k with issue := some { j with slot := i.slot + w, done := doneBits i.done i.slot w,
                                    written := written ++ i.written } }

/-- The bundle is held at issue at a slot (R63, R357): nothing of the core changes but the record of the hold, which starts anew once
the drain of a stop has let the bundle try to issue. -/
def holdBundle (st : State) (c slot : Nat) (h : HoldCause) (budget : Nat) : State :=
  modCore { st with turn := .agenda } c fun k =>
    let (since, first) := match k.held.filter fun x => x.cause != .drain || h == .drain with
      | some x => (x.since, x.first)
      | none => ((dieOf st (dieIx c)).dtick, k.now)
    let budget := match k.held with
      | some x => if x.cause = h then max x.budget budget else budget
      | none => budget
    { k with held := some { since := since, first := first, slot := slot, cause := h, budget := budget }, issue := none }

/-- The physical codes that a destination writes, for the shadow rule (R323). -/
def writtenBy (k : Core) (d : Nat) : List Nat := if d < 0x100 then ((physCode k d).toList).filter fun p => p != 0 && p != 0xC0 else []

/-- The source code of a slot whose unit the cause names, with its destination. -/
def slotFault (st : State) (c : Nat) (i : Issue) (s d code detail xaddr : Nat) : State :=
  faultAtSlot st c i { code := code, detail := detail, xaddr := xaddr, unit := causeUnit s d, info := 0, async := false }

/-- What a check that is not `ok` does to the bundle. -/
def refuseSlot (st : State) (c : Nat) (i : Issue) (s d : Nat) (x : Check) : State :=
  match x with
  | .ok => st
  | .hold h b => holdBundle st c i.slot h b
  | .walk va w =>
    let k := coreOf st c
    match rootOf st c with
    | none => slotFault st c i s d 8 0 va
    | some root =>
      requestWalk (holdBundle st c i.slot .xlMiss 0) (dieIx c) root k.csr.asid va w { core := c, lvl := lvlOf k, key := k.csr.keyid } (.core c)
  | .fault code detail xaddr => slotFault st c i s d code detail xaddr
  | .halt =>
    let (k, stop) := stopAtSlot (coreOf st c) i false
    haltCore { st with turn := .agenda } c k stop 4

/-- What the scan has found to stop the bundle at the slot that it has reached (R63). -/
def stopHere (i : Issue) : Option Check := (i.stop.filter fun x => x.1 == i.slot).map (·.2)

/-- What a slot meets once its bundle has opened: what the scan found there, else its check; a bundle whose stalls are settled
holds no more (R63): its earlier slots make no later one wait. -/
def settled (i : Issue) (x : Check) : Check :=
  match stopHere i, x with
  | some y, _ => y
  | none, .hold h b => if i.scanned then .ok else .hold h b
  | none, x => x

/-- One slot of the core whose turn it is. A disabled slot commits with no effect (R64); else its checks are made, and
it commits with its effect (and its literal with it, R62), or holds or stops the bundle. -/
def runSlot (st : State) (n : BitVec 1) (g : BitVec 4) (s d : Nat) (chk : Core → Issue → Val → Check)
    (act : State → Core → Issue → Val → State) : State :=
  let c := st.cur
  let k := coreOf st c
  let i := issueOf k
  let w := if litSource s then 2 else 1
  if slotEnabled k i n g then
    let v := readSource k i s
    match settled i ((sourceCheck k i s).andThen (chk k i v)) with
    | .ok =>
      let st := setCore st c { sourcePop k i s with issue := some i }
      commitSlot (act st k i v) i w (writtenBy k d)
    | x => refuseSlot (setCore st c { k with issue := some i }) c i s d x
  else commitSlot (setCore st c { k with issue := some i }) i w []

/-- A slot that triggers an operation: port a takes the moved value and the operation starts (R10). -/
def runTrigger (t : Trigger) (low : Nat) (n : BitVec 1) (g : BitVec 4) (s : BitVec 9) (st : State) :
    Host.Outcome State Fault Refusal :=
  .next (runSlot st n g s.toNat (0x100 + 64 * t.unit + low)
    (fun k i v => t.check st (argsOf st.cur k i t.unit v))
    (fun st' k i v => t.act (modCore st' st'.cur fun k' => putPort k' (lvlOf k) t.unit 0 v) (argsOf st.cur k i t.unit v)))

/-- A slot that moves a value (R69). -/
def runMove (n : BitVec 1) (g : BitVec 4) (s d : Nat) (st : State) : Host.Outcome State Fault Refusal :=
  .next (runSlot st n g s d (fun _ _ _ => .ok) (fun st' _ i v => modCore st' st'.cur fun k => putDest k i d v))

/-- DETAIL and XADDR of ILLMOV: the reserved code itself (R320). -/
def illmov (d : Nat) : DecodeError → Nat × Nat
  | .reservedSource x => (0, x)
  | .reservedDestination x => (1, x)
  | .unassignedTrigger x => (2, x)
  | .badRoutineWord => (2, d)
  | .tooShort => (2, d)

/-- A slot word that is no instruction: ILLMOV at its slot, whatever its guard (R64, R83, R320). -/
def decodeFault (st : State) (w : SlotWord) (e : DecodeError) : State :=
  let c := st.cur
  let i := issueOf (coreOf st c)
  let s := (slotS w).toNat
  let d := (slotD w).toNat
  slotFault st c i s d 1 (illmov d e).1 (illmov d e).2

/-- MOVE (R69). -/
def execMove (n : BitVec 1) (g : BitVec 4) (s : BitVec 9) (d : BitVec 10) (st : State) :
    Host.Outcome State Fault Refusal := runMove n g s.toNat d.toNat st

/-- LIMM (R62). -/
def execLimm (n : BitVec 1) (g : BitVec 4) (d : BitVec 10) (st : State) : Host.Outcome State Fault Refusal :=
  runMove n g 0x186 d.toNat st

/-- LIMMU (R62). -/
def execLimmu (n : BitVec 1) (g : BitVec 4) (d : BitVec 10) (st : State) : Host.Outcome State Fault Refusal :=
  runMove n g 0x187 d.toNat st

end Sys2Proof.Machine
end

