-- ==== Sys2Proof/Machine/Control.lean ====
section
/-! DEFINITION. CU operations (R100 to R117): checks at the slot, effects when the bundle completes, the control and
status registers (R16 to R21), the cursor and the reports of units (R109, R110). -/

namespace Sys2Proof.Machine

/-! ### Control and status registers -/

/-- Registers that write only at S level (R16). -/
def csrSrw (n : Nat) : Bool :=
  n ≤ 0x003 || n == 0x030 || (0x040 ≤ n && n ≤ 0x043) || (0x048 ≤ n && n ≤ 0x04B) || (0x050 ≤ n && n ≤ 0x052)
    || (0x070 ≤ n && n ≤ 0x072)

/-- Registers that read as zero at T level (R17). -/
def csrHidden (n : Nat) : Bool := n ≤ 0x003 || n == 0x050 || n == 0x051 || n == 0x070

/-- The numbers that R16 lists. -/
def csrListed (n : Nat) : Bool :=
  csrSrw n || (0x010 ≤ n && n ≤ 0x014) || (0x020 ≤ n && n ≤ 0x022) || (0x060 ≤ n && n ≤ 0x063)
    || (0x080 ≤ n && n ≤ 0x083)

/-- The value of a control register (R16, R114); FEAT comes from the feature block (R403). -/
def csrGet (st : State) (k : Core) (n : Nat) : Word :=
  let r := k.csr
  match n with
  | 0x000 => r.xstat
  | 0x001 => r.xpc
  | 0x002 => r.xcause
  | 0x003 => r.xaddr
  | 0x010 => r.grb.setWidth 64
  | 0x011 => r.vrb.setWidth 64
  | 0x012 => r.prb.setWidth 64
  | 0x013 => r.trip.setWidth 64
  | 0x014 => r.stgw.setWidth 64
  | 0x020 => r.vstat.setWidth 64
  | 0x021 => r.mxstat
  | 0x022 => r.ssstat
  | 0x030 => r.devctl
  | 0x050 => r.savebase
  | 0x051 => r.savelim
  | 0x052 => r.lrtbase
  | 0x060 => r.tileidx.setWidth 64
  | 0x061 => r.phaseid
  | 0x062 => r.launchid
  | 0x063 => r.jobid
  | 0x070 => r.asid.setWidth 64
  | 0x071 => r.keyid.setWidth 64
  | 0x072 => r.seed
  | n =>
    if 0x040 ≤ n ∧ n ≤ 0x043 then tget 0 r.wpb (n - 0x040)
    else if 0x048 ≤ n ∧ n ≤ 0x04B then tget 0 r.wpm (n - 0x048)
    else if 0x080 ≤ n ∧ n ≤ 0x083 then tget 0 st.host.feat (n - 0x080)
    else 0

/-- Taking the writable bits of a value, the others as they were (R4, R5). -/
def maskedWrite (old v mask : Word) : Word := (old &&& ~~~mask) ||| (v &&& mask)

/-- Writing a control register: narrow registers take the low bits, RO fields stay, reserved bits stay zero (R17, R18,
R19, R20, R115, R197, R218, R319, R347). A write to XPC clears the pending record (R101). -/
def csrPut (k : Core) (n : Nat) (v : Word) : Core :=
  let r := k.csr
  let set := fun (r : Csrs) => { k with csr := r }
  match n with
  | 0x000 => set { r with xstat := maskedWrite r.xstat v 0xFF7E0000 }
  | 0x001 => { set { r with xpc := v } with pend := none }
  | 0x002 => set { r with xcause := v &&& 0x0000FFFF00F0FF9F }
  | 0x003 => set { r with xaddr := v }
  | 0x010 => set { r with grb := v.setWidth 6 }
  | 0x011 => set { r with vrb := v.setWidth 5 }
  | 0x012 => set { r with prb := v.setWidth 3 }
  | 0x013 => set { r with trip := v.setWidth 32 }
  | 0x014 => set { r with stgw := v.setWidth 4 }
  | 0x020 => set { r with vstat := v.setWidth 16 &&& 0xFF }
  | 0x021 => set { r with mxstat := v &&& 0x000000FFFF0700FF }
  | 0x022 => set { r with ssstat := v &&& 0x0000000000FF0DFF }
  | 0x030 => set { r with devctl := v &&& 0x00000000FFFF000D }
  | 0x050 => set { r with savebase := v }
  | 0x051 => set { r with savelim := v }
  | 0x052 => set { r with lrtbase := v }
  | 0x070 => set { r with asid := v.setWidth 16 }
  | 0x071 => set { r with keyid := v.setWidth 10 }
  | 0x072 => set { r with seed := v }
  | n =>
    if 0x040 ≤ n ∧ n ≤ 0x043 then set { r with wpb := tset 0 r.wpb (n - 0x040) v }
    else if 0x048 ≤ n ∧ n ≤ 0x04B then set { r with wpm := tset 0 r.wpm (n - 0x048) (v &&& 0x00000000FFFFFF03) }
    else k

/-- The new value that csrw, csrs or csrc gives (R115). -/
def csrNew (op : Nat) (old b : Word) : Word :=
  match op with
  | 0x12 => b
  | 0x13 => old ||| b
  | _ => old &&& ~~~b

/-! ### Reports and the cursor (R109, R110, R302, R303) -/

/-- The launch that a core runs. -/
def launchOf (st : State) (c : Nat) : Option LaunchRun :=
  match (coreOf st c).launch, graphOf st c with
  | some (_, j), some g => g.launches[j]?
  | _, _ => none

/-- Changing launch `j` of the graph of slot `q`. -/
def modLaunch (st : State) (q j : Nat) (f : LaunchRun → LaunchRun) : State :=
  modSlot st q fun s => { s with graph := s.graph.map fun g => { g with launches := g.launches.modify j f } }

/-- A unit's report enters the reorder window of its launch (R110, R303); the first report of an index counts. -/
def reportUnit (st : State) (q j tidx : Nat) (status : BitVec 16) : State :=
  modLaunch st q j fun l => if (tget none l.rep tidx).isSome then l else { l with rep := tset none l.rep tidx (some status) }

/-- The report of the current entry of core `c`, once (R109, R110). -/
def reportCurrent (st : State) (c : Nat) (status : BitVec 8) : State :=
  let k := coreOf st c
  if k.reported then st
  else
    let st := modCore st c fun k => { k with reported := true }
    match k.launch, k.sched[k.cursor]? with
    | some (q, j), some e => reportUnit st q j e.tidx (status.setWidth 16)
    | _, _ => st

/-- The next entry of the schedule after a position that is not cancelled (R109, R299). -/
def nextEntry (k : Core) (i : Nat) : Option Nat :=
  ((List.range k.sched.length).filter fun j => decide (i < j)).find? fun j =>
    !(k.cancelled.contains ((k.sched[j]?.map (·.tidx)).getD 0))

/-- The entry at which the cursor starts: the first that is not cancelled (R299, R302). -/
def firstEntry (k : Core) : Option Nat :=
  (List.range k.sched.length).find? fun j => !(k.cancelled.contains ((k.sched[j]?.map (·.tidx)).getD 0))

/-- The core takes a schedule entry: identity, cursor, program counter (R6, R109). -/
def takeEntry (k : Core) (i : Nat) : Core :=
  match k.sched[i]? with
  | none => k
  | some e => { k with tx := e.tx, ty := e.ty, tz := e.tz, cursor := i, reported := false,
                       csr := { k.csr with tileidx := BitVec.ofNat 32 e.tidx }, pc := BitVec.ofNat 14 e.entry }

/-- The other logical core of a time-sliced pair (R300, R301). -/
def partnerOf (st : State) (c : Nat) : Option Nat :=
  let d := dieIx c
  let e := tget (0 : BitVec 16) (dieOf st d).remap (c % 192)
  if e.getLsbD 14 then
    ((List.range 192).find? fun i => i != c % 192 &&
      let f := tget (0 : BitVec 16) (dieOf st d).remap i
      f.getLsbD 14 && f.extractLsb' 0 8 == e.extractLsb' 0 8).map (192 * d + ·)
  else none

/-- Whether a core of a time-sliced pair has an entry to run while it is not resident (R301). -/
def waitsForTurn (st : State) (c : Nat) : Bool :=
  let k := coreOf st c
  !k.resident && (k.run == .saved || k.run == .ready)

/-- A core stops at its program counter to be saved (R334): every operation in flight delivers, the row next due of a register
drain is to land (R199), XPC is the bundle that follows, and MID is 0. -/
def settleHere (k : Core) : Core :=
  { dueRow (drainFlights k) with
    run := .settling, issue := none, reenter := none, pend := none, loopIn := none, shadows := []
    csr := { (drainFlights k).csr with xpc := k.pc.setWidth 64
                                       xstat := xstatOf 0 0 false false .t .t (k.csr.xstat.toNat % 256) } }

/-- nextt (R109): the implicit report, then the next entry or the end of the launch; a pre-empted core stops at the tile
boundary, one at S level after its eret (R334), and a time-sliced core yields to its partner (R301). The report enters the reorder window without the hold that
R110 gives donet, whatever the entry's index (log 44); the end of the launch has no entry bundle, and its record names its own
bundle (log 44). -/
def doNextt (st : State) (c src : Nat) : State :=
  let st := reportCurrent st c 0xFF
  let k := coreOf st c
  match nextEntry k k.cursor with
  | some i =>
    let st := setCore st c (takeEntry k i)
    let st := traceRec st c 6 src (coreOf st c).pc.toNat 0
    if k.stopReq then modCore st c fun k => if lvlOf k = .t then settleHere k else { k with stopNow := true }
    else
      match partnerOf st c with
      | some p => if waitsForTurn st p then { st with agenda := .timeSliceYield c :: st.agenda } else st
      | none => st
  | none =>
    let st := traceRec st c 6 src src 0
    let st := modCore st c fun k => { k with run := .ended, endedAt := (dieOf st (dieIx c)).dtick, issue := none }
    match partnerOf st c with
    | some p => if waitsForTurn st p then { st with agenda := .timeSliceYield c :: st.agenda } else st
    | none => st

/-! ### Effects at completion (R101) -/

/-- The test of loop (R105): a new real iteration starts, and whether some stage still has work. -/
def loopTest (l : LoopIn) : Bool × Bool :=
  let w := min l.stgw.toNat 8
  let new := decide (0 < l.trip.toNat)
  let busy := new || (List.range (w - 1)).any fun i => predVal l.preds (physP l.prb (8 + i))
  (new, busy)

/-- Rotation of the three bases (R105). -/
def rotate (r : Csrs) : Csrs := { r with grb := r.grb - 1, vrb := r.vrb - 1, prb := r.prb - 1 }

/-- loop at completion (R105, R106), with TRIP, STGW, PRB and the predicates of the original issue. -/
def doLoop (k : Core) (l : LoopIn) (tgt : Word) (idx : Nat) : Core :=
  let (new, busy) := loopTest l
  let trip := if new then l.trip - 1 else k.csr.trip
  if busy then
    let r := rotate { k.csr with trip := trip, prb := l.prb }
    { k with csr := r, pc := tgt.setWidth 14,
             files := { k.files with p := tset false k.files.p (physP r.prb 8) new } }
  else { k with pc := BitVec.ofNat 14 (idx + 1) }

/-- The stop that sysc and brk make: the bundle after theirs, nothing of it committed (R111). -/
def afterStop (idx : Nat) : Stop :=
  { xpc := BitVec.ofNat 14 (idx + 1), done := 0, slotres := 0, mid := false, shadows := [] }

/-- The effect of a CU operation when its bundle, of index `idx`, completes (R101): `slot` is the operation's slot. The tick T of
a waitc is the tick in which its bundle completes, so a bundle that eret completes counts from its re-issue; the UNIT of SYSC
and BRK is that of their slot, 0 (both log 44). A brk that halts leaves DSTAT.SHD 0 as R344 and R111 give it, whatever shadow
entries of a trapped bundle the core keeps (DEDUCED, log 45). -/
def completeCu (st : State) (c : Nat) (p : CuPend) (l : LoopIn) (idx slot : Nat) (en : BitVec 8) : State :=
  let k := coreOf st c
  let goto := fun (kind : Nat) (t : Word) =>
    let st := setCore st c { k with pc := t.setWidth 14 }
    traceRec st c kind idx (t.toNat % 2 ^ 14) 0
  let next := BitVec.ofNat 14 (idx + 1)
  let now := (dieOf st (dieIx c)).dtick
  match p.op with
  | 0x04 => goto 1 p.a
  | 0x05 => goto 1 (p.a + p.b)
  | 0x06 => goto 2 p.a
  | 0x07 => goto 2 (p.a + p.b)
  | 0x08 => goto 3 p.a
  | 0x09 =>
    let st := setCore st c (doLoop k l p.a idx)
    if (loopTest l).2 then traceRec st c 4 idx (p.a.toNat % 2 ^ 14) 0 else st
  | 0x0A =>
    let st := setCore st c { k with pc := p.a.setWidth 14, csr := { k.csr with trip := 0 } }
    traceRec st c 5 idx (p.a.toNat % 2 ^ 14) 0
  | 0x0B => setCore st c (putWait { k with pc := next } (now + 1 + p.a.toNat % 2 ^ 32))
  | 0x0C => doNextt st c idx
  | 0x0D =>
    let st := reportCurrent (setCore st c { k with pc := next }) c (p.a.setWidth 8)
    traceRec st c 7 idx idx (p.a.toNat % 256)
  | 0x0E =>
    takeTrap st c { drainInPlace k with issue := none, enmask := en }
      (afterStop idx) { code := 16, detail := 0, xaddr := p.a.toNat, unit := 0, info := 0, async := false }
  | 0x0F => returnFromTrap st c idx
  | 0x10 =>
    let k' := { drainInPlace k with issue := none }
    if bit k.dbg.dstat.toNat 0 then haltCore st c { k' with pc := next } (afterStop idx) 3
    else takeTrap st c { k' with enmask := en } (afterStop idx)
      { code := 17, detail := 0, xaddr := p.a.toNat, unit := 0, info := 0, async := false }
  | 0x15 => setCore st c (putWait { k with pc := next, fetched := [] } (now + 4))
  | 0x16 => postmark (setCore st c { k with pc := next }) c idx slot 5 (p.a.toNat % 2 ^ 16)
  | op =>
    let n := p.a.toNat
    let old := if n = 0x021 then mxBefore k else if n = 0x022 then ssBefore k else csrGet st k n
    setCore st c (csrPut { k with pc := next } n (csrNew op old p.b))

/-! ### Triggers -/

/-- The check of a transfer target (R102). -/
def targetCheck (l : Level) (t : Word) : Check :=
  if 10921 < t.toNat then .fault 3 0 t.toNat
  else if l = .t ∧ 9898 ≤ t.toNat then .fault 4 0 t.toNat
  else .ok

/-- Latching the effect of a CU operation until its bundle completes (R101). -/
def latchCu (op : Nat) (st : State) (a : Args) : State :=
  modCore st a.core fun k =>
    let i := issueOf k
    { k with issue := some { i with pend := some { op := op, a := a.a, b := a.b } } }

/-- cu.r receives a value at latency 1 (R87). -/
def cuResult (st : State) (a : Args) (x : Word) : State :=
  modCore st a.core fun k => launchResult k 0x0F0 (some (.s x)) 0 1 0

/-- A CU operation with no check. -/
def cuPlain (op : Nat) : Trigger := { unit := 0, check := fun _ _ => .ok, act := latchCu op }

/-- A transfer to a target (R102, R103). -/
def cuJump (op : Nat) (tgt : Args → Word) : Trigger :=
  { unit := 0, check := fun _ a => targetCheck a.lvl (tgt a), act := latchCu op }

/-- call and calli also give the index of the following bundle (R104). -/
def cuCall (op : Nat) (tgt : Args → Word) : Trigger :=
  { unit := 0
    check := fun _ a => targetCheck a.lvl (tgt a)
    act := fun st a => latchCu op (cuResult st a (BitVec.ofNat 64 ((issueOf (coreOf st a.core)).idx + 1))) a }

/-- jmp (R103). -/
def trigJmp : Trigger := cuJump 0x04 fun a => a.a
/-- jmpi (R103). -/
def trigJmpi : Trigger := cuJump 0x05 fun a => a.a + a.b
/-- call (R104). -/
def trigCall : Trigger := cuCall 0x06 fun a => a.a
/-- calli (R104). -/
def trigCalli : Trigger := cuCall 0x07 fun a => a.a + a.b
/-- ret (R103). -/
def trigRet : Trigger := cuJump 0x08 fun a => a.a
/-- loop: its target is checked only when the branch is taken (R105). -/
def trigLoop : Trigger :=
  { unit := 0
    check := fun st a => if (loopTest (issueOf (coreOf st a.core)).loopIn).2 then targetCheck a.lvl a.a else .ok
    act := latchCu 0x09 }
/-- leave (R107). -/
def trigLeave : Trigger := cuJump 0x0A fun a => a.a
/-- waitc (R108). -/
def trigWaitc : Trigger := cuPlain 0x0B
/-- nextt (R109). -/
def trigNextt : Trigger := cuPlain 0x0C

/-- The hold of donet beyond the reorder window (R110). -/
def donetCheck (st : State) (a : Args) : Check :=
  let k := coreOf st a.core
  match launchOf st a.core, k.sched[k.cursor]? with
  | some l, some e => if !k.reported && decide (l.base + 256 ≤ e.tidx) then .hold .doneWin 0 else .ok
  | _, _ => .ok

/-- donet (R110). -/
def trigDonet : Trigger := { unit := 0, check := donetCheck, act := latchCu 0x0D }
/-- sysc (R111). -/
def trigSysc : Trigger := cuPlain 0x0E
/-- eret: PRIV at T level (R113). -/
def trigEret : Trigger :=
  { unit := 0, check := fun _ a => faultIf (a.lvl = .t : Bool) 4 2 a.a.toNat, act := latchCu 0x0F }
/-- brk (R112). -/
def trigBrk : Trigger := cuPlain 0x10

/-- csrr (R114). DESIGN CHOICE (log 44): a slot that eret issues again reads the register as it stands then. -/
def trigCsrr : Trigger :=
  { unit := 0
    check := fun _ a => faultIf (!csrListed a.a.toNat) 5 0 a.a.toNat
    act := fun st a =>
      let k := coreOf st a.core
      let n := a.a.toNat
      cuResult st a (if a.lvl = .t ∧ csrHidden n then 0 else csrGet st k n) }

/-- csrw, csrs, csrc (R115): ILLCSR before PRIV. -/
def cuCsr (op : Nat) : Trigger :=
  { unit := 0
    check := fun _ a => (faultIf (!csrListed a.a.toNat) 5 0 a.a.toNat).andThen
      (faultIf (a.lvl = .t && csrSrw a.a.toNat) 4 1 a.a.toNat)
    act := latchCu op }

/-- csrw (R115). -/
def trigCsrw : Trigger := cuCsr 0x12
/-- csrs (R115). -/
def trigCsrs : Trigger := cuCsr 0x13
/-- csrc (R115). -/
def trigCsrc : Trigger := cuCsr 0x14
/-- ifence (R116). -/
def trigIfence : Trigger := cuPlain 0x15
/-- pmark (R117). -/
def trigPmark : Trigger := cuPlain 0x16

/-! ### The meanings of the slots that trigger them (R87) -/

/-- JMP (R103). -/
def execJmp (n : BitVec 1) (g : BitVec 4) (s : BitVec 9) (st : State) :
    Host.Outcome State Fault Refusal := runTrigger trigJmp 0x04 n g s st
/-- JMPI (R103). -/
def execJmpi (n : BitVec 1) (g : BitVec 4) (s : BitVec 9) (st : State) :
    Host.Outcome State Fault Refusal := runTrigger trigJmpi 0x05 n g s st
/-- CALL (R104). -/
def execCall (n : BitVec 1) (g : BitVec 4) (s : BitVec 9) (st : State) :
    Host.Outcome State Fault Refusal := runTrigger trigCall 0x06 n g s st
/-- CALLI (R104). -/
def execCalli (n : BitVec 1) (g : BitVec 4) (s : BitVec 9) (st : State) :
    Host.Outcome State Fault Refusal := runTrigger trigCalli 0x07 n g s st
/-- RET (R103). -/
def execRet (n : BitVec 1) (g : BitVec 4) (s : BitVec 9) (st : State) :
    Host.Outcome State Fault Refusal := runTrigger trigRet 0x08 n g s st
/-- LOOP (R105). -/
def execLoop (n : BitVec 1) (g : BitVec 4) (s : BitVec 9) (st : State) :
    Host.Outcome State Fault Refusal := runTrigger trigLoop 0x09 n g s st
/-- LEAVE (R107). -/
def execLeave (n : BitVec 1) (g : BitVec 4) (s : BitVec 9) (st : State) :
    Host.Outcome State Fault Refusal := runTrigger trigLeave 0x0A n g s st
/-- WAITC (R108). -/
def execWaitc (n : BitVec 1) (g : BitVec 4) (s : BitVec 9) (st : State) :
    Host.Outcome State Fault Refusal := runTrigger trigWaitc 0x0B n g s st
/-- NEXTT (R109). -/
def execNextt (n : BitVec 1) (g : BitVec 4) (s : BitVec 9) (st : State) :
    Host.Outcome State Fault Refusal := runTrigger trigNextt 0x0C n g s st
/-- DONET (R110). -/
def execDonet (n : BitVec 1) (g : BitVec 4) (s : BitVec 9) (st : State) :
    Host.Outcome State Fault Refusal := runTrigger trigDonet 0x0D n g s st
/-- SYSC (R111). -/
def execSysc (n : BitVec 1) (g : BitVec 4) (s : BitVec 9) (st : State) :
    Host.Outcome State Fault Refusal := runTrigger trigSysc 0x0E n g s st
/-- ERET (R113). -/
def execEret (n : BitVec 1) (g : BitVec 4) (s : BitVec 9) (st : State) :
    Host.Outcome State Fault Refusal := runTrigger trigEret 0x0F n g s st
/-- BRK (R112). -/
def execBrk (n : BitVec 1) (g : BitVec 4) (s : BitVec 9) (st : State) :
    Host.Outcome State Fault Refusal := runTrigger trigBrk 0x10 n g s st
/-- CSRR (R114). -/
def execCsrr (n : BitVec 1) (g : BitVec 4) (s : BitVec 9) (st : State) :
    Host.Outcome State Fault Refusal := runTrigger trigCsrr 0x11 n g s st
/-- CSRW (R115). -/
def execCsrw (n : BitVec 1) (g : BitVec 4) (s : BitVec 9) (st : State) :
    Host.Outcome State Fault Refusal := runTrigger trigCsrw 0x12 n g s st
/-- CSRS (R115). -/
def execCsrs (n : BitVec 1) (g : BitVec 4) (s : BitVec 9) (st : State) :
    Host.Outcome State Fault Refusal := runTrigger trigCsrs 0x13 n g s st
/-- CSRC (R115). -/
def execCsrc (n : BitVec 1) (g : BitVec 4) (s : BitVec 9) (st : State) :
    Host.Outcome State Fault Refusal := runTrigger trigCsrc 0x14 n g s st
/-- IFENCE (R116). -/
def execIfence (n : BitVec 1) (g : BitVec 4) (s : BitVec 9) (st : State) :
    Host.Outcome State Fault Refusal := runTrigger trigIfence 0x15 n g s st
/-- PMARK (R117). -/
def execPmark (n : BitVec 1) (g : BitVec 4) (s : BitVec 9) (st : State) :
    Host.Outcome State Fault Refusal := runTrigger trigPmark 0x16 n g s st

end Sys2Proof.Machine
end

