-- ==== Sys2Proof/Machine/Integer.lean ====
section
/-! DEFINITION. IA operations (R118 to R121): 64-bit patterns, every result modulo 2^64, no flag and no fault. -/

namespace Sys2Proof.Machine

/-- Quotient toward zero (R120). -/
def divS (a b : Word) : Word :=
  if b = 0 then BitVec.allOnes 64 else BitVec.ofInt 64 (a.toInt.tdiv b.toInt)

/-- Unsigned quotient (R120). -/
def divU (a b : Word) : Word := if b = 0 then BitVec.allOnes 64 else BitVec.ofNat 64 (a.toNat / b.toNat)

/-- Signed remainder, of the sign of `a` (R120). -/
def remS (a b : Word) : Word := if b = 0 then a else BitVec.ofInt 64 (a.toInt.tmod b.toInt)

/-- Unsigned remainder (R120). -/
def remU (a b : Word) : Word := if b = 0 then a else BitVec.ofNat 64 (a.toNat % b.toNat)

/-- Shift count: bits [5:0] (R119). -/
def cnt6 (b : Word) : Nat := b.toNat % 64

/-- Leading zeros; 64 for zero. -/
def clz64 (a : Word) : Word := BitVec.ofNat 64 (if a = 0 then 64 else 63 - Nat.log2 a.toNat)

/-- Trailing zeros; 64 for zero. -/
def ctz64 (a : Word) : Word := BitVec.ofNat 64 (((List.range 64).find? fun i => a.toNat.testBit i).getD 64)

/-- Count of one bits. -/
def popc64 (a : Word) : Word := BitVec.ofNat 64 ((List.range 64).filter fun i => a.toNat.testBit i).length

/-- A width of 7 bits, at most 64 (R121). -/
def width7 (b : Word) : Nat := min (b.toNat % 128) 64

/-- Sign extension from a width (R121). -/
def sextW (a b : Word) : Word := if width7 b = 0 then 0 else BitVec.ofInt 64 (sint (width7 b) a.toNat)

/-- Zero extension from a width (R121). -/
def zextW (a b : Word) : Word := BitVec.ofNat 64 (a.toNat % 2 ^ width7 b)

/-- Field extraction (R121): the field is cut at bit 63. -/
def bfxW (a b c : Word) : Word :=
  let pos := cnt6 b
  let w := min (width7 c) (64 - pos)
  BitVec.ofNat 64 (a.toNat / 2 ^ pos % 2 ^ w)

/-- Field insertion (R121). -/
def bfiW (a b c d : Word) : Word :=
  let pos := cnt6 c
  let w := min (width7 d) (64 - pos)
  let m : Word := BitVec.ofNat 64 ((2 ^ w - 1) * 2 ^ pos)
  (a &&& ~~~m) ||| ((b <<< pos) &&& m)

/-- A compare's 1 or 0 (R118). -/
def boolW (b : Bool) : Word := if b then 1 else 0

/-- The high half of an exact product (R119). -/
def mulHigh (x : Int) : Word := BitVec.ofInt 64 (x / 2 ^ 64)

/-- The result port of IA unit `u` (1 or 2). -/
def iaPort (u : BitVec 2) : Nat := if u = 1 then 0x0F1 else 0x0F2

/-- The unit number of IA unit `u` (R61). -/
def iaUnit (u : BitVec 2) : Nat := if u = 1 then 1 else 2

/-- An IA operation: a result of the operands after its latency in issue ticks (R84, R88). -/
def iaOp (u : BitVec 2) (latency : Nat) (f : Args → Word) : Trigger :=
  { unit := iaUnit u
    check := fun _ _ => .ok
    act := fun st a => modCore st a.core fun k => launchResult k (iaPort u) (some (.s (f a))) 0 latency 0 }

/-- add. -/
def trigAdd (u : BitVec 2) : Trigger := iaOp u 1 fun x => x.a + x.b
/-- sub. -/
def trigSub (u : BitVec 2) : Trigger := iaOp u 1 fun x => x.a - x.b
/-- mul. -/
def trigMul (u : BitVec 2) : Trigger := iaOp u 3 fun x => x.a * x.b
/-- mulh. -/
def trigMulh (u : BitVec 2) : Trigger := iaOp u 3 fun x => mulHigh (x.a.toInt * x.b.toInt)
/-- mulhu. -/
def trigMulhu (u : BitVec 2) : Trigger := iaOp u 3 fun x => mulHigh ((x.a.toNat : Int) * (x.b.toNat : Int))
/-- div. -/
def trigDiv (u : BitVec 2) : Trigger := iaOp u 20 fun x => divS x.a x.b
/-- divu. -/
def trigDivu (u : BitVec 2) : Trigger := iaOp u 20 fun x => divU x.a x.b
/-- rem. -/
def trigRem (u : BitVec 2) : Trigger := iaOp u 20 fun x => remS x.a x.b
/-- remu. -/
def trigRemu (u : BitVec 2) : Trigger := iaOp u 20 fun x => remU x.a x.b
/-- and. -/
def trigIaAnd (u : BitVec 2) : Trigger := iaOp u 1 fun x => x.a &&& x.b
/-- or. -/
def trigIaOr (u : BitVec 2) : Trigger := iaOp u 1 fun x => x.a ||| x.b
/-- xor. -/
def trigIaXor (u : BitVec 2) : Trigger := iaOp u 1 fun x => x.a ^^^ x.b
/-- andn. -/
def trigAndn (u : BitVec 2) : Trigger := iaOp u 1 fun x => x.a &&& ~~~x.b
/-- shl. -/
def trigShl (u : BitVec 2) : Trigger := iaOp u 1 fun x => x.a <<< cnt6 x.b
/-- shr. -/
def trigShr (u : BitVec 2) : Trigger := iaOp u 1 fun x => x.a >>> cnt6 x.b
/-- sar. -/
def trigSar (u : BitVec 2) : Trigger := iaOp u 1 fun x => x.a.sshiftRight (cnt6 x.b)
/-- rol. -/
def trigRol (u : BitVec 2) : Trigger := iaOp u 1 fun x => x.a.rotateLeft (cnt6 x.b)
/-- clz. -/
def trigClz (u : BitVec 2) : Trigger := iaOp u 1 fun x => clz64 x.a
/-- ctz. -/
def trigCtz (u : BitVec 2) : Trigger := iaOp u 1 fun x => ctz64 x.a
/-- popc. -/
def trigPopc (u : BitVec 2) : Trigger := iaOp u 1 fun x => popc64 x.a
/-- min. -/
def trigIaMin (u : BitVec 2) : Trigger := iaOp u 1 fun x => if x.b.slt x.a then x.b else x.a
/-- max. -/
def trigIaMax (u : BitVec 2) : Trigger := iaOp u 1 fun x => if x.a.slt x.b then x.b else x.a
/-- minu. -/
def trigMinu (u : BitVec 2) : Trigger := iaOp u 1 fun x => if x.b.ult x.a then x.b else x.a
/-- maxu. -/
def trigMaxu (u : BitVec 2) : Trigger := iaOp u 1 fun x => if x.a.ult x.b then x.b else x.a
/-- sext. -/
def trigSext (u : BitVec 2) : Trigger := iaOp u 1 fun x => sextW x.a x.b
/-- zext. -/
def trigZext (u : BitVec 2) : Trigger := iaOp u 1 fun x => zextW x.a x.b
/-- cmpeq. -/
def trigCmpeq (u : BitVec 2) : Trigger := iaOp u 1 fun x => boolW (x.a == x.b)
/-- cmpne. -/
def trigCmpne (u : BitVec 2) : Trigger := iaOp u 1 fun x => boolW (x.a != x.b)
/-- cmplt. -/
def trigCmplt (u : BitVec 2) : Trigger := iaOp u 1 fun x => boolW (x.a.slt x.b)
/-- cmpltu. -/
def trigCmpltu (u : BitVec 2) : Trigger := iaOp u 1 fun x => boolW (x.a.ult x.b)
/-- cmple. -/
def trigCmple (u : BitVec 2) : Trigger := iaOp u 1 fun x => boolW (x.a.sle x.b)
/-- cmpleu. -/
def trigCmpleu (u : BitVec 2) : Trigger := iaOp u 1 fun x => boolW (x.a.ule x.b)
/-- sel. -/
def trigSel (u : BitVec 2) : Trigger := iaOp u 1 fun x => if x.c ≠ 0 then x.a else x.b
/-- bfx. -/
def trigBfx (u : BitVec 2) : Trigger := iaOp u 1 fun x => bfxW x.a x.b x.c
/-- bfi. -/
def trigBfi (u : BitVec 2) : Trigger := iaOp u 1 fun x => bfiW x.a x.b x.c x.d
/-- madd. -/
def trigMadd (u : BitVec 2) : Trigger := iaOp u 3 fun x => x.a * x.b + x.c
/-- lea. -/
def trigLea (u : BitVec 2) : Trigger := iaOp u 1 fun x => x.a + (x.b <<< (x.c.toNat % 8))
/-- abs. -/
def trigAbs (u : BitVec 2) : Trigger := iaOp u 1 fun x => if x.a.slt 0 then -x.a else x.a

/-! ### The meanings of the slots that trigger them (R88) -/

/-- ADD (R119). -/
def execAdd (n : BitVec 1) (g : BitVec 4) (s : BitVec 9) (u : BitVec 2) (st : State) :
    Host.Outcome State Fault Refusal := runTrigger (trigAdd u) 0x04 n g s st
/-- SUB (R119). -/
def execSub (n : BitVec 1) (g : BitVec 4) (s : BitVec 9) (u : BitVec 2) (st : State) :
    Host.Outcome State Fault Refusal := runTrigger (trigSub u) 0x05 n g s st
/-- MUL (R119). -/
def execMul (n : BitVec 1) (g : BitVec 4) (s : BitVec 9) (u : BitVec 2) (st : State) :
    Host.Outcome State Fault Refusal := runTrigger (trigMul u) 0x06 n g s st
/-- MULH (R119). -/
def execMulh (n : BitVec 1) (g : BitVec 4) (s : BitVec 9) (u : BitVec 2) (st : State) :
    Host.Outcome State Fault Refusal := runTrigger (trigMulh u) 0x07 n g s st
/-- MULHU (R119). -/
def execMulhu (n : BitVec 1) (g : BitVec 4) (s : BitVec 9) (u : BitVec 2) (st : State) :
    Host.Outcome State Fault Refusal := runTrigger (trigMulhu u) 0x08 n g s st
/-- DIV (R120). -/
def execDiv (n : BitVec 1) (g : BitVec 4) (s : BitVec 9) (u : BitVec 2) (st : State) :
    Host.Outcome State Fault Refusal := runTrigger (trigDiv u) 0x09 n g s st
/-- DIVU (R120). -/
def execDivu (n : BitVec 1) (g : BitVec 4) (s : BitVec 9) (u : BitVec 2) (st : State) :
    Host.Outcome State Fault Refusal := runTrigger (trigDivu u) 0x0A n g s st
/-- REM (R120). -/
def execRem (n : BitVec 1) (g : BitVec 4) (s : BitVec 9) (u : BitVec 2) (st : State) :
    Host.Outcome State Fault Refusal := runTrigger (trigRem u) 0x0B n g s st
/-- REMU (R120). -/
def execRemu (n : BitVec 1) (g : BitVec 4) (s : BitVec 9) (u : BitVec 2) (st : State) :
    Host.Outcome State Fault Refusal := runTrigger (trigRemu u) 0x0C n g s st
/-- AND (R119). -/
def execIaAnd (n : BitVec 1) (g : BitVec 4) (s : BitVec 9) (u : BitVec 2) (st : State) :
    Host.Outcome State Fault Refusal := runTrigger (trigIaAnd u) 0x0D n g s st
/-- OR (R119). -/
def execIaOr (n : BitVec 1) (g : BitVec 4) (s : BitVec 9) (u : BitVec 2) (st : State) :
    Host.Outcome State Fault Refusal := runTrigger (trigIaOr u) 0x0E n g s st
/-- XOR (R119). -/
def execIaXor (n : BitVec 1) (g : BitVec 4) (s : BitVec 9) (u : BitVec 2) (st : State) :
    Host.Outcome State Fault Refusal := runTrigger (trigIaXor u) 0x0F n g s st
/-- ANDN (R119). -/
def execAndn (n : BitVec 1) (g : BitVec 4) (s : BitVec 9) (u : BitVec 2) (st : State) :
    Host.Outcome State Fault Refusal := runTrigger (trigAndn u) 0x10 n g s st
/-- SHL (R119). -/
def execShl (n : BitVec 1) (g : BitVec 4) (s : BitVec 9) (u : BitVec 2) (st : State) :
    Host.Outcome State Fault Refusal := runTrigger (trigShl u) 0x11 n g s st
/-- SHR (R119). -/
def execShr (n : BitVec 1) (g : BitVec 4) (s : BitVec 9) (u : BitVec 2) (st : State) :
    Host.Outcome State Fault Refusal := runTrigger (trigShr u) 0x12 n g s st
/-- SAR (R119). -/
def execSar (n : BitVec 1) (g : BitVec 4) (s : BitVec 9) (u : BitVec 2) (st : State) :
    Host.Outcome State Fault Refusal := runTrigger (trigSar u) 0x13 n g s st
/-- ROL (R119). -/
def execRol (n : BitVec 1) (g : BitVec 4) (s : BitVec 9) (u : BitVec 2) (st : State) :
    Host.Outcome State Fault Refusal := runTrigger (trigRol u) 0x14 n g s st
/-- CLZ (R119). -/
def execClz (n : BitVec 1) (g : BitVec 4) (s : BitVec 9) (u : BitVec 2) (st : State) :
    Host.Outcome State Fault Refusal := runTrigger (trigClz u) 0x15 n g s st
/-- CTZ (R119). -/
def execCtz (n : BitVec 1) (g : BitVec 4) (s : BitVec 9) (u : BitVec 2) (st : State) :
    Host.Outcome State Fault Refusal := runTrigger (trigCtz u) 0x16 n g s st
/-- POPC (R119). -/
def execPopc (n : BitVec 1) (g : BitVec 4) (s : BitVec 9) (u : BitVec 2) (st : State) :
    Host.Outcome State Fault Refusal := runTrigger (trigPopc u) 0x17 n g s st
/-- MIN (R119). -/
def execIaMin (n : BitVec 1) (g : BitVec 4) (s : BitVec 9) (u : BitVec 2) (st : State) :
    Host.Outcome State Fault Refusal := runTrigger (trigIaMin u) 0x18 n g s st
/-- MAX (R119). -/
def execIaMax (n : BitVec 1) (g : BitVec 4) (s : BitVec 9) (u : BitVec 2) (st : State) :
    Host.Outcome State Fault Refusal := runTrigger (trigIaMax u) 0x19 n g s st
/-- MINU (R119). -/
def execMinu (n : BitVec 1) (g : BitVec 4) (s : BitVec 9) (u : BitVec 2) (st : State) :
    Host.Outcome State Fault Refusal := runTrigger (trigMinu u) 0x1A n g s st
/-- MAXU (R119). -/
def execMaxu (n : BitVec 1) (g : BitVec 4) (s : BitVec 9) (u : BitVec 2) (st : State) :
    Host.Outcome State Fault Refusal := runTrigger (trigMaxu u) 0x1B n g s st
/-- SEXT (R121). -/
def execSext (n : BitVec 1) (g : BitVec 4) (s : BitVec 9) (u : BitVec 2) (st : State) :
    Host.Outcome State Fault Refusal := runTrigger (trigSext u) 0x1C n g s st
/-- ZEXT (R121). -/
def execZext (n : BitVec 1) (g : BitVec 4) (s : BitVec 9) (u : BitVec 2) (st : State) :
    Host.Outcome State Fault Refusal := runTrigger (trigZext u) 0x1D n g s st
/-- CMPEQ (R119). -/
def execCmpeq (n : BitVec 1) (g : BitVec 4) (s : BitVec 9) (u : BitVec 2) (st : State) :
    Host.Outcome State Fault Refusal := runTrigger (trigCmpeq u) 0x1E n g s st
/-- CMPNE (R119). -/
def execCmpne (n : BitVec 1) (g : BitVec 4) (s : BitVec 9) (u : BitVec 2) (st : State) :
    Host.Outcome State Fault Refusal := runTrigger (trigCmpne u) 0x1F n g s st
/-- CMPLT (R119). -/
def execCmplt (n : BitVec 1) (g : BitVec 4) (s : BitVec 9) (u : BitVec 2) (st : State) :
    Host.Outcome State Fault Refusal := runTrigger (trigCmplt u) 0x20 n g s st
/-- CMPLTU (R119). -/
def execCmpltu (n : BitVec 1) (g : BitVec 4) (s : BitVec 9) (u : BitVec 2) (st : State) :
    Host.Outcome State Fault Refusal := runTrigger (trigCmpltu u) 0x21 n g s st
/-- CMPLE (R119). -/
def execCmple (n : BitVec 1) (g : BitVec 4) (s : BitVec 9) (u : BitVec 2) (st : State) :
    Host.Outcome State Fault Refusal := runTrigger (trigCmple u) 0x22 n g s st
/-- CMPLEU (R119). -/
def execCmpleu (n : BitVec 1) (g : BitVec 4) (s : BitVec 9) (u : BitVec 2) (st : State) :
    Host.Outcome State Fault Refusal := runTrigger (trigCmpleu u) 0x23 n g s st
/-- SEL (R119). -/
def execSel (n : BitVec 1) (g : BitVec 4) (s : BitVec 9) (u : BitVec 2) (st : State) :
    Host.Outcome State Fault Refusal := runTrigger (trigSel u) 0x24 n g s st
/-- BFX (R121). -/
def execBfx (n : BitVec 1) (g : BitVec 4) (s : BitVec 9) (u : BitVec 2) (st : State) :
    Host.Outcome State Fault Refusal := runTrigger (trigBfx u) 0x25 n g s st
/-- BFI (R121). -/
def execBfi (n : BitVec 1) (g : BitVec 4) (s : BitVec 9) (u : BitVec 2) (st : State) :
    Host.Outcome State Fault Refusal := runTrigger (trigBfi u) 0x26 n g s st
/-- MADD (R119). -/
def execMadd (n : BitVec 1) (g : BitVec 4) (s : BitVec 9) (u : BitVec 2) (st : State) :
    Host.Outcome State Fault Refusal := runTrigger (trigMadd u) 0x27 n g s st
/-- LEA (R119). -/
def execLea (n : BitVec 1) (g : BitVec 4) (s : BitVec 9) (u : BitVec 2) (st : State) :
    Host.Outcome State Fault Refusal := runTrigger (trigLea u) 0x28 n g s st
/-- ABS (R119). -/
def execAbs (n : BitVec 1) (g : BitVec 4) (s : BitVec 9) (u : BitVec 2) (st : State) :
    Host.Outcome State Fault Refusal := runTrigger (trigAbs u) 0x29 n g s st

end Sys2Proof.Machine
end

