-- ==== Sys2Proof/Machine/Num.lean ====
section
/-! DEFINITION. Exact arithmetic and the one rounding (spec/02 R38, R40 to R45, R49 to R51; spec/07 R148, R149,
R164, R165): values are exact until `roundTo` delivers them in a format with its flags. -/

namespace Sys2Proof.Machine

/-- VSTAT flags (R19), as the low byte of VSTAT. -/
abbrev Flags8 := BitVec 8

/-- Invalid operation. -/
def fNV : Flags8 := 0x01
/-- Division by zero. -/
def fDZ : Flags8 := 0x02
/-- Overflow. -/
def fOF : Flags8 := 0x04
/-- Underflow. -/
def fUF : Flags8 := 0x08
/-- Inexact. -/
def fNX : Flags8 := 0x10
/-- A malformed X4 block. -/
def fXFMT : Flags8 := 0x20
/-- A sparse-skipped product met an infinity or NaN. -/
def fSKIP : Flags8 := 0x40
/-- A result saturated. -/
def fSAT : Flags8 := 0x80

/-- A flag when a condition holds. -/
def fif (c : Bool) (f : Flags8) : Flags8 := if c then f else 0

/-- An exact result: a number, or a positive magnitude that is no dyadic and lies strictly between `m·2^e` and
`(m+1)·2^e`, with its sign. -/
inductive Exact where
  | num (n : Num)
  | between (neg : Bool) (m : Nat) (e : Int)
  deriving DecidableEq, Repr

/-- The number of binary digits of `n`. -/
def bitLen (n : Nat) : Nat := if n = 0 then 0 else Nat.log2 n + 1

/-- `m · 2^k`, rounded down when `k` is negative. -/
def shiftBy (m : Nat) (k : Int) : Nat := if 0 ≤ k then m <<< k.toNat else m >>> (-k).toNat

/-- The remainder that `shiftBy` drops. -/
def shiftRem (m : Nat) (k : Int) : Nat := if 0 ≤ k then 0 else m % 2 ^ (-k).toNat

/-- The largest natural number whose square is at most `n`, found bit by bit. -/
def isqrtGo (n : Nat) : Nat → Nat → Nat
  | 0, r => r
  | b + 1, r =>
    let r' := r + 2 ^ b
    isqrtGo n b (if r' * r' ≤ n then r' else r)

/-- The integer square root. -/
def isqrt (n : Nat) : Nat := isqrtGo n (bitLen n / 2 + 1) 0

/-! ### Exact operations on numbers -/

/-- The signed integer `±m`. -/
def signed (neg : Bool) (m : Nat) : Int := if neg then -(m : Int) else (m : Int)

/-- A NaN that is signalling sets NV where it is consumed (R41). -/
def sigFlag : Num → Flags8
  | .nan true => fNV
  | _ => 0

/-- Whether a number is a NaN. -/
def isNan : Num → Bool
  | .nan _ => true
  | _ => false

/-- Whether a number is infinite. -/
def isInf : Num → Bool
  | .inf _ => true
  | _ => false

/-- Whether a number is a zero. -/
def isZero : Num → Bool
  | .fin _ 0 _ => true
  | _ => false

/-- The sign of a number (R150: the sign bit). -/
def signOf : Num → Bool
  | .nan _ => false
  | .inf s => s
  | .fin s _ _ => s

/-- A number with its sign inverted; a NaN stays. -/
def negN : Num → Num
  | .nan q => .nan q
  | .inf s => .inf (!s)
  | .fin s m e => .fin (!s) m e

/-- A number with its sign cleared. -/
def absN : Num → Num
  | .nan q => .nan q
  | .inf _ => .inf false
  | .fin _ m e => .fin false m e

/-- An integer as a number. -/
def ofInt (x : Int) : Num := .fin (decide (x < 0)) x.natAbs 0

/-- `x · 2^e` for an integer `x`; a zero takes the sign given. -/
def ofScaled (x : Int) (e : Int) (zneg : Bool) : Num :=
  if x = 0 then .fin zneg 0 0 else .fin (decide (x < 0)) x.natAbs e

/-- The exact product (R148): quiet NaN for a NaN operand, NV for a signalling one and for 0 · infinity. -/
def mulN (a b : Num) : Num × Flags8 :=
  match a, b with
  | .nan _, _ => (.nan false, sigFlag a ||| sigFlag b)
  | _, .nan _ => (.nan false, sigFlag b)
  | .inf s, .inf t => (.inf (s != t), 0)
  | .inf s, .fin t m _ => if m = 0 then (.nan false, fNV) else (.inf (s != t), 0)
  | .fin s m _, .inf t => if m = 0 then (.nan false, fNV) else (.inf (s != t), 0)
  | .fin s m e, .fin t m' e' => (.fin (s != t) (m * m') (e + e'), 0)

/-- The exact sum. An exact zero sum of operands of opposite signs is +0, or −0 when `down` (R50). -/
def addN (down : Bool) (a b : Num) : Num × Flags8 :=
  match a, b with
  | .nan _, _ => (.nan false, sigFlag a ||| sigFlag b)
  | _, .nan _ => (.nan false, sigFlag b)
  | .inf s, .inf t => if s = t then (.inf s, 0) else (.nan false, fNV)
  | .inf s, .fin _ _ _ => (.inf s, 0)
  | .fin _ _ _, .inf t => (.inf t, 0)
  | .fin s m e, .fin t m' e' =>
    let lo := min e e'
    let x := signed s (m <<< (e - lo).toNat) + signed t (m' <<< (e' - lo).toNat)
    (ofScaled x lo (if s = t then s else down), 0)

/-- `a · b + c` exactly before any rounding (R149): a product of 0 and infinity is invalid whatever `c` is. -/
def fmaN (down : Bool) (a b c : Num) : Num × Flags8 :=
  let sig := sigFlag a ||| sigFlag b ||| sigFlag c
  let (p, fp) := mulN a b
  match p with
  | .nan _ => (.nan false, fp ||| sig)
  | _ =>
    let (r, fr) := addN down p c
    (r, fr ||| sig)

/-- Comparing two numbers that are no NaN: `a < b`. Zeros are equal. -/
def ltN (a b : Num) : Bool :=
  match a, b with
  | .nan _, _ => false
  | _, .nan _ => false
  | .inf s, .inf t => s && !t
  | .inf s, .fin _ _ _ => s
  | .fin _ _ _, .inf t => !t
  | .fin s m e, .fin t m' e' =>
    let lo := min e e'
    decide (signed s (m <<< (e - lo).toNat) < signed t (m' <<< (e' - lo).toNat))

/-- Equality of value; zeros are equal, a NaN equals nothing. -/
def eqN (a b : Num) : Bool := !isNan a && !isNan b && !ltN a b && !ltN b a

/-- The quotient of two finite nonzero magnitudes, exact or enclosed to more than 128 bits. -/
def divMag (neg : Bool) (m : Nat) (e : Int) (m' : Nat) (e' : Int) : Exact :=
  let s := 160 + bitLen m'
  let q := (m <<< s) / m'
  let x := e - e' - (s : Int)
  if (m <<< s) % m' = 0 then .num (.fin neg q x) else .between neg q x

/-- The square root of `num/den · 2^e`, exact or enclosed to more than 128 bits. -/
def sqrtRatio (num den : Nat) (e : Int) : Exact :=
  let odd := e % 2 = 1
  let num := if odd then num * 2 else num
  let e := if odd then e - 1 else e
  let s := 160 + bitLen den
  let r := isqrt ((num <<< (2 * s)) / den)
  let x := e / 2 - (s : Int)
  if r * r * den = num <<< (2 * s) then .num (.fin false r x) else .between false r x

/-- `a / b` (R164, R252): DZ for a finite nonzero number by zero, NV for 0/0, infinity/infinity and a signalling NaN. -/
def divN (a b : Num) : Exact × Flags8 :=
  match a, b with
  | .nan _, _ => (.num (.nan false), sigFlag a ||| sigFlag b)
  | _, .nan _ => (.num (.nan false), sigFlag b)
  | .inf _, .inf _ => (.num (.nan false), fNV)
  | .inf s, .fin t _ _ => (.num (.inf (s != t)), 0)
  | .fin s _ _, .inf t => (.num (.fin (s != t) 0 0), 0)
  | .fin s m e, .fin t m' e' =>
    if m' = 0 then (if m = 0 then (.num (.nan false), fNV) else (.num (.inf (s != t)), fDZ))
    else if m = 0 then (.num (.fin (s != t) 0 0), 0)
    else (divMag (s != t) m e m' e', 0)

/-- `√a` (R165): −0 stays, a negative number is invalid. -/
def sqrtN (a : Num) : Exact × Flags8 :=
  match a with
  | .nan _ => (.num (.nan false), sigFlag a)
  | .inf true => (.num (.nan false), fNV)
  | .inf false => (.num (.inf false), 0)
  | .fin s m e =>
    if m = 0 then (.num (.fin s 0 0), 0)
    else if s then (.num (.nan false), fNV)
    else (sqrtRatio m 1 e, 0)

/-- `1/√a` (R165): a zero of either sign gives an infinity of its sign, with DZ. -/
def rsqN (a : Num) : Exact × Flags8 :=
  match a with
  | .nan _ => (.num (.nan false), sigFlag a)
  | .inf true => (.num (.nan false), fNV)
  | .inf false => (.num (.fin false 0 0), 0)
  | .fin s m e =>
    if m = 0 then (.num (.inf s), fDZ)
    else if s then (.num (.nan false), fNV)
    else (sqrtRatio 1 m (-e), 0)

/-- `1/a` (R165). -/
def rcpN (a : Num) : Exact × Flags8 := divN (.fin false 1 0) a

/-! ### Rounding -/

/-- The magnitude of an exact finite value as `(neg, m, e, sticky)`: the value is `m·2^e`, and above it by less than
`2^e` when sticky. -/
def magOf : Exact → Bool × Nat × Int × Bool
  | .num (.fin s m e) => (s, m, e, false)
  | .between s m e => (s, m, e, true)
  | .num n => (signOf n, 0, 0, false)

/-- Whether the part that rounding drops carries the truncated magnitude one step up: `i` the truncated integer,
`r` of `2^k` the remainder, `sticky` for more below it, `rb` the 16 random bits (R49, R51). -/
def roundUp (mode rb : Nat) (neg : Bool) (i r k : Nat) (sticky : Bool) : Bool :=
  let inexact := r != 0 || sticky
  match mode with
  | 0 => if k = 0 then false
         else decide (2 ^ (k - 1) < r) || (r == 2 ^ (k - 1) && (sticky || i % 2 == 1))
  | 1 => false
  | 2 => neg && inexact
  | 3 => !neg && inexact
  | _ => inexact && decide (2 ^ 16 ≤ rb + (r <<< 16) >>> k)

/-- A magnitude rounded to a multiple of `2^q`: the integer multiple, whether it is inexact, and the truncated
multiple. -/
def roundAt (mode rb : Nat) (neg : Bool) (m : Nat) (e : Int) (sticky : Bool) (q : Int) : Nat × Bool × Nat :=
  let i := shiftBy m (e - q)
  let k := (q - e).toNat
  let r := shiftRem m (e - q)
  let up := roundUp mode rb neg i r k sticky
  (if up then i + 1 else i, r != 0 || sticky, i)

/-- The exponent of the leading bit of a nonzero magnitude. -/
def leadExp (m : Nat) (e : Int) : Int := e + (bitLen m : Int) - 1

/-- A magnitude rounded to `p` significant bits with smallest normal exponent `emin` (R50): the integer significand and
its exponent, inexact, tiny after rounding, and the truncated significand. -/
structure Rounded where
  i : Nat
  q : Int
  inexact : Bool
  tiny : Bool
  trunc : Nat
  deriving DecidableEq, Repr

/-- Rounding to a binary float format's precision (R49, R50, R51). -/
def roundFloat (p : Nat) (emin : Int) (mode rb : Nat) (neg : Bool) (m : Nat) (e : Int) (sticky : Bool) : Rounded :=
  let lead := leadExp m e
  let qn := lead - ((p : Int) - 1)
  let qmin := emin - ((p : Int) - 1)
  let q := max qn qmin
  let (i, inexact, tr) := roundAt mode rb neg m e sticky q
  let (iu, _, _) := roundAt mode rb neg m e sticky qn
  let tiny := decide (lead < emin) && iu != 0 && !(lead == emin - 1 && iu == 2 ^ p)
  { i := i, q := q, inexact := inexact, tiny := tiny, trunc := tr }

/-- A binary float format: precision, exponent bits, bias, whether it has infinities (E4M3 has none, R42). -/
structure FloatFmt where
  p : Nat
  ebits : Nat
  bias : Int
  hasInf : Bool
  deriving DecidableEq, Repr

/-- binary32 (R40). -/
def fp32 : FloatFmt := { p := 24, ebits := 8, bias := 127, hasInf := true }
/-- binary16 (R40). -/
def fp16 : FloatFmt := { p := 11, ebits := 5, bias := 15, hasInf := true }
/-- BF16 (R40). -/
def bf16 : FloatFmt := { p := 8, ebits := 8, bias := 127, hasInf := true }
/-- E4M3 (R42). -/
def e4m3 : FloatFmt := { p := 4, ebits := 4, bias := 7, hasInf := false }
/-- E5M2 (R42). -/
def e5m2 : FloatFmt := { p := 3, ebits := 5, bias := 15, hasInf := true }
/-- A36 (R36). -/
def a36 : FloatFmt := { p := 27, ebits := 9, bias := 255, hasInf := true }

namespace FloatFmt

/-- The exponent of the smallest normal value. -/
def emin (f : FloatFmt) : Int := 1 - f.bias

/-- The width of a pattern. -/
def width (f : FloatFmt) : Nat := f.p + f.ebits

/-- The largest finite magnitude as a significand and an exponent. -/
def maxSig (f : FloatFmt) : Nat := if f.hasInf then 2 ^ f.p - 1 else 2 ^ f.p - 2

/-- The exponent of the largest finite magnitude's last place. -/
def maxQ (f : FloatFmt) : Int :=
  (if f.hasInf then (2 ^ f.ebits - 2 : Nat) else (2 ^ f.ebits - 1 : Nat)) - f.bias - ((f.p : Int) - 1)

/-- Whether `i · 2^q` exceeds the largest finite magnitude. -/
def beyond (f : FloatFmt) (i : Nat) (q : Int) : Bool :=
  if q ≤ f.maxQ then decide (f.maxSig < shiftBy i (q - f.maxQ)) ||
      (shiftBy i (q - f.maxQ) == f.maxSig && shiftRem i (q - f.maxQ) != 0)
  else i != 0

/-- The pattern of a sign, an exponent field and a fraction. -/
def pat (f : FloatFmt) (neg : Bool) (ex fr : Nat) : Nat :=
  (if neg then 2 ^ (f.p - 1 + f.ebits) else 0) + ex * 2 ^ (f.p - 1) + fr

/-- The canonical NaN (R36, R40, R42). -/
def nanPat (f : FloatFmt) : Nat :=
  if f.hasInf then f.pat false (2 ^ f.ebits - 1) (2 ^ (f.p - 2)) else f.pat false (2 ^ f.ebits - 1) (2 ^ (f.p - 1) - 1)

/-- An infinity's pattern. -/
def infPat (f : FloatFmt) (neg : Bool) : Nat := f.pat neg (2 ^ f.ebits - 1) 0

/-- The largest finite pattern. -/
def maxPat (f : FloatFmt) (neg : Bool) : Nat :=
  if f.hasInf then f.pat neg (2 ^ f.ebits - 2) (2 ^ (f.p - 1) - 1)
  else f.pat neg (2 ^ f.ebits - 1) (2 ^ (f.p - 1) - 2)

/-- The pattern of the rounded magnitude `i · 2^q`, which the format holds. -/
def finPat (f : FloatFmt) (neg : Bool) (i : Nat) (q : Int) : Nat :=
  let (i, q) := if i = 2 ^ f.p then (2 ^ (f.p - 1), q + 1) else (i, q)
  if i < 2 ^ (f.p - 1) then f.pat neg 0 i
  else f.pat neg (q + ((f.p : Int) - 1) + f.bias).toNat (i - 2 ^ (f.p - 1))

/-- The number a pattern stands for (R36, R40, R42). -/
def toNum (f : FloatFmt) (x : Nat) : Num :=
  let fr := x % 2 ^ (f.p - 1)
  let ex := (x / 2 ^ (f.p - 1)) % 2 ^ f.ebits
  let neg := x.testBit (f.p - 1 + f.ebits)
  if f.hasInf && ex == 2 ^ f.ebits - 1 then
    if fr = 0 then .inf neg else .nan (!fr.testBit (f.p - 2))
  else if !f.hasInf && ex == 2 ^ f.ebits - 1 && fr == 2 ^ (f.p - 1) - 1 then .nan false
  else if ex = 0 then .fin neg fr (f.emin - ((f.p : Int) - 1))
  else .fin neg (fr + 2 ^ (f.p - 1)) ((ex : Int) - f.bias - ((f.p : Int) - 1))

end FloatFmt

/-- The flags of an inexact or tiny rounding without overflow (R50). -/
def nxFlags (r : Rounded) : Flags8 := fif r.inexact fNX ||| fif (r.tiny && r.inexact) fUF

/-- Rounding an exact value to a float format (R43, R50, R51): `sat` is the saturate bit, which E4M3 always has. -/
def roundFmt (f : FloatFmt) (sat : Bool) (mode rb : Nat) (x : Exact) : Nat × Flags8 :=
  let sat := sat || !f.hasInf
  match x with
  | .num (.nan _) => (f.nanPat, 0)
  | .num (.inf s) => if sat then (f.maxPat s, fSAT) else (f.infPat s, 0)
  | x =>
    let (neg, m, e, sticky) := magOf x
    if m = 0 && !sticky then (f.pat neg 0 0, 0)
    else
      let r := roundFloat f.p f.emin mode rb neg m e sticky
      let ovf := if mode ≥ 4 then f.beyond r.trunc r.q || (r.inexact && f.beyond (r.trunc + 1) r.q && f.beyond r.i r.q)
                     || (r.inexact && r.q ≥ f.maxQ && shiftBy r.trunc (r.q - f.maxQ) == f.maxSig)
                  else f.beyond r.i r.q
      if ovf then
        if sat then (f.maxPat neg, fSAT ||| fNX)
        else
          let toMax := mode == 1 || (mode == 2 && !neg) || (mode == 3 && neg)
          (if toMax then f.maxPat neg else f.infPat neg, fOF ||| fNX)
      else (f.finPat neg r.i r.q, nxFlags r)

/-- Rounding an exact value to an integer (R34, R45, R51): the integer and whether it is inexact. -/
def roundInt (mode rb : Nat) (x : Exact) : Int × Bool :=
  let (neg, m, e, sticky) := magOf x
  let (i, inexact, _) := roundAt mode rb neg m e sticky 0
  (signed neg i, inexact)

/-- Whether a magnitude lies above the most positive integer of `w` bits, or the most negative one's, though its rounded result may not:
under RS that is beyond the range already (R43, R51). -/
def intBeyond (w mode : Nat) (x : Exact) : Bool :=
  let (neg, m, e, sticky) := magOf x
  let (_, inexact, i) := roundAt mode 0 neg m e sticky 0
  decide (4 ≤ mode) && inexact && i == (if neg then 2 ^ (w - 1) else 2 ^ (w - 1) - 1)

/-- Rounding to a two's complement integer of `w` bits (R43, R45, R51). -/
def roundToInt (w mode rb : Nat) (x : Exact) : Nat × Flags8 :=
  let hi : Int := 2 ^ (w - 1) - 1
  let lo : Int := -(2 ^ (w - 1))
  match x with
  | .num (.nan _) => (0, fNV)
  | .num (.inf s) => (wrap w (if s then lo else hi), fNV ||| fSAT)
  | x =>
    let (i, inexact) := roundInt mode rb x
    if hi < i then (wrap w hi, fSAT ||| fNX)
    else if i < lo then (wrap w lo, fSAT ||| fNX)
    else (wrap w i, fif inexact fNX ||| fif (intBeyond w mode x) fSAT)

/-- Scaling an exact value by a power of two. -/
def scaleE (k : Int) : Exact → Exact
  | .num (.fin s m e) => .num (.fin s m (e + k))
  | .num n => .num n
  | .between s m e => .between s m (e + k)

/-- Conversion to the integer of an S48 element with binary point `f` (R34). -/
def roundS48 (f mode rb : Nat) (x : Exact) : Int × Flags8 :=
  let hi : Int := 2 ^ 47 - 1
  let lo : Int := -(2 ^ 47)
  match x with
  | .num (.nan _) => (0, fNV)
  | .num (.inf s) => (if s then lo else hi, fNV ||| fSAT)
  | x =>
    let (i, inexact) := roundInt mode rb (scaleE f x)
    if hi < i then (hi, fSAT ||| fNX) else if i < lo then (lo, fSAT ||| fNX) else (i, fif inexact fNX)

/-- Conversion to E8M0 (R44): the sign is dropped, no NX. -/
def roundE8M0 (mode : Nat) (x : Exact) : Nat × Flags8 :=
  match x with
  | .num (.nan _) => (0xFF, fNV)
  | .num (.inf _) => (0xFF, fNV)
  | x =>
    let (_, m, e, sticky) := magOf x
    if m = 0 then (0, fUF)
    else
      let k := leadExp m e
      let one := m == 2 ^ (bitLen m - 1) && !sticky
      let half := decide (3 * 2 ^ bitLen m ≤ 4 * m)
      let ex := match mode with
        | 1 => k
        | 2 => k
        | 3 => if one then k else k + 1
        | _ => if half then k + 1 else k
      if ex < -127 then (0, fUF) else if 127 < ex then (0xFE, fSAT) else ((ex + 127).toNat, 0)

end Sys2Proof.Machine
end

