-- ==== Sys2Proof/Machine/Formats.lean ====
section
/-! DEFINITION. Number formats by code (R32, R40 to R46), conversion into them (R43 to R45, R50), the X4 block (R46 to
R48) and the counter-based generator (R169, R172). -/

namespace Sys2Proof.Machine

/-! ### Format codes (R32) -/

/-- The value of an element's bits in a format: floats, E8M0, two's complement integers; higher bits are ignored
(R156). -/
def numOf (fmt x : Nat) : Num :=
  match fmt with
  | 0x0 => fp32.toNum (x % 2 ^ 32)
  | 0x1 => fp16.toNum (x % 2 ^ 16)
  | 0x2 => bf16.toNum (x % 2 ^ 16)
  | 0x3 => e4m3.toNum (x % 2 ^ 8)
  | 0x4 => e5m2.toNum (x % 2 ^ 8)
  | 0x5 => if x % 256 = 0xFF then .nan false else .fin false 1 ((x % 256 : Nat) - 127)
  | 0x6 => ofInt (sint 8 x)
  | 0x7 => ofInt (sint 4 x)
  | 0xB => ofInt (sint 32 x)
  | _ => .fin false 0 0

/-- The bits of an exact value rounded into a format, with its flags (R43 to R45, R50, R51). -/
def encodeNum (fmt : Nat) (sat : Bool) (mode rb : Nat) (x : Exact) : Nat × Flags8 :=
  match fmt with
  | 0x0 => roundFmt fp32 false mode rb x
  | 0x1 => roundFmt fp16 false mode rb x
  | 0x2 => roundFmt bf16 false mode rb x
  | 0x3 => roundFmt e4m3 true mode rb x
  | 0x4 => roundFmt e5m2 sat mode rb x
  | 0x5 => roundE8M0 mode x
  | 0x6 => roundToInt 8 mode rb x
  | 0x7 => roundToInt 4 mode rb x
  | 0xB => roundToInt 32 mode rb x
  | _ => (0, 0)

/-- Bits of an element; 0 for X4 and reserved codes. -/
def fmtBits (fmt : Nat) : Nat :=
  match fmt with
  | 0x0 => 32
  | 0x1 => 16
  | 0x2 => 16
  | 0x3 => 8
  | 0x4 => 8
  | 0x5 => 8
  | 0x6 => 8
  | 0x7 => 4
  | 0x9 => 48
  | 0xA => 36
  | 0xB => 32
  | _ => 0

/-- Formats that are floats. -/
def fmtFloat (fmt : Nat) : Bool := fmt < 5

/-- Formats that are integers. -/
def fmtInt (fmt : Nat) : Bool := fmt == 6 || fmt == 7 || fmt == 0xB

/-! ### X4 (R46 to R48) -/

/-- The nibble code of element `i` of a block. -/
def x4Code (b : List Byte) (i : Nat) : Nat :=
  let x := (b.getD (i / 2) 0).toNat
  if i % 2 = 0 then x % 16 else x / 16

/-- A code's scaled value. -/
def x4Val (sc : Int) (code : Nat) : Num :=
  let x := sint 4 code
  .fin (decide (x < 0)) x.natAbs sc

/-- The scale of a value by a power of two. -/
def scaleNum (k : Int) : Num → Num
  | .fin s m e => .fin s m (e + k)
  | x => x

/-- One pair of slots of a block (R47): the values so far, the outliers met, the flags. -/
def x4Pair (b : List Byte) (sc : Int) (acc : List Num × Nat × Flags8) (j : Nat) : List Num × Nat × Flags8 :=
  let (vals, k, fl) := acc
  let lo := x4Code b (2 * j)
  let hi := x4Code b (2 * j + 1)
  let zero : Num := .fin false 0 0
  if lo = 8 ∧ hi = 8 then (vals ++ [zero, zero], k, fl ||| fXFMT)
  else if lo = 8 ∨ hi = 8 then
    let partner := if lo = 8 then hi else lo
    let b17 := (b.getD 17 0).toNat
    let out : Num := if 2 ≤ k then .nan false
      else scaleNum sc (e4m3.toNum (partner * 16 + (if k = 0 then b17 % 16 else b17 / 16)))
    (vals ++ (if lo = 8 then [out, zero] else [zero, out]), k + 1, fl ||| fif (decide (2 ≤ k)) fXFMT)
  else (vals ++ [x4Val sc lo, x4Val sc hi], k, fl)

/-- The 32 values of a block of 18 bytes and its XFMT flag (R47). -/
def x4Decode (b : List Byte) : List Num × Flags8 :=
  let sb := (b.getD 16 0).toNat
  let (vals, _, fl) := (List.range 16).foldl (x4Pair b (sb - 127)) ([], 0, 0)
  (if sb = 0xFF then vals.map fun _ => .nan false else vals, fl)

/-- A candidate for an outlier of an encode (R48). -/
structure X4Cand where
  slot : Nat
  v : Num
  q : Int
  deriving DecidableEq, Repr

/-- Whether candidate `a` comes before `b`: NaN first, then larger magnitude, then lower slot (R48). -/
def x4Before (a b : X4Cand) : Bool :=
  match isNan a.v, isNan b.v with
  | true, true => decide (a.slot < b.slot)
  | true, false => true
  | false, true => false
  | false, false =>
    if ltN (absN b.v) (absN a.v) then true else if ltN (absN a.v) (absN b.v) then false else decide (a.slot < b.slot)

/-- Insertion by that order. -/
def x4Insert (a : X4Cand) : List X4Cand → List X4Cand
  | [] => [a]
  | b :: l => if x4Before a b then a :: b :: l else b :: x4Insert a l

/-- The integer of an input over the scale: past the range stands for an infinity. -/
def x4Round (mode rb : Nat) (x : Num) : Int × Bool :=
  match x with
  | .nan _ => (0, false)
  | .inf s => (if s then -1000 else 1000, false)
  | x => roundInt mode rb (.num x)

/-- Encoding 32 exact inputs under scale byte `sb` (R48): the 18 bytes and the flags. `rb i` are slot `i`'s random
bits. -/
def x4Encode (vs : List Num) (sb mode : Nat) (rb : Nat → Nat) : List Byte × Flags8 :=
  let sc : Int := (sb : Int) - 127
  let scaled := vs.map (scaleNum (-sc))
  let qs := (List.range 32).map fun i => x4Round mode (rb i) (scaled.getD i (.fin false 0 0))
  let cands := ((List.range 32).filterMap fun i =>
    let v := vs.getD i (.fin false 0 0)
    let q := (qs.getD i (0, false)).1
    if isNan v ∨ 7 < q.natAbs then some { slot := i, v := v, q := q : X4Cand } else none).foldr x4Insert []
  let outl := (cands.foldl (fun (o : List Nat) x =>
    if o.length < 2 ∧ !o.contains (x.slot ^^^ 1) then o ++ [x.slot] else o) [])
  let first := outl.foldl min 32
  let parts := (List.range 32).map fun i =>
    let v := vs.getD i (.fin false 0 0)
    let (q, inex) := qs.getD i (0, false)
    let enc := fun j => roundFmt e4m3 true mode (rb j) (.num (scaled.getD j (.fin false 0 0)))
    let nv := fif (isNan v) fNV
    if outl.contains i then
      let (x, f) := enc i
      ((8, x % 16), nv ||| f)
    else if outl.contains (i ^^^ 1) then
      (((enc (i ^^^ 1)).1 / 16, 0), nv ||| fif (!isZero v && !isNan v) fNX)
    else if isNan v then ((0, 0), fNV)
    else if 7 < q.natAbs then ((if signOf v then 9 else 7, 0), fSAT ||| fNX)
    else ((wrap 4 q, 0), fif inex fNX)
  let code := fun i => ((parts.getD i ((0, 0), 0)).1).1
  let low := fun i => ((parts.getD i ((0, 0), 0)).1).2
  let second := ((outl.filter (· ≠ first)).head?).getD 32
  let b17 := (if first < 32 then low first else 0) + 16 * (if second < 32 then low second else 0)
  (((List.range 16).map fun j => BitVec.ofNat 8 (code (2 * j) + 16 * code (2 * j + 1))) ++
    [BitVec.ofNat 8 sb, BitVec.ofNat 8 b17], parts.foldl (fun f p => f ||| p.2) 0)

/-! ### The generator (R169) -/

/-- The multiplier of mix. -/
def mixMul : Nat := 0xA5C39E1B74D26F8B

/-- mix. -/
def mix (z : Nat) : Nat :=
  let z := z ^^^ (z >>> 32)
  let z := z * mixMul % 2 ^ 64
  let z := z ^^^ (z >>> 29)
  let z := z * mixMul % 2 ^ 64
  z ^^^ (z >>> 32)

/-- G: 32 bits from seed, step, tag and coordinate. -/
def genG (seed step tag coord : Nat) : Nat :=
  let h := mix (seed ^^^ (step * 0x9E3779B97F4A7C15 % 2 ^ 64))
  let h := mix (h ^^^ (tag * 0x6A09E667F3BCC909 % 2 ^ 64))
  let z := mix (h ^^^ (coord * 0xBB67AE8584CAA73B % 2 ^ 64))
  bits z 63 32

/-- The key of a drawing operation (R147). -/
structure RngKey where
  seed : Nat
  step : Nat
  tag : Nat
  base : Nat
  deriving DecidableEq, Repr

/-- The 16 random bits at a coordinate offset (R147, R172). -/
def rbOf (k : RngKey) (i : Nat) : Nat := bits (genG k.seed k.step k.tag ((k.base + i) % 2 ^ 48)) 31 16

end Sys2Proof.Machine
end

