-- ==== Sys2Proof/Machine/Shape.lean ====
section
/-! DEFINITION. Shape records (R224, R225), the addresses of couriers (R220), and what a courier command has still to
read of its source (R227, R337). -/

namespace Sys2Proof.Machine

/-! ### Addresses (R220) -/

/-- Whether an address has one of the two forms. -/
def formOk (x : Nat) : Bool := if x.testBit 63 then bits x 62 22 == 0 else bits x 62 52 == 0

/-- An address moved by a signed number of bytes; its form is kept (R224, R236). -/
def formAdd (x : Nat) (n : Int) : Nat := (x / 2 ^ 63) * 2 ^ 63 + wrap 63 (((x % 2 ^ 63 : Nat) : Int) + n)

/-- The translation of an address of command `m` of core `c`: a local offset below 3 MiB lies in the core's scratchpad
(log 15), a virtual address is translated under the state that the command issued in. -/
def cpXlate (st : State) (c : Nat) (m : CpCmd) (x : Nat) (write : Bool) : XRes :=
  if x.testBit 63 then
    if x % 2 ^ 63 < scratchBytes then .ok (windowBase c + x % 2 ^ 63) 0 (tmodePadded (coreOf st c)) else .fault 3
  else xlate st c (courierTlb st c (m.ctl.toNat % 8)) m.lvl m.asid m.keyid x write

/-! ### Shape records (R224) -/

/-- A shape: base, format, view, and the extents and strides of its dimensions; an INT4 shape counts pairs of nibbles,
its elements of one byte (R224). -/
structure Shape where
  base : Nat
  fmt : Nat
  view : Bool
  dims : List Nat
  strs : List Int
  deriving DecidableEq, Repr

/-- DIMk. -/
def recDim (b : List Byte) (k : Nat) : Nat := field b (16 + 3 * k) 3
/-- STRk. -/
def recStr (b : List Byte) (k : Nat) : Int := sint 40 (field b (34 + 5 * k) 5)
/-- RANK. -/
def recRank (b : List Byte) : Nat := bits (field b 9 1) 2 0
/-- FMT. -/
def recFmt (b : List Byte) : Nat := bits (field b 8 1) 3 0

/-- The alignment of an element (R225). -/
def fmtAlign (fmt : Nat) : Nat :=
  match fmt with
  | 0x0 => 4
  | 0xB => 4
  | 0x1 => 2
  | 0x2 => 2
  | 0x8 => 2
  | 0x9 => 2
  | _ => 1

/-- The bytes of an element; of a pair for INT4 (R224). -/
def elBytes (fmt : Nat) : Nat :=
  match fmt with
  | 0x8 => 18
  | 0x7 => 1
  | f => fmtBits f / 8

/-- The format codes that a shape record may name (R225). -/
def recFmtOk (f : Nat) : Bool := decide (f < 12) && f != 0xA

/-- The element count of a record (R224, R225). -/
def recCount (b : List Byte) : Nat := ((List.range (recRank b)).map (recDim b)).foldl (· * ·) 1

/-- The conditions under which a record is rejected (R225). -/
def recBad (b : List Byte) : Bool :=
  let r := recRank b
  let f := recFmt b
  let al := fmtAlign f
  bits (field b 8 1) 7 4 != 0 || bits (field b 9 1) 7 3 != 0 || bits (field b 10 1) 7 1 != 0 || field b 11 5 != 0 ||
    !formOk (field b 0 8) || r == 0 || r == 7 || !recFmtOk f ||
    ((List.range 6).any fun k => if k < r then recDim b k == 0 else recDim b k != 0 || recStr b k != 0) ||
    decide (2 ^ 32 < recCount b) || (f == 7 && (recStr b 0 != 0 || recDim b 0 % 2 != 0)) ||
    field b 0 8 % al != 0 || (List.range r).any fun k => recStr b k % al != 0

/-- The shape of a record. -/
def shapeOf (b : List Byte) : Shape :=
  let r := recRank b
  let f := recFmt b
  let dims := (List.range r).map (recDim b)
  let strs := (List.range r).map (recStr b)
  { base := field b 0 8, fmt := f, view := (field b 10 1).testBit 0
    dims := if f = 7 then dims.set 0 (dims.headD 0 / 2) else dims
    strs := if f = 7 then strs.set 0 1 else strs }

/-- The number of elements. -/
def shapeCount (s : Shape) : Nat := s.dims.foldl (· * ·) 1

/-- The byte displacement of the element of sequence number `e`; the first index runs fastest (R224). -/
def dispOf : List Nat → List Int → Nat → Int
  | d :: ds, x :: xs, e => (e % d : Nat) * x + dispOf ds xs (e / d)
  | _, _, _ => 0

/-- The address of element `e`. -/
def shapeAddr (s : Shape) (e : Nat) : Nat := formAdd s.base (dispOf s.dims s.strs e)

/-! ### Operand images (R175, R176) -/

/-- Passes of an operand format; 0 for a code that names none. -/
def imgPasses (f : Nat) : Nat :=
  match f with
  | 0x0 => 6
  | 0x1 => 3
  | 0x2 => 3
  | 0x3 => 2
  | 0x4 => 2
  | 0x6 => 2
  | 0x7 => 1
  | 0x8 => 1
  | _ => 0

/-- Z of a format. -/
def imgZ (f : Nat) : Int :=
  match f with
  | 0x0 => 150
  | 0x1 => 25
  | 0x2 => 134
  | 0x3 => 10
  | 0x4 => 17
  | 0x8 => 10
  | _ => 0

/-- V of a format: the bytes of an image. -/
def imgBytes (f : Nat) : Nat :=
  match f with
  | 0x0 => 576
  | 0x1 => 384
  | 0x2 => 384
  | 0x3 => 320
  | 0x4 => 320
  | 0x6 => 192
  | 0x7 => 128
  | _ => 256

/-! ### The units of a command

Every command is a sequence of units, each read from one place of the source: an element, or a byte of the Sorter's
copy. -/

/-- The Sorter's nest in an auxiliary entry (R236): block length, counts and strides of levels. -/
def sortLen (aux : List Byte) : Nat := bits (field aux 8 4) 15 0 + 1
/-- Levels in use. -/
def sortNlev (aux : List Byte) : Nat := bits (field aux 8 4) 18 16
/-- Count of level `l`. -/
def sortCnt (aux : List Byte) (l : Nat) : Nat := if l < sortNlev aux then field aux (16 + 13 * l) 3 + 1 else 1
/-- Source stride of a level. -/
def sortS (aux : List Byte) (l : Nat) : Int := sint 40 (field aux (19 + 13 * l) 5)
/-- Destination stride of a level. -/
def sortD (aux : List Byte) (l : Nat) : Int := sint 40 (field aux (24 + 13 * l) 5)

/-- The six counts. -/
def sortDims (aux : List Byte) : List Nat := (List.range 6).map (sortCnt aux)

/-- How many units a command has. -/
def srcUnits (m : CpCmd) : Nat :=
  if m.op = 0x07 then (sortDims m.aux).foldl (· * ·) 1 * sortLen m.aux else shapeCount (shapeOf m.aux)

/-- The address of unit `u` of the source. -/
def srcAddr (m : CpCmd) (u : Nat) : Nat :=
  if m.op = 0x07 then
    let n := sortLen m.aux
    formAdd (formAdd (field m.aux 0 8) (dispOf (sortDims m.aux) ((List.range 6).map (sortS m.aux)) (u / n))) ((u % n : Nat) : Int)
  else shapeAddr (shapeOf m.aux) u

/-- The bytes of a unit of the source. -/
def srcBytes (m : CpCmd) : Nat := if m.op = 0x07 then 1 else elBytes (shapeOf m.aux).fmt

/-- Whether unit `u` of the source of command `m` meets `n` bytes at virtual address `va` and physical address `pa`. -/
def unitMeets (st : State) (c : Nat) (m : CpCmd) (u va pa n : Nat) : Bool :=
  let x := srcAddr m u
  let k := srcBytes m
  (x < 2 ^ 63 && decide (x < va + n) && decide (va < x + k)) ||
    (match cpXlate st c m x false with
     | .ok p _ _ => decide (p < pa + n) && decide (pa < p + k)
     | _ => false)

/-- Whether unit `u` of the source lies in the scratchpad of core `c` itself. -/
def unitOwn (st : State) (c : Nat) (m : CpCmd) (u : Nat) : Bool :=
  match cpXlate st c m (srcAddr m u) false with
  | .ok p _ _ => decide (windowBase c ≤ p) && decide (p < windowBase c + scratchBytes)
  | _ => false

/-- Whether a command writes plane images (R233, R234). -/
def cmdPlanes (m : CpCmd) : Bool :=
  match m.op with
  | 0x04 => bits m.ctl.toNat 15 14 == 1
  | 0x0C => bits m.ctl.toNat 15 14 == 1
  | 0x05 => m.ctl.toNat.testBit 16
  | _ => false

/-- The destination format of a command (R228, R234). -/
def cmdFmt (m : CpCmd) : Nat :=
  match m.op with
  | 0x05 => if m.ctl.toNat.testBit 16 then bits m.ctl.toNat 47 44 else recFmt m.aux
  | 0x07 => 6
  | _ => bits m.ctl.toNat 9 6

/-- Units that one plane image takes. -/
def unitsPerImage (m : CpCmd) : Nat := (shapeOf m.aux).dims.headD 1

/-- The units of the source that a running or halted command has read: those of a plane image are read when its last line
lands. -/
def unitsRead (m : CpCmd) (r : CpRun) : Nat :=
  if cmdPlanes m then 64 * r.elem / imgBytes (cmdFmt m) * unitsPerImage m else r.elem

/-- The first command of a queue that has started, with its progress. -/
def startedOf (q : Queue) : Option (CpCmd × CpRun) :=
  match q.cmds.head?, q.running with
  | some m, some r => some (m, r)
  | _, _ => none

/-- Whether a store of core `c` of `n` bytes meets a byte that one of its running or halted commands has still to read
(R337); a snapshot of the swizzled view needs no hold. -/
def cpUnread (st : State) (c va pa n : Nat) : Bool :=
  (coreOf st c).cp.queues.any fun q =>
    match startedOf q.2 with
    | none => false
    | some (m, r) =>
      (List.range (srcUnits m - unitsRead m r)).any fun i =>
        unitMeets st c m (unitsRead m r + i) va pa n && !(m.cap.isSome && unitOwn st c m (unitsRead m r + i))

end Sys2Proof.Machine
end

