-- ==== Sys2Proof/Machine/Access.lean ====
section
/-! DEFINITION. AG operations (R122 to R135): checks in the order of R124, loads, stores and atomics in flight,
publish and acquire, vjoin, xlpre; watchpoints (R346 to R349); and the events in which accesses perform and data
arrives (R125, R126, R132, R133, R263 to R266). -/

namespace Sys2Proof.Machine

/-! ### Selectors (R86) -/

/-- The check of a sel(w) in a port. -/
def selWCheck (x : Word) (port : Nat) : Check := illctlIf (decide (8 ≤ x.toNat)) port x.toNat

/-- The check of a sel(m) in a port: all lanes, or m0 to m7. -/
def selMCheck (x : Word) (port : Nat) : Check :=
  illctlIf (decide (16 ≤ x.toNat) || (decide (0 < x.toNat) && decide (x.toNat < 8))) port x.toNat

/-- The operand-file vector that a selector names, as it stood at the original issue (R63, R128). -/
def selWVal (st : State) (a : Args) (x : Word) : Vec := tget 0 (issueOf (coreOf st a.core)).sel.w (x.toNat % 8)

/-- The lanes that a mask selector enables, m0 to m7 as they stood at the original issue (R143). -/
def selMVal (st : State) (a : Args) (x : Word) : Word :=
  if x = 0 then BitVec.allOnes 64 else tget 0 (issueOf (coreOf st a.core)).sel.m (x.toNat % 8)

/-! ### Watchpoints (R346 to R348) -/

/-- Whether byte address `x` (in the watchpoint's form) lies in a selected part of a watchpoint (R346, R347). -/
def wpSelects (wpb wpm : Word) (x : Nat) : Bool :=
  let gran := bits wpm.toNat 15 12
  let size := 16 * 2 ^ gran
  let base := if bit wpb.toNat 63 then bits wpb.toNat 21 0 else bits wpb.toNat 51 0
  let b := base - base % size
  decide (b ≤ x) && decide (x < b + size) && bit wpm.toNat (16 + (x - b) / 2 ^ gran)

/-- An accessed byte: its virtual and physical address. -/
structure Touched where
  va : Nat
  pa : Nat
  deriving DecidableEq, Repr

/-- The address of a byte in the form of watchpoint `n` of core `c`: virtual, or local to the core's own window. -/
def wpForm (k : Core) (c n : Nat) (t : Touched) : Option Nat :=
  if bit (tget 0 k.csr.wpb n).toNat 63 then
    match target t.pa with
    | .scratch o off => if o = c then some off else none
    | _ => none
  else some t.va

/-- The address that an imprecise report of watchpoint `n` gives (R349, R360): the watchpoint's form, so bit 63 marks a
local offset. -/
def wpReport (k : Core) (c n : Nat) (t : Touched) : Nat :=
  let x := (wpForm k c n t).getD 0
  if bit (tget 0 k.csr.wpb n).toNat 63 then 2 ^ 63 + x else x

/-- The bytes that strike watchpoint `n` of core `c` under some of the kind bits of WPM; RW (bit 11) is ignored in the virtual
form (R347). -/
def wpStruck (k : Core) (c n : Nat) (kinds : List Nat) (ts : List Touched) : List Touched :=
  let wpm := tget 0 k.csr.wpm n
  let wpb := tget 0 k.csr.wpb n
  if bits wpm.toNat 1 0 = 0 ∨ (kinds.any fun b => bit wpm.toNat b && (b != 11 || bit wpb.toNat 63)) = false then []
  else ts.filter fun t =>
    match wpForm k c n t with
    | some x => wpSelects wpb wpm x
    | none => false

/-- The least of some addresses. -/
def lowest : List Nat → Nat
  | [] => 0
  | x :: xs => xs.foldl min x

/-- The lowest-numbered watchpoint that bytes strike under some of the kind bits, with the bytes that strike it (R348). -/
def wpHit (k : Core) (c : Nat) (kinds : List Nat) (ts : List Touched) : Option (Nat × List Touched) :=
  [0, 1, 2, 3].findSome? fun n =>
    let hit := wpStruck k c n kinds ts
    if hit.isEmpty then none else some (n, hit)

/-- The fourth check of R124: a precise hit traps or halts, unless the slot's re-issue is exempt (R345). -/
def watchCheck (k : Core) (a : Args) (kinds : List Nat) (ts : List Touched) : Check :=
  let i := issueOf k
  if a.lvl = .s ∨ i.noWatch = some i.slot then .ok
  else
    match wpHit k a.core kinds ts with
    | none => .ok
    | some (n, hit) =>
      match bits (tget 0 k.csr.wpm n).toNat 1 0 with
      | 1 => .fault 9 n (lowest (hit.map (·.va)))
      | 2 => .halt
      | _ => .ok

/-- A precise hit with ACT 3 leaves a trace record (R351), but for the slot that a re-issue exempts (R345). -/
def watchTrace (st : State) (a : Args) (kinds : List Nat) (ts : List Touched) : State :=
  let k := coreOf st a.core
  if a.lvl = .s ∨ (issueOf k).noWatch = some (issueOf k).slot then st
  else
    match wpHit k a.core kinds ts with
    | some (n, _) => if bits (tget 0 k.csr.wpm n).toNat 1 0 = 3 then traceRec st a.core 10 k.pc.toNat k.pc.toNat n else st
    | none => st

/-- An imprecise hit of core `o` (R349, R359), one for all bytes that a write performs in a tick: it becomes pending after its
skid, a free value up to its bound (log 8). -/
def strike (st : State) (o kindBit skid detail2 unit cls queue w : Nat) (ts : List Touched) : State :=
  let k := coreOf st o
  match wpHit k o [kindBit] ts with
  | none => st
  | some (n, hit) =>
    let act := bits (tget 0 k.csr.wpm n).toNat 1 0
    let x := lowest (hit.map (wpReport k o n))
    if act = 3 then traceRec st o 10 k.pc.toNat k.pc.toNat n
    else
      let (d, st) := draw st 0 skid
      let cause := xcauseOf { code := 20, detail := n + 4 * detail2, xaddr := x, unit := unit,
                              info := cls * 2 ^ 13 + queue * 2 ^ 10 + w, async := true }
      modCore st o fun k => { k with wx := k.wx ++ [(k.now + d, act, cause, BitVec.ofNat 64 x)] }

/-- The bytes of a range, with virtual addresses from `va`. -/
def touchedRange (va pa n : Nat) : List Touched := (List.range n).map fun i => { va := va + i, pa := pa + i }

/-- Whether a core is of a class for hit reports: UNIT and class of R349. -/
def wxUnit (cls : Nat) : Nat :=
  match cls with
  | 1 => 9
  | 2 => 9
  | 3 => 11
  | 4 => 7
  | 5 => 8
  | _ => 3

/-- The core whose scratchpad a byte lies in. -/
def scratchOf (t : Touched) : Option Nat :=
  match target t.pa with
  | .scratch o _ => some o
  | _ => none

/-- A write of core `w` (or its engine of class `cls`) strikes RW watchpoints of the other cores whose scratchpads its bytes land
in (R348). -/
def strikeRw (st : State) (w cls queue : Nat) (ts : List Touched) : State :=
  ((ts.filterMap scratchOf).eraseDups.filter (· != w)).foldl (fun st o =>
    strike st o 11 96 1 (wxUnit cls) cls queue w (ts.filter fun t => scratchOf t == some o)) st

/-- A write of an engine of core `c`, issued at T level, strikes the core's own EW watchpoints (R348). -/
def strikeEw (st : State) (c cls queue : Nat) (l : Level) (ts : List Touched) : State :=
  if l = .s then st else strike st c 10 64 0 (wxUnit cls) cls queue c ts

/-- A write of an engine strikes both (R348). -/
def strikeEngine (st : State) (c cls queue : Nat) (l : Level) (ts : List Touched) : State :=
  strikeEw (strikeRw st c cls queue ts) c cls queue l ts

/-! ### The checks of an access (R123, R124) -/

/-- One element of an access: its virtual address and its bytes. -/
structure Elem where
  va : Nat
  n : Nat
  deriving DecidableEq, Repr

/-- A checked element: where it lies, its key slot and timing. -/
structure Placed where
  va : Nat
  pa : Nat
  key : Nat
  padded : Bool
  n : Nat
  deriving DecidableEq, Repr

/-- A translation for an AG or SY operation of core `c`. -/
def xlateOp (st : State) (a : Args) (va : Nat) (write : Bool) : XRes :=
  let k := coreOf st a.core
  xlate st a.core k.utlb a.lvl k.csr.asid k.csr.keyid va write

/-- A walk that has failed for a page leaves its detail for the access, or for the engine, that waited (R124, R277). -/
def walkFailed (k : Core) (va : Nat) (eng : Bool) : Option Nat :=
  (k.xlFault.find? fun x => x.2.1 == eng && x.1 / 4096 == va / 4096).map (·.2.2)

/-- The translation check of one address: a fault, a walk to wait for, or nothing. -/
def xlCheck (st : State) (a : Args) (va : Nat) (write : Bool) : Check :=
  match xlateOp st a va write with
  | .ok _ _ _ => .ok
  | .fault d => .fault 8 d va
  | .miss =>
    match walkFailed (coreOf st a.core) va false, rootOf st a.core with
    | some d, _ => .fault 8 d va
    | none, none => .fault 8 0 va
    | none, some _ => .walk va write

/-- The third check of R124 over elements: all translations are needed first, then the lowest faulting element. -/
def xlAll (st : State) (a : Args) (es : List Elem) (write : Bool) : Check :=
  let rs := es.map fun e => xlCheck st a e.va write
  match rs.find? (fun r => match r with | .walk _ _ => true | _ => false) with
  | some r => r
  | none => (rs.find? fun r => decide (r ≠ .ok)).getD .ok

/-- Where the elements lie. -/
def place (st : State) (a : Args) (es : List Elem) (write : Bool) : List Placed :=
  es.filterMap fun e =>
    match xlateOp st a e.va write with
    | .ok pa key padded => some { va := e.va, pa := pa, key := key, padded := padded, n := e.n }
    | _ => none

/-- The bytes of placed elements. -/
def touchedOf (ps : List Placed) : List Touched := ps.flatMap fun p => touchedRange p.va p.pa p.n

/-- Whether accesses to the window of logical core `o` are held: it is not resident, or it stops to give way to its partner (R265,
R301; log 40). -/
def homeHeld (st : State) (o : Nat) : Bool :=
  let k := coreOf st o
  !k.resident || (k.run == .settling && !k.stopReq && !k.stopNow && (partnerOf st o).isSome)

/-- Whether an access reaches a window whose accesses are held. -/
def remoteHeld (st : State) (ps : List Placed) : Bool :=
  ps.any fun p =>
    match target p.pa with
    | .scratch o _ => homeHeld st o
    | _ => false

/-- ALIGN for the lowest misaligned element (R123). -/
def alignAll (es : List Elem) : Check :=
  match es.find? fun e => e.va % e.n ≠ 0 with
  | some e => .fault 7 0 e.va
  | none => .ok

/-- The checks of R124 after ILLCTL, the hold of R265, and for a store the hold of R337. -/
def accessCheck (st : State) (a : Args) (es : List Elem) (write : Bool) (kinds : List Nat) : Check :=
  let k := coreOf st a.core
  let ps := place st a es write
  (alignAll es).andThen ((xlAll st a es write).andThen ((watchCheck k a kinds (touchedOf ps)).andThen
    (if remoteHeld st ps then .hold .remote 0
     else if write && ps.any (fun p => cpUnread st a.core p.va p.pa p.n) then .hold .cphaz 0 else .ok)))

/-- A load or atomic meets a full load-data queue (R13): once the pops of its own bundle make room, it waits for those that have
not found their entry yet. -/
def ldqCheck (st : State) (a : Args) : Check :=
  let k := coreOf st a.core
  let n := (ldqOf k).length
  if n < ldqMax k then .ok else if n - (duePops (issueOf k)).length < ldqMax k then .hold .earlyPop 0 else .hold .ldqFull 0

/-! ### Accesses in flight -/

/-- The tick (unfrozen, of the core) at which an access of padded latency `l` is due: `l` ticks on when PADDED, else a
free value; 65,537 stands for an access that misses the bound of R264. -/
def dueAt (st : State) (c : Nat) (padded : Bool) (l : Nat) : Nat × State :=
  if padded then ((coreOf st c).now + l, st)
  else
    let (t, st) := draw st 1 65537
    ((coreOf st c).now + t, st)

/-- The homes of an access: the cores whose scratchpads it reaches. -/
def homesOf (ps : List Placed) : List Nat :=
  (ps.filterMap fun p => match target p.pa with | .scratch o _ => some o | _ => none).eraseDups

/-- The bytes of a load as its core's view holds them at issue (R127, R268), with the bytes that own atomics still have
to deliver. -/
def loadBytes (st : State) (c : Nat) (ps : List Placed) : List Byte × List (Nat × Nat × Nat) :=
  let k := coreOf st c
  let t := st.stamp
  let all := ps.flatMap fun p => (List.range p.n).map fun i => (p, i)
  let bytes := all.map fun x => viewKeyed st c t x.1.key (x.1.pa + x.2)
  let deps := (all.zip (List.range all.length)).filterMap fun x =>
    match ownPending k t (x.1.1.pa + x.1.2) with
    | some (.inr (id, j)) => some (x.2, id, j)
    | _ => none
  (bytes, deps)

/-- A load issues (R126, R127, R128): an entry joins the load-data queue, ready after the largest latency of its
regions. Where its lanes lie in PADDED and in OPEN pages, the spec does not say which timing it takes: the model takes OPEN for
all of it (log 44). -/
def issueLoad (st : State) (a : Args) (es : List Elem) (vec signed : Bool) : State :=
  let c := a.core
  let ps := place st a es false
  let st := watchTrace st a [8] (touchedOf ps)
  let padded := ps.all (·.padded)
  let lat := (ps.map fun p => padLoad (regionOf c p.pa)).foldl max 0
  let (due, st) := dueAt st c padded lat
  let (bytes, deps) := loadBytes st c ps
  let e : LdEntry := { id := st.stamp, vec := vec, signed := signed, bytes := bytes, due := due,
                       issued := (coreOf st c).now, done := false, arrived := false, padded := padded, homes := homesOf ps, frz := 0,
                       deps := deps, places := ps.map fun p => (p.pa, p.n, p.key) }
  nextStamp (modCore st c fun k => setLdq k (ldqOf k ++ [e]))

/-- A load that reads through key slot `key` and has not performed by the tick at which that slot changes: its bytes are those of the
slot's new key (R402). -/
def rekeyEntry (st : State) (c key : Nat) (e : LdEntry) : LdEntry :=
  if e.done || !e.places.any (fun p => p.2.2 == key) then e
  else { e with bytes := e.places.flatMap fun p => (List.range p.2.1).map fun i => viewKeyed st c e.id p.2.2 (p.1 + i) }

/-- The loads of every core after a key slot has changed (R402). -/
def rekeyLoads (st : State) (key : Nat) : State :=
  (st.cores.map (·.1)).foldl (fun st c => modCore st c fun k =>
    { k with ldq := k.ldq.map (rekeyEntry st c key), sbank := { k.sbank with ldq := k.sbank.ldq.map (rekeyEntry st c key) } }) st

/-- The newest publish of a core in flight, that a later atomic or barrier update follows (R133); 0 for none. -/
def lastPub (k : Core) : Nat := (k.pubs.map (·.id)).foldl max 0

/-- One store of a region issues (R125): it joins the accesses in flight and the core's own view. Where its lanes lie in PADDED and
in OPEN pages, the model takes OPEN for all of them (log 44). -/
def issueStore (st : State) (a : Args) (ps : List (Placed × List Byte)) (region : Nat) : State :=
  let mine := ps.filter fun p => regionOf a.core p.1.pa == region
  if mine.isEmpty then st
  else
    let c := a.core
    let padded := mine.all (·.1.padded)
    let (due, st) := dueAt st c padded (padLoad region)
    let x : Access := { id := st.stamp, atomic := none, chunks := mine.map fun p => (p.1.pa, p.2),
                        keys := mine.map fun p => (p.1.pa, p.1.key), operand := 0, expected := 0,
                        va := BitVec.ofNat 64 ((mine.head?.map (·.1.va)).getD 0), due := due,
                        issued := (coreOf st c).now, stamp := st.stamp, afterPub := 0, padded := padded, frz := 0,
                        lvl := a.lvl }
    nextStamp (modCore st c fun k => { k with accs := k.accs ++ [x], lastScr := if region = 0 then k.now + 12 else k.lastScr })

/-- Stores issue, region by region; the lanes keep their order within a region (R128). -/
def issueStores (st : State) (a : Args) (es : List Elem) (data : List (List Byte)) : State :=
  let ps := place st a es true
  let st := watchTrace st a [9] (touchedOf ps)
  [0, 1, 2, 3].foldl (fun st r => issueStore st a (ps.zip data) r) st

/-- An atomic issues (R131, R132): an access in flight, and an entry for its old value. -/
def issueAtomic (st : State) (a : Args) (op : AtomOp) : State :=
  let c := a.core
  match place st a [{ va := a.a.toNat, n := 8 }] true with
  | [] => st
  | p :: _ =>
    let kinds := [8, 9]
    let st := watchTrace st a kinds (touchedOf [p])
    let lat := padAtomic (regionOf c p.pa)
    let (due, st) := dueAt st c p.padded lat
    let k := coreOf st c
    let x : Access := { id := st.stamp, atomic := some op, chunks := [(p.pa, [])], keys := [(p.pa, p.key)],
                        operand := a.b, expected := a.c, va := a.a, due := due, issued := k.now, stamp := st.stamp,
                        afterPub := lastPub k, padded := p.padded, frz := 0, lvl := a.lvl }
    let e : LdEntry := { id := st.stamp, vec := false, signed := false, bytes := List.replicate 8 0, due := due,
                         issued := k.now, done := false, arrived := false, padded := p.padded, homes := homesOf [p], frz := 0,
                         deps := (List.range 8).map fun i => (i, st.stamp, 8 + i), places := [] }
    nextStamp (modCore st c fun k => setLdq { k with
      accs := k.accs ++ [x], lastScr := if regionOf c p.pa = 0 then k.now + 12 else k.lastScr } (ldqOf k ++ [e]))

/-! ### Triggers -/

/-- The result of an AG operation with no check beyond the access. -/
def agLoad (n : Nat) (signed : Bool) : Trigger :=
  { unit := 3
    check := fun st a => (accessCheck st a [{ va := a.a.toNat, n := n }] false [8]).andThen (ldqCheck st a)
    act := fun st a => issueLoad st a [{ va := a.a.toNat, n := n }] false signed }

/-- A scalar store of `n` bytes (R127). -/
def agStore (n : Nat) : Trigger :=
  { unit := 3
    check := fun st a => accessCheck st a [{ va := a.a.toNat, n := n }] true [9]
    act := fun st a => issueStores st a [{ va := a.a.toNat, n := n }] [leBytes n a.b.toNat] }

/-- Lane addresses (R128): consecutive, strided, gathered. -/
def laneAddrs (st : State) (a : Args) (form : Nat) : List Nat :=
  (List.range 64).map fun i =>
    match form with
    | 0 => (a.a + BitVec.ofNat 64 (4 * i)).toNat
    | 1 => (a.a + a.b * BitVec.ofNat 64 i).toNat
    | _ => (a.a + (laneOf (selWVal st a a.b) i).signExtend 64).toNat

/-- Elements of four bytes at addresses. -/
def laneElems (l : List Nat) : List Elem := l.map fun x => { va := x, n := 4 }

/-- A vector load (R128). -/
def agVload (form : Nat) : Trigger :=
  { unit := 3
    check := fun st a => ((if form = 2 then selWCheck a.b 1 else .ok : Check)).andThen
      ((accessCheck st a (laneElems (laneAddrs st a form)) false [8]).andThen (ldqCheck st a))
    act := fun st a => issueLoad st a (laneElems (laneAddrs st a form)) true false }

/-- The lanes that a vector store writes, ascending. -/
def storeLanes (st : State) (a : Args) : List Nat :=
  (List.range 64).filter fun i => (selMVal st a a.d).toNat.testBit i

/-- The elements of a vector store. -/
def vstoreElems (st : State) (a : Args) (form : Nat) : List Elem :=
  laneElems ((storeLanes st a).map fun i => (laneAddrs st a form).getD i 0)

/-- A vector store (R128); ILLCTL names the highest-lettered port only where fields break a limit together (R320), so
each selector is checked in port order. -/
def agVstore (form : Nat) : Trigger :=
  { unit := 3
    check := fun st a => ((if form = 2 then selWCheck a.b 1 else .ok : Check)).andThen ((selWCheck a.c 2).andThen
      ((selMCheck a.d 3).andThen (accessCheck st a (vstoreElems st a form) true [9])))
    act := fun st a => issueStores st a (vstoreElems st a form)
      ((storeLanes st a).map fun i => leBytes 4 (laneOf (selWVal st a a.c) i).toNat) }

/-- An atomic (R131): checked as a load and a store of its doubleword. -/
def agAtomic (op : AtomOp) : Trigger :=
  { unit := 3
    check := fun st a => (accessCheck st a [{ va := a.a.toNat, n := 8 }] true [8, 9]).andThen (ldqCheck st a)
    act := fun st a => issueAtomic st a op }

/-- The accesses that a publish covers have performed. -/
def pubCovered (k : Core) (p : Pub) : Bool := !k.accs.any fun x => decide (x.id < p.upto)

/-- The most ticks that a publish takes at its scope (R133). -/
def pubTicks (x : Scope) : Nat :=
  match x with
  | .d => 96
  | .p => 240
  | .s => 2400

/-- A publish whose writes have performed gets the tick at which it completes, a free value up to its bound (log 8). -/
def armPub (st : State) (c : Nat) (p : Pub) : State :=
  let k := coreOf st c
  if p.due.isSome ∨ !pubCovered k p then st
  else
    let (t, st) := draw st 0 (pubTicks p.scope)
    modCore st c fun k => { k with pubs := k.pubs.map fun q =>
      if q.id = p.id then { q with due := some (k.now + t) } else q }

/-- A publish (R133). -/
def agPub (scope : Scope) : Trigger :=
  { unit := 3
    check := fun _ _ => .ok
    act := fun st a =>
      let p : Pub := { id := st.stamp, scope := scope, upto := st.stamp, cmds := (coreOf st a.core).obs, issued := st.stamp, due := none }
      armPub (nextStamp (modCore st a.core fun k => { k with pubs := k.pubs ++ [p] })) a.core p }

/-- An acquire (R134). -/
def agAcq (scope : Scope) : Trigger := { unit := 3, check := fun _ _ => .ok, act := fun st a => acquire st a.core scope }

/-- ld.b. -/
def trigLdB : Trigger := agLoad 1 true
/-- ld.bu. -/
def trigLdBu : Trigger := agLoad 1 false
/-- ld.h. -/
def trigLdH : Trigger := agLoad 2 true
/-- ld.hu. -/
def trigLdHu : Trigger := agLoad 2 false
/-- ld.w. -/
def trigLdW : Trigger := agLoad 4 true
/-- ld.wu. -/
def trigLdWu : Trigger := agLoad 4 false
/-- ld.d. -/
def trigLdD : Trigger := agLoad 8 false
/-- st.b. -/
def trigStB : Trigger := agStore 1
/-- st.h. -/
def trigStH : Trigger := agStore 2
/-- st.w. -/
def trigStW : Trigger := agStore 4
/-- st.d. -/
def trigStD : Trigger := agStore 8
/-- ldv. -/
def trigLdv : Trigger := agVload 0
/-- ldvs. -/
def trigLdvs : Trigger := agVload 1
/-- ldvg. -/
def trigLdvg : Trigger := agVload 2
/-- stv. -/
def trigStv : Trigger := agVstore 0
/-- stvs. -/
def trigStvs : Trigger := agVstore 1
/-- stvg. -/
def trigStvg : Trigger := agVstore 2
/-- aadd. -/
def trigAadd : Trigger := agAtomic .add
/-- amin. -/
def trigAmin : Trigger := agAtomic .min
/-- amax. -/
def trigAmax : Trigger := agAtomic .max
/-- aand. -/
def trigAand : Trigger := agAtomic .and
/-- aor. -/
def trigAor : Trigger := agAtomic .or
/-- axor. -/
def trigAxor : Trigger := agAtomic .xor
/-- aswp. -/
def trigAswp : Trigger := agAtomic .swp
/-- acas. -/
def trigAcas : Trigger := agAtomic .cas
/-- pub.d. -/
def trigPubD : Trigger := agPub .d
/-- pub.p. -/
def trigPubP : Trigger := agPub .p
/-- pub.s. -/
def trigPubS : Trigger := agPub .s
/-- acq.d. -/
def trigAcqD : Trigger := agAcq .d
/-- acq.p. -/
def trigAcqP : Trigger := agAcq .p
/-- acq.s. -/
def trigAcqS : Trigger := agAcq .s

/-- Whether an access in flight writes the core's own scratchpad. -/
def ownScratch (c : Nat) (x : Access) : Bool := x.chunks.any fun ch => regionOf c ch.1 == 0

/-- The core's tick of the first issue attempt of its next bundle. -/
def firstTry (k : Core) : Nat := (k.held.map (·.first)).getD k.now

/-- DST of a drain control word (R189). -/
def drDst (b : Nat) : Nat := bits b 8 7
/-- NR. -/
def drNr (b : Nat) : Nat := bits b 26 20

/-- The tick at which the drain of a row started (R190, R194). -/
def rowStart (r : DrainRow) : Nat := r.due - 139 - r.i

/-- The start and NR of the drain that MX runs to scratchpad. -/
def runningDrain (k : Core) : Option (Nat × Nat) :=
  match k.mx.running with
  | some r => if r.cmd.op = 0x0A ∧ r.err = 0 ∧ drDst r.cmd.b.toNat = 1 then some (r.start, drNr r.cmd.b.toNat) else none
  | none => none

/-- The last write ticks of the drains to scratchpad that MX had started by a tick and that have rows still to write (R194). -/
def scratchDrains (k : Core) (first : Nat) : List Nat :=
  (((k.mx.rows.filter fun r => drDst r.cmd.b.toNat == 1).map fun r => (rowStart r, drNr r.cmd.b.toNat)) ++ (runningDrain k).toList).filterMap
    fun d => if d.1 ≤ first then some (d.1 + 139 + d.2) else none

/-- The hold of vjoin (R130): own accesses to its scratchpad, and the drains started by its first issue attempt, have performed;
in PADDED mode in an earlier tick. The budget is the PADDED figure of an OPEN hold; a PADDED hold writes no postmark. -/
def vjoinCheck (st : State) (a : Args) : Check :=
  let k := coreOf st a.core
  let first := firstTry k
  let drains := scratchDrains k first
  if !k.accs.any (ownScratch a.core) && drains.isEmpty && (!tmodePadded k || k.scrTick != k.now + 1) then .ok
  else .hold .vjoin (if tmodePadded k then 2 ^ 32 else drains.foldl max k.lastScr + 1 - first)

/-- vjoin (R130). -/
def trigVjoin : Trigger := { unit := 3, check := vjoinCheck, act := fun st a => vjoinMerge st a.core }

/-- xlpre (R135). -/
def trigXlpre : Trigger :=
  { unit := 3
    check := fun _ a => illctlIf (decide (2 ^ 32 < a.b.toNat)) 1 a.b.toNat
    act := fun st a =>
      match rootOf st a.core with
      | none => st
      | some root => startPreload st a.core (coreOf st a.core).csr.asid root a.a.toNat a.b.toNat }

/-! ### Events -/

/-- The publishes before which an access must wait have completed (R133). -/
def pubDone (k : Core) (afterPub : Nat) : Bool := !k.pubs.any fun p => decide (p.id ≤ afterPub)

/-- The bytes of a chunk of an access: an atomic's doubleword. -/
def chunkLen (x : Access) (ch : Nat × List Byte) : Nat := if x.atomic.isSome then 8 else ch.2.length

/-- Whether two accesses write a common byte. -/
def overlaps (x y : Access) : Bool :=
  x.chunks.any fun a => y.chunks.any fun b => decide (a.1 < b.1 + chunkLen y b) && decide (b.1 < a.1 + chunkLen x a)

/-- An OPEN access of core `c` to the scratchpad of another core that is frozen is served when the freeze ends; the padded figures
cover the freeze (R263, R266). -/
def homeFrozen (st : State) (c : Nat) (x : Access) : Bool :=
  !x.padded && x.chunks.any fun ch => match target ch.1 with
    | .scratch o _ => o != c && (coreOf st o).freeze != 0
    | _ => false

/-- The earlier of two ticks, either of which may be absent. -/
def sooner : Option Nat → Option Nat → Option Nat
  | none, b => b
  | a, none => a
  | some a, some b => some (min a b)

/-- The tick by which a younger access `y` to its bytes, itself needed by tick `t`, needs access `x` performed: stores perform before
atomics do in a tick (R267). -/
def neededBy (x y : Access) (t : Nat) : Nat := if x.atomic.isSome && y.atomic.isNone then t - 1 else t

/-- Accesses in issue order, each with the tick by which it is needed: the figure of a PADDED access (R263), and what a younger
access to its bytes needs, since the core's own accesses to a byte perform in program order (R127, R129, R271; log 46). -/
def withNeeds : List Access → List (Access × Option Nat)
  | [] => []
  | x :: xs =>
    let ys := withNeeds xs
    (x, (ys.filter fun y => overlaps x y.1).foldl (fun n y => sooner n (y.2.map (neededBy x y.1)))
      (if x.padded then some x.due else none)) :: ys

/-- The time of an access has come: its tick, unless its home is frozen, or the tick by which it is needed. -/
def ripe (st : State) (c : Nat) (y : Access × Option Nat) : Bool :=
  (decide (y.1.due ≤ (coreOf st c).now) && !homeFrozen st c y.1) || y.2.any fun t => decide (t ≤ (coreOf st c).now)

/-- The accesses that perform and those that stay, in issue order: what `p` picks performs, unless it must wait for an earlier access
of the core to one of its bytes (R127, R129, R271); `left` are the earlier ones that stay. -/
def splitNow (p : Access × Option Nat → Bool) (left : List Access) : List (Access × Option Nat) → List Access × List Access
  | [] => ([], left)
  | y :: ys =>
    if p y && !left.any (overlaps y.1) then
      let (now, stay) := splitNow p left ys
      (y.1 :: now, stay)
    else splitNow p (left ++ [y.1]) ys

/-- The stores of core `c` that perform in this tick, and the accesses that stay in flight (R263; log 46). -/
def storesNow (st : State) (c : Nat) : List Access × List Access :=
  splitNow (fun y => y.1.atomic.isNone && ripe st c y) [] (withNeeds (coreOf st c).accs)

/-- Stores perform at their homes (R125, R263, R267). -/
def performStore (st : State) (c : Nat) (x : Access) : State :=
  let st := (x.chunks.zip x.keys).foldl (fun st ck =>
    performKeyed st c ck.2.2 ck.1.1 ck.1.2 x.stamp [(c, x.stamp)] none .core none) st
  let st := strikeRw st c 6 0 (x.chunks.flatMap fun ch => touchedRange 0 ch.1 ch.2.length)
  modCore st c fun k => if ownScratch c x then { k with scrTick := k.now + 1 } else k

/-- STORE_PERFORM: every store of core `c` that is due, and that no earlier access to its bytes keeps back, performs, in issue
order. -/
def execStorePerform (c : Nat) (st : State) : Host.Outcome State Fault Refusal :=
  if numCores ≤ c then .fault .noSuchAgent
  else
    let (due, stay) := storesNow st c
    let st := modCore st c fun k => { k with accs := stay }
    .next (due.foldl (fun st x => performStore st c x) st)

/-- The new value of an atomic; none when an acas comparison fails (R131). -/
def atomNew (op : AtomOp) (old b expected : Word) : Option Word :=
  match op with
  | .add => some (old + b)
  | .min => some (if b.slt old then b else old)
  | .max => some (if old.slt b then b else old)
  | .and => some (old &&& b)
  | .or => some (old ||| b)
  | .xor => some (old ^^^ b)
  | .swp => some b
  | .cas => if old = expected then some b else none

/-- Delivering an atomic's old value and the value it leaves to the entries that wait for them (R127); its own entry is due now. -/
def deliverAtomic (now id : Nat) (old new : Word) (e : LdEntry) : LdEntry :=
  let res := leBytes 8 new.toNat ++ leBytes 8 old.toNat
  let mine := e.deps.filter fun d => d.2.1 == id
  { e with bytes := mine.foldl (fun bs d => bs.set d.1 (res.getD d.2.2 0)) e.bytes
           deps := e.deps.filter fun d => d.2.1 != id
           due := if e.id = id then min e.due now else e.due }

/-- The scope at which an atomic's write is visible without a publish (R132). -/
def atomScope (c pa : Nat) : Scope :=
  match target pa with
  | .scratch o _ => if dieIx o = dieIx c then .d else .p
  | _ => .p

/-- An atomic performs at its home on the newest value, read under its own key (R132, R271, R281); an acas that fails writes nothing,
and its core's view takes the old value (R127, R131). -/
def performAtomic (st : State) (c : Nat) (x : Access) : State :=
  let pa := (x.chunks.head?.map (·.1)).getD 0
  let key := (x.keys.head?.map (·.2)).getD 0
  let old : Word := BitVec.ofNat 64 (leNat ((List.range 8).map fun j => keyedByte st key (memByte st.mem) (pa + j)))
  let (new, st) := match x.atomic.bind fun op => atomNew op old x.operand x.expected with
    | some new =>
      let st := if pa < globalBytes then takeLine st c key pa else st
      let st := perform st c pa (leBytes 8 new.toNat) x.stamp [(c, x.stamp)] (some (atomScope c pa)) .core none
      (new, strikeRw st c 6 0 (touchedRange 0 pa 8))
    | none => (old, seeHome st c pa (leBytes 8 old.toNat) x.stamp)
  modCore st c fun k =>
    { k with ldq := k.ldq.map (deliverAtomic k.now x.id old new)
             sbank := { k.sbank with ldq := k.sbank.ldq.map (deliverAtomic k.now x.id old new) }
             scrTick := if ownScratch c x then k.now + 1 else k.scrTick }

/-- The atomics of core `c` that perform in this tick, and the accesses that stay in flight: the publishes before an atomic have
completed (R133), in PADDED timing too (DESIGN CHOICE, log 46). -/
def atomicsNow (st : State) (c : Nat) : List Access × List Access :=
  splitNow (fun y => y.1.atomic.isSome && pubDone (coreOf st c) y.1.afterPub && ripe st c y) [] (withNeeds (coreOf st c).accs)

/-- ATOMIC_PERFORM: every atomic of core `c` that is due, and that no earlier access to its bytes keeps back, performs, in issue
order. -/
def execAtomicPerform (c : Nat) (st : State) : Host.Outcome State Fault Refusal :=
  if numCores ≤ c then .fault .noSuchAgent
  else
    let (due, stay) := atomicsNow st c
    let st := modCore st c fun k => { k with accs := stay }
    .next (due.foldl (fun st x => performAtomic st c x) st)

/-- An entry whose tick has come and whose bytes are all there has completed (R126, R263); `away` says which OPEN entries wait for the
end of a freeze (R266). -/
def complete (now : Nat) (away : LdEntry → Bool) (e : LdEntry) : LdEntry :=
  { e with done := e.done || (decide (e.due ≤ now) && e.deps.isEmpty && !away e) }

/-- Entries arrive in issue order: an entry becomes poppable once it and every older one have completed (R126). -/
def arrive : List LdEntry → List LdEntry
  | [] => []
  | e :: es => if e.done then { e with arrived := true } :: arrive es else e :: es

/-- An OPEN load of core `c` reads the scratchpad of another core that is frozen (R266). -/
def loadFrozen (st : State) (c : Nat) (e : LdEntry) : Bool :=
  !e.padded && e.homes.any fun o => o != c && (coreOf st o).freeze != 0

/-- LOAD_DATA_READY. -/
def execLoadDataReady (c : Nat) (st : State) : Host.Outcome State Fault Refusal :=
  if numCores ≤ c then .fault .noSuchAgent
  else .next (modCore st c fun k =>
    { k with ldq := arrive (k.ldq.map (complete k.now (loadFrozen st c)))
             sbank := { k.sbank with ldq := arrive (k.sbank.ldq.map (complete k.now (loadFrozen st c))) } })

/-- A barrier update of core `c` that waited for publishes, once none of them is left in flight: it takes the latency to its home
from then on (R133, R136; log 34). -/
def releaseBup (c : Nat) (k : Core) (u : BarUpd) : BarUpd :=
  if u.afterPub = 0 ∨ pubDone k u.afterPub = false then u
  else { u with due := max u.due (k.now + padLoad (regionOf c u.addr)), afterPub := 0 }

/-- PUB_COMPLETE: publishes that are due complete at their scope, and the barrier updates behind them leave (R133). -/
def execPubComplete (c : Nat) (st : State) : Host.Outcome State Fault Refusal :=
  if numCores ≤ c then .fault .noSuchAgent
  else
    let st := (coreOf st c).pubs.foldl (fun st p => armPub st c p) st
    let k := coreOf st c
    let isDue := fun (p : Pub) => match p.due with
      | some t => decide (t ≤ k.now)
      | none => false
    let k' := { k with pubs := k.pubs.filter fun p => !isDue p }
    let st := setCore st c { k' with bups := k'.bups.map (releaseBup c k') }
    .next ((k.pubs.filter isDue).foldl (fun st p => publish st c p) st)

/-- A replay cause that no slot raises: core `c` stops, its hold charged, and its phase is to be replayed (R339, R357). -/
def raiseReplay (st : State) (c code detail xaddr : Nat) : State :=
  let st := chargeHold st c
  let k := coreOf st c
  let (k', _) := stopBetween k k.pc
  requestReplay (setCore { st with turn := if st.cur = c then .agenda else st.turn } c k') c
    { code := code, detail := detail, xaddr := xaddr, unit := 15, info := 0, async := false }

/-- The accesses of a core, in issue order, that a publish keeps back (R133): atomics behind it, and what waits for them because it
is younger and to their bytes; `held` are the earlier ones. -/
def pubHeld (k : Core) (held : List Access) : List Access → List Access
  | [] => held
  | x :: xs =>
    pubHeld k (if (x.atomic.isSome && !pubDone k x.afterPub) || held.any (overlaps x) then held ++ [x] else held) xs

/-- An access in flight has missed its padded figure: its home froze twice in its interval, or its tick has passed (R126, R263,
R266). DESIGN CHOICE (log 46): what a publish keeps back misses nothing. -/
def lateAccess (k : Core) (x : Access) : Bool :=
  x.padded && (decide (2 ≤ x.frz) || (decide (x.due ≤ k.now) && !((pubHeld k [] k.accs).any fun y => y.id == x.id)))

/-- An access of the core cannot meet its padded figure (R126, R266). -/
def missed (k : Core) : Bool := k.accs.any (lateAccess k) ||
  (k.ldq ++ k.sbank.ldq).any fun e => e.padded && decide (2 ≤ e.frz)

/-- ACCESS_DEADLINE_MISS: UCE with detail 1, when an access of core `c` misses its padded figure (R126, R263, R266). -/
def execAccessDeadlineMiss (c : Nat) (st : State) : Host.Outcome State Fault Refusal :=
  if numCores ≤ c then .fault .noSuchAgent
  else if missed (coreOf st c) then .next (raiseReplay st c 24 1 0) else .next st

/-- An OPEN access that has not completed 65,536 ticks after its issue (R264). -/
def overdue (k : Core) : Bool :=
  (k.accs.any fun x => !x.padded && decide (x.issued + 65536 ≤ k.now)) ||
  (k.ldq ++ k.sbank.ldq).any fun e => !e.padded && !e.done && decide (e.issued + 65536 ≤ k.now)

/-- OPEN_ACCESS_TIMEOUT: UCE with detail 1 (R264). -/
def execOpenAccessTimeout (c : Nat) (st : State) : Host.Outcome State Fault Refusal :=
  if numCores ≤ c then .fault .noSuchAgent
  else if overdue (coreOf st c) then .next (raiseReplay st c 24 1 0) else .next st

/-- UCE: an uncorrectable error in core storage or in the data of an access stops the core for a replay (R125, R320). DESIGN
CHOICE (log 44): DETAIL is 0 and XADDR the address in both cases. -/
def execUce (c : Nat) (addr : Word) (st : State) : Host.Outcome State Fault Refusal :=
  if numCores ≤ c then .fault .noSuchAgent else .next (raiseReplay st c 24 0 addr.toNat)

/-! ### The meanings of the slots that trigger them (R89) -/

/-- LD_B (R127). -/
def execLdB (n : BitVec 1) (g : BitVec 4) (s : BitVec 9) (st : State) :
    Host.Outcome State Fault Refusal := runTrigger trigLdB 0x04 n g s st
/-- LD_BU (R127). -/
def execLdBu (n : BitVec 1) (g : BitVec 4) (s : BitVec 9) (st : State) :
    Host.Outcome State Fault Refusal := runTrigger trigLdBu 0x05 n g s st
/-- LD_H (R127). -/
def execLdH (n : BitVec 1) (g : BitVec 4) (s : BitVec 9) (st : State) :
    Host.Outcome State Fault Refusal := runTrigger trigLdH 0x06 n g s st
/-- LD_HU (R127). -/
def execLdHu (n : BitVec 1) (g : BitVec 4) (s : BitVec 9) (st : State) :
    Host.Outcome State Fault Refusal := runTrigger trigLdHu 0x07 n g s st
/-- LD_W (R127). -/
def execLdW (n : BitVec 1) (g : BitVec 4) (s : BitVec 9) (st : State) :
    Host.Outcome State Fault Refusal := runTrigger trigLdW 0x08 n g s st
/-- LD_WU (R127). -/
def execLdWu (n : BitVec 1) (g : BitVec 4) (s : BitVec 9) (st : State) :
    Host.Outcome State Fault Refusal := runTrigger trigLdWu 0x09 n g s st
/-- LD_D (R127). -/
def execLdD (n : BitVec 1) (g : BitVec 4) (s : BitVec 9) (st : State) :
    Host.Outcome State Fault Refusal := runTrigger trigLdD 0x0A n g s st
/-- ST_B (R127). -/
def execStB (n : BitVec 1) (g : BitVec 4) (s : BitVec 9) (st : State) :
    Host.Outcome State Fault Refusal := runTrigger trigStB 0x0B n g s st
/-- ST_H (R127). -/
def execStH (n : BitVec 1) (g : BitVec 4) (s : BitVec 9) (st : State) :
    Host.Outcome State Fault Refusal := runTrigger trigStH 0x0C n g s st
/-- ST_W (R127). -/
def execStW (n : BitVec 1) (g : BitVec 4) (s : BitVec 9) (st : State) :
    Host.Outcome State Fault Refusal := runTrigger trigStW 0x0D n g s st
/-- ST_D (R127). -/
def execStD (n : BitVec 1) (g : BitVec 4) (s : BitVec 9) (st : State) :
    Host.Outcome State Fault Refusal := runTrigger trigStD 0x0E n g s st
/-- LDV (R128). -/
def execLdv (n : BitVec 1) (g : BitVec 4) (s : BitVec 9) (st : State) :
    Host.Outcome State Fault Refusal := runTrigger trigLdv 0x0F n g s st
/-- LDVS (R128). -/
def execLdvs (n : BitVec 1) (g : BitVec 4) (s : BitVec 9) (st : State) :
    Host.Outcome State Fault Refusal := runTrigger trigLdvs 0x10 n g s st
/-- LDVG (R128). -/
def execLdvg (n : BitVec 1) (g : BitVec 4) (s : BitVec 9) (st : State) :
    Host.Outcome State Fault Refusal := runTrigger trigLdvg 0x11 n g s st
/-- STV (R128). -/
def execStv (n : BitVec 1) (g : BitVec 4) (s : BitVec 9) (st : State) :
    Host.Outcome State Fault Refusal := runTrigger trigStv 0x12 n g s st
/-- STVS (R128). -/
def execStvs (n : BitVec 1) (g : BitVec 4) (s : BitVec 9) (st : State) :
    Host.Outcome State Fault Refusal := runTrigger trigStvs 0x13 n g s st
/-- STVG (R128). -/
def execStvg (n : BitVec 1) (g : BitVec 4) (s : BitVec 9) (st : State) :
    Host.Outcome State Fault Refusal := runTrigger trigStvg 0x14 n g s st
/-- AADD (R131). -/
def execAadd (n : BitVec 1) (g : BitVec 4) (s : BitVec 9) (st : State) :
    Host.Outcome State Fault Refusal := runTrigger trigAadd 0x15 n g s st
/-- AMIN (R131). -/
def execAmin (n : BitVec 1) (g : BitVec 4) (s : BitVec 9) (st : State) :
    Host.Outcome State Fault Refusal := runTrigger trigAmin 0x16 n g s st
/-- AMAX (R131). -/
def execAmax (n : BitVec 1) (g : BitVec 4) (s : BitVec 9) (st : State) :
    Host.Outcome State Fault Refusal := runTrigger trigAmax 0x17 n g s st
/-- AAND (R131). -/
def execAand (n : BitVec 1) (g : BitVec 4) (s : BitVec 9) (st : State) :
    Host.Outcome State Fault Refusal := runTrigger trigAand 0x18 n g s st
/-- AOR (R131). -/
def execAor (n : BitVec 1) (g : BitVec 4) (s : BitVec 9) (st : State) :
    Host.Outcome State Fault Refusal := runTrigger trigAor 0x19 n g s st
/-- AXOR (R131). -/
def execAxor (n : BitVec 1) (g : BitVec 4) (s : BitVec 9) (st : State) :
    Host.Outcome State Fault Refusal := runTrigger trigAxor 0x1A n g s st
/-- ASWP (R131). -/
def execAswp (n : BitVec 1) (g : BitVec 4) (s : BitVec 9) (st : State) :
    Host.Outcome State Fault Refusal := runTrigger trigAswp 0x1B n g s st
/-- ACAS (R131). -/
def execAcas (n : BitVec 1) (g : BitVec 4) (s : BitVec 9) (st : State) :
    Host.Outcome State Fault Refusal := runTrigger trigAcas 0x1C n g s st
/-- PUB_D (R133). -/
def execPubD (n : BitVec 1) (g : BitVec 4) (s : BitVec 9) (st : State) :
    Host.Outcome State Fault Refusal := runTrigger trigPubD 0x1D n g s st
/-- PUB_P (R133). -/
def execPubP (n : BitVec 1) (g : BitVec 4) (s : BitVec 9) (st : State) :
    Host.Outcome State Fault Refusal := runTrigger trigPubP 0x1E n g s st
/-- PUB_S (R133). -/
def execPubS (n : BitVec 1) (g : BitVec 4) (s : BitVec 9) (st : State) :
    Host.Outcome State Fault Refusal := runTrigger trigPubS 0x1F n g s st
/-- ACQ_D (R134). -/
def execAcqD (n : BitVec 1) (g : BitVec 4) (s : BitVec 9) (st : State) :
    Host.Outcome State Fault Refusal := runTrigger trigAcqD 0x20 n g s st
/-- ACQ_P (R134). -/
def execAcqP (n : BitVec 1) (g : BitVec 4) (s : BitVec 9) (st : State) :
    Host.Outcome State Fault Refusal := runTrigger trigAcqP 0x21 n g s st
/-- ACQ_S (R134). -/
def execAcqS (n : BitVec 1) (g : BitVec 4) (s : BitVec 9) (st : State) :
    Host.Outcome State Fault Refusal := runTrigger trigAcqS 0x22 n g s st
/-- VJOIN (R130). -/
def execVjoin (n : BitVec 1) (g : BitVec 4) (s : BitVec 9) (st : State) :
    Host.Outcome State Fault Refusal := runTrigger trigVjoin 0x23 n g s st
/-- XLPRE (R135). -/
def execXlpre (n : BitVec 1) (g : BitVec 4) (s : BitVec 9) (st : State) :
    Host.Outcome State Fault Refusal := runTrigger trigXlpre 0x24 n g s st

end Sys2Proof.Machine
end

