-- ==== Sys2Proof/Machine/Transc.lean ====
section
/-! DEFINITION. The special functions of R164 and R192 as exact reals: enclosures between two multiples of a power of
two, computed in scaled integers and refined until they decide the digits that rounding needs. -/

namespace Sys2Proof.Machine

/-- An enclosure of a real that is not negative: `lo` and `hi` in units of `2^-P`. -/
structure Itv where
  lo : Nat
  hi : Nat
  deriving DecidableEq, Repr

/-- The enclosure of `m · 2^e`. -/
def itvOf (p m : Nat) (e : Int) : Itv :=
  let x := shiftBy m (e + p)
  { lo := x, hi := if shiftRem m (e + p) = 0 then x else x + 1 }

/-- A product. -/
def itvMul (p : Nat) (a b : Itv) : Itv := { lo := (a.lo * b.lo) >>> p, hi := (a.hi * b.hi) >>> p |>.succ }

/-- A sum. -/
def itvAdd (a b : Itv) : Itv := { lo := a.lo + b.lo, hi := a.hi + b.hi }

/-- A difference that is not negative. -/
def itvSub (a b : Itv) : Itv := { lo := a.lo - b.hi, hi := a.hi - b.lo }

/-- A quotient by a positive real. -/
def itvDiv (p : Nat) (a b : Itv) : Itv := { lo := (a.lo <<< p) / b.hi, hi := (a.hi <<< p) / b.lo + 1 }

/-- A product with a ratio of natural numbers. -/
def itvScale (a : Itv) (num den : Nat) : Itv := { lo := a.lo * num / den, hi := a.hi * num / den + 1 }

/-- One. -/
def itvOne (p : Nat) : Itv := { lo := 2 ^ p, hi := 2 ^ p }

/-- The exponential of a real below 1, by its series. -/
def itvExpSmall (p : Nat) (a : Itv) : Itv :=
  let n := p / 4 + 8
  let (s, t) := (List.range n).foldl (fun (acc : Itv × Itv) i =>
    let t := itvScale (itvMul p acc.2 a) 1 (i + 1)
    (itvAdd acc.1 t, t)) (itvOne p, itvOne p)
  { lo := s.lo, hi := s.hi + 2 * t.hi + 2 }

/-- The exponential of a real below 1024: ten squarings. -/
def itvExp (p : Nat) (a : Itv) : Itv :=
  let q := p + 40
  let b : Itv := { lo := (a.lo <<< 40) / 1024, hi := (a.hi <<< 40) / 1024 + 1 }
  let r := (List.range 10).foldl (fun x _ => itvMul q x x) (itvExpSmall q b)
  { lo := r.lo >>> 40, hi := (r.hi >>> 40) + 1 }

/-- `artanh z` of a real at most 1/3, by its series. -/
def itvArtanh (p : Nat) (z : Itv) : Itv :=
  let z2 := itvMul p z z
  let (s, t) := (List.range (p / 3 + 8)).foldl (fun (acc : Itv × Itv) i =>
    (itvAdd acc.1 (itvScale acc.2 1 (2 * i + 1)), itvMul p acc.2 z2)) ({ lo := 0, hi := 0 }, z)
  { lo := s.lo, hi := s.hi + 2 * t.hi + 2 }

/-- `ln 2 = 2 artanh (1/3)`. -/
def itvLn2 (p : Nat) : Itv := itvScale (itvArtanh p (itvScale (itvOne p) 1 3)) 2 1

/-- `arctan (1/n)`, by its alternating series. -/
def itvArctanInv (p n : Nat) : Itv :=
  let (pos, neg, t) := (List.range (p / 2 + 8)).foldl (fun (acc : Itv × Itv × Itv) i =>
    let (pos, neg, t) := acc
    let x := itvScale t 1 (2 * i + 1)
    let t' := itvScale t 1 (n * n)
    if i % 2 = 0 then (itvAdd pos x, neg, t') else (pos, itvAdd neg x, t'))
    ({ lo := 0, hi := 0 }, { lo := 0, hi := 0 }, itvScale (itvOne p) 1 n)
  let d := itvSub pos neg
  { lo := d.lo - t.hi - 2, hi := d.hi + t.hi + 2 }

/-- `π = 16 arctan (1/5) − 4 arctan (1/239)`. -/
def itvPi (p : Nat) : Itv := itvSub (itvScale (itvArctanInv p 5) 16 1) (itvScale (itvArctanInv p 239) 4 1)

/-- `√(2/π)`. -/
def itvSqrt2Pi (p : Nat) : Itv :=
  let r := itvDiv p { lo := 2 ^ (p + 1), hi := 2 ^ (p + 1) } (itvPi p)
  { lo := isqrt (r.lo <<< p), hi := isqrt (r.hi <<< p) + 1 }

/-- The logistic function of `±a`. -/
def itvSigm (p : Nat) (neg : Bool) (a : Itv) : Itv :=
  let e := itvExp p a
  let d := itvAdd e (itvOne p)
  if neg then itvDiv p (itvOne p) d else itvDiv p e d

/-- The hyperbolic tangent of a positive real. -/
def itvTanh (p : Nat) (a : Itv) : Itv :=
  let e := itvExp p { lo := 2 * a.lo, hi := 2 * a.hi }
  itvDiv p (itvSub e (itvOne p)) (itvAdd e (itvOne p))

/-- `2 √(2/π) (a + 0.044715 a³)`, the argument of the logistic function in gelut. -/
def itvGeluArg (p : Nat) (a : Itv) : Itv :=
  let a3 := itvMul p a (itvMul p a a)
  itvScale (itvMul p (itvSqrt2Pi p) (itvAdd a (itvScale a3 44715 1000000))) 2 1

/-- The derivative of `itvGeluArg`: `2 √(2/π) (1 + 3 · 0.044715 a²)`. -/
def itvGeluSlope (p : Nat) (a : Itv) : Itv :=
  itvScale (itvMul p (itvSqrt2Pi p) (itvAdd (itvOne p) (itvScale (itvMul p a a) 134145 1000000))) 2 1

/-- The precisions that are tried in turn. -/
def precisions : List Nat := [320, 640, 1280]

/-- An exact magnitude from enclosures: `f P` encloses the real at precision `P`, times `m · 2^e`; the first precision
at which 64 bits less decide is taken, and a real below `2^-250` counts as a positive real that small. -/
def settle (neg : Bool) (m : Nat) (e : Int) (f : Nat → Itv) : Exact :=
  let try1 := fun p =>
    let x := f p
    let sh := 64 + bitLen m
    if (x.hi * m) >>> sh = (x.lo * m) >>> sh ∧ (x.lo * m) >>> sh ≠ 0 then
      some (Exact.between neg ((x.lo * m) >>> sh) (e + sh - p))
    else none
  match precisions.findSome? try1 with
  | some x => x
  | none => .between neg 1 (-260)

/-- A positive real just below 1. -/
def justBelowOne (neg : Bool) : Exact := .between neg (2 ^ 200 - 1) (-200)

/-- A positive real too small for every format. -/
def vanishing (neg : Bool) : Exact := .between neg 1 (-260)

/-- Whether `m · 2^e` is at least an integer. -/
def atLeast (m : Nat) (e : Int) (b : Nat) : Bool := decide (b ≤ shiftBy m e)

/-- `2^x` for a finite nonzero `x` (R164). -/
def exp2Fin (neg : Bool) (m : Nat) (e : Int) : Exact :=
  if atLeast m e 512 then (if neg then vanishing false else .num (.fin false 1 512))
  else
    let i := shiftBy m e
    if shiftRem m e = 0 then .num (.fin false 1 (signed neg i))
    else
      let n : Int := if neg then -(i : Int) - 1 else i
      settle false 1 n fun p =>
        let f := itvOf p (shiftRem m e) e
        let f := if neg then itvSub (itvOne p) f else f
        itvExpSmall p (itvMul p f (itvLn2 p))

/-- `log₂ x` for a positive finite `x` (R164). -/
def log2Fin (m : Nat) (e : Int) : Exact :=
  let n := leadExp m e
  if m = 2 ^ (bitLen m - 1) then .num (ofInt n)
  else
    let lg := fun p =>
      let y := itvOf p m (e - n)
      itvDiv p (itvScale (itvArtanh p (itvDiv p (itvSub y (itvOne p)) (itvAdd y (itvOne p)))) 2 1) (itvLn2 p)
    if n < 0 then settle true 1 0 fun p => itvSub { lo := n.natAbs <<< p, hi := n.natAbs <<< p } (lg p)
    else settle false 1 0 fun p => itvAdd { lo := n.natAbs <<< p, hi := n.natAbs <<< p } (lg p)

/-- `tanh x` for a finite nonzero `x` (R164); for a tiny `x` of few digits it lies just below `x`. -/
def tanhFin (neg : Bool) (m : Nat) (e : Int) : Exact :=
  if atLeast m e 100 then justBelowOne neg
  else if leadExp m e < -52 ∧ bitLen m ≤ 100 then .between neg ((m <<< 100) - 1) (e - 100)
  else settle neg 1 0 fun p => itvTanh p (itvOf p m e)

/-- `1/(1 + e^-x)` for a finite nonzero `x` (R164). -/
def sigmFin (neg : Bool) (m : Nat) (e : Int) : Exact :=
  if atLeast m e 256 then (if neg then vanishing false else justBelowOne false)
  else if leadExp m e < -150 then
    (if neg then .between false (2 ^ 120 - 1) (-121) else .between false (2 ^ 120) (-121))
  else settle false 1 0 fun p => itvSigm p neg (itvOf p m e)

/-- `x` times the logistic function of `±g(|x|)`: silu and gelut (R164). From `big` on it lies just below a positive `x` of few
digits, from `far` on just below every one. -/
def gatedFin (neg : Bool) (m : Nat) (e : Int) (big far : Nat) (g : Nat → Itv → Itv) : Exact :=
  if atLeast m e big ∧ neg then vanishing true
  else if atLeast m e far ∨ (atLeast m e big ∧ bitLen m ≤ 100) then .between false ((m <<< 200) - 1) (e - 200)
  else if leadExp m e < -150 ∧ bitLen m ≤ 100 then
    -- the logistic factor is one half but for a relative amount below 2^-148
    (if neg then .between true ((m <<< 120) - 1) (e - 121) else .between false (m <<< 120) (e - 121))
  else settle neg m e fun p => itvSigm p neg (g p (itvOf p m e))

/-- silu. -/
def siluFin (neg : Bool) (m : Nat) (e : Int) : Exact := gatedFin neg m e 256 800 fun _ a => a

/-- gelut. -/
def gelutFin (neg : Bool) (m : Nat) (e : Int) : Exact := gatedFin neg m e 16 22 itvGeluArg

/-! ### Derivatives (R191) -/

/-- The value of a derivative: a number, a real above 1 by less than `2^-850`, or a signed real given by enclosures. -/
inductive DVal where
  | num (n : Num)
  | aboveOne
  | enc (neg : Bool) (f : Nat → Itv)

/-- `σ(a) σ(−a)`. -/
def itvLogDeriv (p : Nat) (a : Itv) : Itv := itvMul p (itvSigm p false a) (itvSigm p true a)

/-- `σ(g) (1 ± a s σ(∓g))`, the derivative of `x σ(g(x))` at `±a` where `g` has the slope `s`: for a negative argument
the factor `1 − a s σ(g)` may be negative. -/
def gatedDeriv (neg : Bool) (m : Nat) (e : Int) (g s : Nat → Itv → Itv) : DVal :=
  let at1 := fun p => itvMul p (itvOf p m e) (s p (itvOf p m e))
  if neg then
    let k := fun p => itvMul p (at1 p) (itvSigm p false (g p (itvOf p m e)))
    let below := decide ((k 640).hi < 2 ^ 640)
    .enc (!below) fun p =>
      itvMul p (itvSigm p true (g p (itvOf p m e))) (if below then itvSub (itvOne p) (k p) else itvSub (k p) (itvOne p))
  else
    .enc false fun p =>
      itvMul p (itvSigm p false (g p (itvOf p m e)))
        (itvAdd (itvOne p) (itvMul p (at1 p) (itvSigm p true (g p (itvOf p m e)))))

/-- A real of one of the derivative functions at a finite nonzero argument (R191): 9 dsigm, 10 dtanh, 11 dsilu,
12 dgelut; 8 is drelu. -/
def derivFin (fn : Nat) (neg : Bool) (m : Nat) (e : Int) : DVal :=
  let far := fun (n : Nat) => atLeast m e n
  let none1 : DVal := .enc neg fun _ => { lo := 0, hi := 0 }
  match fn with
  | 8 => .num (if neg then .fin false 0 0 else .fin false 1 0)
  | 9 => if far 900 then .enc false fun _ => { lo := 0, hi := 0 } else .enc false fun p => itvLogDeriv p (itvOf p m e)
  | 10 =>
    if far 450 then .enc false fun _ => { lo := 0, hi := 0 }
    else .enc false fun p => itvScale (itvLogDeriv p (itvOf p (2 * m) e)) 4 1
  | 11 => if far (if neg then 900 else 600) then (if neg then none1 else .aboveOne) else gatedDeriv neg m e (fun _ a => a) (fun p _ => itvOne p)
  | _ => if far 22 then (if neg then none1 else .aboveOne) else gatedDeriv neg m e itvGeluArg itvGeluSlope

/-- A derivative at any number (R190, R191): NaN at NaN, the limits at the infinities. -/
def derivAt (fn : Nat) (x : Num) : DVal :=
  match x with
  | .nan _ => .num (.nan false)
  | .inf s =>
    let lim := !s && (fn == 8 || fn == 11 || fn == 12)
    .num (if lim then .fin false 1 0 else .fin false 0 0)
  | .fin s m e =>
    if m = 0 then
      match fn with
      | 8 => .num (.fin false 0 0)
      | 9 => .num (.fin false 1 (-2))
      | 10 => .num (.fin false 1 0)
      | _ => .num (.fin false 1 (-1))
    else derivFin fn s m e

/-- `z · f'` exactly (R190): an infinite z times a zero derivative is invalid. -/
def timesDeriv (z : Num) (d : DVal) : Exact × Flags8 :=
  match d with
  | .num n => let (p, f) := mulN z n; (.num p, f)
  | .aboveOne =>
    match z with
    | .nan _ => (.num (.nan false), 0)
    | .inf s => (.num (.inf s), 0)
    | .fin s m e => if m = 0 then (.num (.fin s 0 0), 0) else (.between s (m <<< 64) (e - 64), 0)
  | .enc neg f =>
    match z with
    | .nan _ => (.num (.nan false), 0)
    | .inf s => (.num (.inf (s != neg)), 0)
    | .fin s m e => if m = 0 then (.num (.fin (s != neg) 0 0), 0) else (settle (s != neg) m e f, 0)

end Sys2Proof.Machine
end

