-- ==== Sys2Proof/Machine/Vector.lean ====
section
/-! DEFINITION. VA operations (R143 to R163): lane by lane on 64 lanes of 32 bits, results and flags after the latency
of R90. -/

namespace Sys2Proof.Machine

/-- Results lane by lane, with the flags of all lanes ORed. -/
def lanewise (f : Nat → Lane × Flags8) : Vec × Flags8 :=
  let r := (List.range 64).map f
  (ofLanes (r.map (·.1)), r.foldl (fun a x => a ||| x.2) 0)

/-- A mask from a predicate on lanes, with flags. -/
def lanemask (f : Nat → Bool × Flags8) : Word × Flags8 :=
  let r := (List.range 64).map f
  (BitVec.ofNat 64 ((r.zip (List.range 64)).foldl (fun a x => a + b2n x.1.1 * 2 ^ x.2) 0), r.foldl (fun a x => a ||| x.2) 0)

/-- Lane `i` of a vector as an FP32 number. -/
def laneNum (v : Vec) (i : Nat) : Num := fp32.toNum (laneOf v i).toNat

/-- The source code of unit VA0 or VA1's vector result. -/
def vaR (u : BitVec 1) : Nat := if u = 0 then 0x0F3 else 0x0F5
/-- Of its mask result. -/
def vaM (u : BitVec 1) : Nat := if u = 0 then 0x0F4 else 0x0F6
/-- Its unit number (R61). -/
def vaUnit (u : BitVec 1) : Nat := if u = 0 then 4 else 5

/-- An operation that delivers a vector. -/
def vaOp (u : BitVec 1) (lat : Nat) (chk : Args → Check) (f : State → Args → Vec × Flags8) : Trigger :=
  { unit := vaUnit u
    check := fun _ a => chk a
    act := fun st a =>
      let (v, fl) := f st a
      modCore st a.core fun k => launchResult k (vaR u) (some (.v v)) fl lat 0 }

/-- An operation that delivers a mask. -/
def vaMaskOp (u : BitVec 1) (lat : Nat) (chk : Args → Check) (f : State → Args → Word × Flags8) : Trigger :=
  { unit := vaUnit u
    check := fun _ a => chk a
    act := fun st a =>
      let (v, fl) := f st a
      modCore st a.core fun k => launchResult k (vaM u) (some (.s v)) fl lat 0 }

/-- No check. -/
def noChk (_ : Args) : Check := .ok

/-! ### Rounding control and keys (R147) -/

/-- The rounding control in lane 0 of port d: bits [2:0], the rest reserved, codes 5 to 7 ILLCTL. -/
def rmChk (a : Args) : Check := illctlIf (decide (4 < a.d.toNat)) 3 a.d.toNat

/-- The key in lanes 1 to 3 of a control port. -/
def keyOf (st : State) (core : Nat) (v : Vec) : RngKey :=
  let l2 := (laneOf v 2).toNat
  { seed := (coreOf st core).csr.seed.toNat, step := (laneOf v 1).toNat, tag := l2 % 2 ^ 16,
    base := (l2 / 2 ^ 16) * 2 ^ 32 + (laneOf v 3).toNat }

/-- A rounding to FP32 as a lane. -/
def toLane (r : Nat × Flags8) (f : Flags8) : Lane × Flags8 := (BitVec.ofNat 32 r.1, r.2 ||| f)

/-- An operation that rounds an exact result of the lanes to FP32 by port d (R148, R149). -/
def vaRound (u : BitVec 1) (f : Bool → Num → Num → Num → Num × Flags8) : Trigger :=
  vaOp u 5 rmChk fun st a =>
    let mode := a.d.toNat
    let key := keyOf st a.core a.vd
    lanewise fun i =>
      let (x, fl) := f (mode == 2) (laneNum a.va i) (laneNum a.vb i) (laneNum a.vc i)
      toLane (roundFmt fp32 false mode (if mode = 4 then rbOf key i else 0) (.num x)) fl

/-- fadd. -/
def trigFadd (u : BitVec 1) : Trigger := vaRound u fun rd a b _ => addN rd a b
/-- fsub. -/
def trigFsub (u : BitVec 1) : Trigger := vaRound u fun rd a b _ => addN rd a (negN b)
/-- fmul. -/
def trigFmul (u : BitVec 1) : Trigger := vaRound u fun _ a b _ => mulN a b
/-- fma. -/
def trigFma (u : BitVec 1) : Trigger := vaRound u fun rd a b c => fmaN rd a b c
/-- fms. -/
def trigFms (u : BitVec 1) : Trigger := vaRound u fun rd a b c => fmaN rd a b (negN c)

/-- The canonical NaN. -/
def nanLane : Lane := 0x7FC00000

/-- Whether pattern `a` is below `b` among numbers, −0 below +0 (R150). -/
def fpBelow (a b : Lane) : Bool :=
  let x := fp32.toNum a.toNat
  let y := fp32.toNum b.toNat
  ltN x y || (isZero x && isZero y && signOf x && !signOf y)

/-- fmin (R150), and fmax with `big`. -/
def fpMinMax (big : Bool) (a b : Lane) : Lane × Flags8 :=
  let x := fp32.toNum a.toNat
  let y := fp32.toNum b.toNat
  let fl := sigFlag x ||| sigFlag y
  match isNan x, isNan y with
  | true, true => (nanLane, fl)
  | true, false => (b, fl)
  | false, true => (a, fl)
  | false, false => (if big then (if fpBelow a b then b else a) else (if fpBelow b a then b else a), fl)

/-- fabs and fneg (R150). -/
def fpSign (f : Lane → Lane) (a : Lane) : Lane × Flags8 :=
  let x := fp32.toNum a.toNat
  if isNan x then (nanLane, sigFlag x) else (f a, 0)

/-- fmin. -/
def trigFmin (u : BitVec 1) : Trigger := vaOp u 5 noChk fun _ a => lanewise fun i => fpMinMax false (laneOf a.va i) (laneOf a.vb i)
/-- fmax. -/
def trigFmax (u : BitVec 1) : Trigger := vaOp u 5 noChk fun _ a => lanewise fun i => fpMinMax true (laneOf a.va i) (laneOf a.vb i)
/-- fabs. -/
def trigFabs (u : BitVec 1) : Trigger := vaOp u 5 noChk fun _ a => lanewise fun i => fpSign (· &&& 0x7FFFFFFF) (laneOf a.va i)
/-- fneg. -/
def trigFneg (u : BitVec 1) : Trigger := vaOp u 5 noChk fun _ a => lanewise fun i => fpSign (· ^^^ 0x80000000) (laneOf a.va i)

/-- A compare (R151): `any` says that every NaN is invalid. -/
def vaCmp (u : BitVec 1) (any : Bool) (f : Num → Num → Bool) : Trigger :=
  vaMaskOp u 5 noChk fun _ a => lanemask fun i =>
    let x := laneNum a.va i
    let y := laneNum a.vb i
    (f x y, if any then fif (isNan x || isNan y) fNV else sigFlag x ||| sigFlag y)

/-- fcmp.eq. -/
def trigFcmpEq (u : BitVec 1) : Trigger := vaCmp u false eqN
/-- fcmp.lt. -/
def trigFcmpLt (u : BitVec 1) : Trigger := vaCmp u true ltN
/-- fcmp.le. -/
def trigFcmpLe (u : BitVec 1) : Trigger := vaCmp u true fun x y => ltN x y || eqN x y
/-- fcmp.un. -/
def trigFcmpUn (u : BitVec 1) : Trigger := vaCmp u false fun x y => isNan x || isNan y

/-- fsel (R152). -/
def trigFsel (u : BitVec 1) : Trigger :=
  vaOp u 2 (fun a => selMCheck a.d 3) fun st a =>
    let m := selMVal st a a.d
    lanewise fun i => (if m.toNat.testBit i then laneOf a.va i else laneOf a.vb i, 0)

/-! ### Integer lanes (R153, R154) -/

/-- An integer operation of the lanes. -/
def vaInt (u : BitVec 1) (f : Lane → Lane → Lane) : Trigger :=
  vaOp u 2 noChk fun _ a => lanewise fun i => (f (laneOf a.va i) (laneOf a.vb i), 0)

/-- An integer compare. -/
def vaIcmp (u : BitVec 1) (f : Lane → Lane → Bool) : Trigger :=
  vaMaskOp u 2 noChk fun _ a => lanemask fun i => (f (laneOf a.va i) (laneOf a.vb i), 0)

/-- iadd. -/
def trigIadd (u : BitVec 1) : Trigger := vaInt u (· + ·)
/-- isub. -/
def trigIsub (u : BitVec 1) : Trigger := vaInt u (· - ·)
/-- imul. -/
def trigImul (u : BitVec 1) : Trigger := vaInt u (· * ·)
/-- imulh. -/
def trigImulh (u : BitVec 1) : Trigger := vaInt u fun a b => BitVec.ofInt 32 (a.toInt * b.toInt / 2 ^ 32)
/-- iand. -/
def trigIand (u : BitVec 1) : Trigger := vaInt u (· &&& ·)
/-- ior. -/
def trigIor (u : BitVec 1) : Trigger := vaInt u (· ||| ·)
/-- ixor. -/
def trigIxor (u : BitVec 1) : Trigger := vaInt u (· ^^^ ·)
/-- ishl. -/
def trigIshl (u : BitVec 1) : Trigger := vaInt u fun a b => a <<< (b.toNat % 32)
/-- ishr. -/
def trigIshr (u : BitVec 1) : Trigger := vaInt u fun a b => a >>> (b.toNat % 32)
/-- isar. -/
def trigIsar (u : BitVec 1) : Trigger := vaInt u fun a b => a.sshiftRight (b.toNat % 32)
/-- imin. -/
def trigImin (u : BitVec 1) : Trigger := vaInt u fun a b => if b.slt a then b else a
/-- imax. -/
def trigImax (u : BitVec 1) : Trigger := vaInt u fun a b => if a.slt b then b else a
/-- iminu. -/
def trigIminu (u : BitVec 1) : Trigger := vaInt u fun a b => if b.ult a then b else a
/-- imaxu. -/
def trigImaxu (u : BitVec 1) : Trigger := vaInt u fun a b => if a.ult b then b else a
/-- icmp.eq. -/
def trigIcmpEq (u : BitVec 1) : Trigger := vaIcmp u (· == ·)
/-- icmp.lt. -/
def trigIcmpLt (u : BitVec 1) : Trigger := vaIcmp u BitVec.slt
/-- icmp.ltu. -/
def trigIcmpLtu (u : BitVec 1) : Trigger := vaIcmp u BitVec.ult

/-! ### Conversion and packing (R155 to R159) -/

/-- Whether a format code is one that cvt takes on one side; X4 only with FP32 (R155). -/
def cvtFmt (f other : Nat) : Bool := f < 8 || f == 0xB || (f == 8 && other == 0)

/-- The control word of cvt (R155). -/
def cvtCtlOk (w : Nat) : Bool :=
  let src := bits w 3 0
  let dst := bits w 7 4
  bits w 31 24 == 0 && bits w 15 12 == 0 && decide (bits w 10 8 ≤ 4) && cvtFmt src dst && cvtFmt dst src &&
    (if dst = 8 then bits w 23 16 != 0xFF else bits w 23 16 == 0) && (!w.testBit 11 || dst == 4)

/-- The bytes of a vector (R143). -/
def vecBytes (v : Vec) : List Byte := leBytes 256 v.toNat

/-- A vector of bytes, zero past their end. -/
def bytesVec (l : List Byte) : Vec := BitVec.ofNat 2048 (leNat l)

/-- cvt (R156, R157). DESIGN CHOICE (log 29): an infinity from E5M2 to E5M2 with SAT = 1 follows R43's row of saturate bit 1. -/
def cvtOp (st : State) (a : Args) : Vec × Flags8 :=
  let w := a.b.toNat
  let src := bits w 3 0
  let dst := bits w 7 4
  let mode := bits w 10 8
  let key := keyOf st a.core a.vb
  let rb := fun i => if mode = 4 then rbOf key i else 0
  if dst = 8 then
    let vs := (List.range 64).map (laneNum a.va)
    let (b0, f0) := x4Encode (vs.take 32) (bits w 23 16) mode rb
    let (b1, f1) := x4Encode (vs.drop 32) (bits w 23 16) mode fun i => rb (32 + i)
    (bytesVec (b0 ++ b1), f0 ||| f1)
  else if src = 8 then
    let bs := vecBytes a.va
    let (v0, f0) := x4Decode (bs.take 18)
    let (v1, f1) := x4Decode ((bs.drop 18).take 18)
    let vs := v0 ++ v1
    let (v, f) := lanewise fun i => toLane (roundFmt fp32 false mode (rb i) (.num (vs.getD i (.fin false 0 0)))) 0
    (v, f ||| f0 ||| f1)
  else lanewise fun i =>
    let x := numOf src (laneOf a.va i).toNat
    toLane (encodeNum dst (w.testBit 11) mode (rb i) (.num x)) (sigFlag x)

/-- cvt. -/
def trigCvt (u : BitVec 1) : Trigger := vaOp u 4 (fun a => illctlIf (!cvtCtlOk a.b.toNat) 1 a.b.toNat) cvtOp

/-- The element width of pack and unpack. -/
def packWidth (w : Nat) : Nat :=
  match w % 4 with
  | 0 => 16
  | 1 => 8
  | _ => 4

/-- pack (R158). -/
def trigPack (u : BitVec 1) : Trigger :=
  vaOp u 4
    (fun a =>
      let w := a.c.toNat
      illctlIf (bits w 31 8 != 0 || bits w 3 2 != 0 || w % 4 == 3 || decide (16 / packWidth w ≤ bits w 7 4)) 2 w)
    (fun _ a =>
      let w := a.c.toNat
      let n := packWidth w
      let x := ((lanesOf a.va ++ lanesOf a.vb).zip (List.range 128)).foldl
        (fun acc e => acc + (e.1.toNat % 2 ^ n) * 2 ^ (e.2 * n)) 0
      (BitVec.ofNat 2048 (x * 2 ^ (bits w 7 4 * 128 * n)), 0))

/-- unpack (R159): the element index is port b's, the control word port c's; when the two break the limit together the
higher-lettered port is named (R320). -/
def trigUnpack (u : BitVec 1) : Trigger :=
  vaOp u 4
    (fun a =>
      let w := a.c.toNat
      illctlIf (bits w 31 9 != 0 || bits w 7 2 != 0 || w % 4 == 3 || decide (2048 / packWidth w < a.b.toNat + 64)) 2 w)
    (fun _ a =>
      let w := a.c.toNat
      let n := packWidth w
      lanewise fun i =>
        let x := a.va.toNat / 2 ^ ((a.b.toNat + i) * n) % 2 ^ n
        (if w.testBit 8 then BitVec.ofInt 32 (sint n x) else BitVec.ofNat 32 x, 0))

/-! ### Lanes and masks (R160, R163) -/

/-- bcast. -/
def trigBcast (u : BitVec 1) : Trigger :=
  vaOp u 2 (fun a => illctlIf (decide (64 ≤ a.b.toNat)) 1 a.b.toNat) fun _ a => (splat (laneOf a.va a.b.toNat), 0)

/-- lane. -/
def trigLane (u : BitVec 1) : Trigger :=
  vaOp u 2 (fun a => illctlIf (decide (64 ≤ a.b.toNat)) 1 a.b.toNat) fun _ a =>
    lanewise fun i => (if i = a.b.toNat then laneOf a.vc 0 else laneOf a.va i, 0)

/-- A mask operation on selected masks (R163). -/
def vaMask (u : BitVec 1) (two : Bool) (f : Word → Word → Word) : Trigger :=
  vaMaskOp u 2 (fun a => (selMCheck a.a 0).andThen (if two then selMCheck a.b 1 else .ok)) fun st a =>
    (f (selMVal st a a.a) (selMVal st a a.b), 0)

/-- mand. -/
def trigMand (u : BitVec 1) : Trigger := vaMask u true (· &&& ·)
/-- mor. -/
def trigMor (u : BitVec 1) : Trigger := vaMask u true (· ||| ·)
/-- mnot. -/
def trigMnot (u : BitVec 1) : Trigger := vaMask u false fun x _ => ~~~x

/-! ### The meanings of the slots that trigger them (R90) -/

/-- FADD (R148). -/
def execFadd (n : BitVec 1) (g : BitVec 4) (s : BitVec 9) (u : BitVec 1) (st : State) :
    Host.Outcome State Fault Refusal := runTrigger (trigFadd u) 0x04 n g s st
/-- FSUB (R148). -/
def execFsub (n : BitVec 1) (g : BitVec 4) (s : BitVec 9) (u : BitVec 1) (st : State) :
    Host.Outcome State Fault Refusal := runTrigger (trigFsub u) 0x05 n g s st
/-- FMUL (R148). -/
def execFmul (n : BitVec 1) (g : BitVec 4) (s : BitVec 9) (u : BitVec 1) (st : State) :
    Host.Outcome State Fault Refusal := runTrigger (trigFmul u) 0x06 n g s st
/-- FMA (R149). -/
def execFma (n : BitVec 1) (g : BitVec 4) (s : BitVec 9) (u : BitVec 1) (st : State) :
    Host.Outcome State Fault Refusal := runTrigger (trigFma u) 0x07 n g s st
/-- FMS (R149). -/
def execFms (n : BitVec 1) (g : BitVec 4) (s : BitVec 9) (u : BitVec 1) (st : State) :
    Host.Outcome State Fault Refusal := runTrigger (trigFms u) 0x08 n g s st
/-- FMIN (R150). -/
def execFmin (n : BitVec 1) (g : BitVec 4) (s : BitVec 9) (u : BitVec 1) (st : State) :
    Host.Outcome State Fault Refusal := runTrigger (trigFmin u) 0x09 n g s st
/-- FMAX (R150). -/
def execFmax (n : BitVec 1) (g : BitVec 4) (s : BitVec 9) (u : BitVec 1) (st : State) :
    Host.Outcome State Fault Refusal := runTrigger (trigFmax u) 0x0A n g s st
/-- FABS (R150). -/
def execFabs (n : BitVec 1) (g : BitVec 4) (s : BitVec 9) (u : BitVec 1) (st : State) :
    Host.Outcome State Fault Refusal := runTrigger (trigFabs u) 0x0B n g s st
/-- FNEG (R150). -/
def execFneg (n : BitVec 1) (g : BitVec 4) (s : BitVec 9) (u : BitVec 1) (st : State) :
    Host.Outcome State Fault Refusal := runTrigger (trigFneg u) 0x0C n g s st
/-- FCMP_EQ (R151). -/
def execFcmpEq (n : BitVec 1) (g : BitVec 4) (s : BitVec 9) (u : BitVec 1) (st : State) :
    Host.Outcome State Fault Refusal := runTrigger (trigFcmpEq u) 0x0D n g s st
/-- FCMP_LT (R151). -/
def execFcmpLt (n : BitVec 1) (g : BitVec 4) (s : BitVec 9) (u : BitVec 1) (st : State) :
    Host.Outcome State Fault Refusal := runTrigger (trigFcmpLt u) 0x0E n g s st
/-- FCMP_LE (R151). -/
def execFcmpLe (n : BitVec 1) (g : BitVec 4) (s : BitVec 9) (u : BitVec 1) (st : State) :
    Host.Outcome State Fault Refusal := runTrigger (trigFcmpLe u) 0x0F n g s st
/-- FCMP_UN (R151). -/
def execFcmpUn (n : BitVec 1) (g : BitVec 4) (s : BitVec 9) (u : BitVec 1) (st : State) :
    Host.Outcome State Fault Refusal := runTrigger (trigFcmpUn u) 0x10 n g s st
/-- FSEL (R152). -/
def execFsel (n : BitVec 1) (g : BitVec 4) (s : BitVec 9) (u : BitVec 1) (st : State) :
    Host.Outcome State Fault Refusal := runTrigger (trigFsel u) 0x11 n g s st
/-- IADD (R153). -/
def execIadd (n : BitVec 1) (g : BitVec 4) (s : BitVec 9) (u : BitVec 1) (st : State) :
    Host.Outcome State Fault Refusal := runTrigger (trigIadd u) 0x12 n g s st
/-- ISUB (R153). -/
def execIsub (n : BitVec 1) (g : BitVec 4) (s : BitVec 9) (u : BitVec 1) (st : State) :
    Host.Outcome State Fault Refusal := runTrigger (trigIsub u) 0x13 n g s st
/-- IMUL (R153). -/
def execImul (n : BitVec 1) (g : BitVec 4) (s : BitVec 9) (u : BitVec 1) (st : State) :
    Host.Outcome State Fault Refusal := runTrigger (trigImul u) 0x14 n g s st
/-- IMULH (R153). -/
def execImulh (n : BitVec 1) (g : BitVec 4) (s : BitVec 9) (u : BitVec 1) (st : State) :
    Host.Outcome State Fault Refusal := runTrigger (trigImulh u) 0x15 n g s st
/-- IAND (R153). -/
def execIand (n : BitVec 1) (g : BitVec 4) (s : BitVec 9) (u : BitVec 1) (st : State) :
    Host.Outcome State Fault Refusal := runTrigger (trigIand u) 0x16 n g s st
/-- IOR (R153). -/
def execIor (n : BitVec 1) (g : BitVec 4) (s : BitVec 9) (u : BitVec 1) (st : State) :
    Host.Outcome State Fault Refusal := runTrigger (trigIor u) 0x17 n g s st
/-- IXOR (R153). -/
def execIxor (n : BitVec 1) (g : BitVec 4) (s : BitVec 9) (u : BitVec 1) (st : State) :
    Host.Outcome State Fault Refusal := runTrigger (trigIxor u) 0x18 n g s st
/-- ISHL (R153). -/
def execIshl (n : BitVec 1) (g : BitVec 4) (s : BitVec 9) (u : BitVec 1) (st : State) :
    Host.Outcome State Fault Refusal := runTrigger (trigIshl u) 0x19 n g s st
/-- ISHR (R153). -/
def execIshr (n : BitVec 1) (g : BitVec 4) (s : BitVec 9) (u : BitVec 1) (st : State) :
    Host.Outcome State Fault Refusal := runTrigger (trigIshr u) 0x1A n g s st
/-- ISAR (R153). -/
def execIsar (n : BitVec 1) (g : BitVec 4) (s : BitVec 9) (u : BitVec 1) (st : State) :
    Host.Outcome State Fault Refusal := runTrigger (trigIsar u) 0x1B n g s st
/-- IMIN (R153). -/
def execImin (n : BitVec 1) (g : BitVec 4) (s : BitVec 9) (u : BitVec 1) (st : State) :
    Host.Outcome State Fault Refusal := runTrigger (trigImin u) 0x1C n g s st
/-- IMAX (R153). -/
def execImax (n : BitVec 1) (g : BitVec 4) (s : BitVec 9) (u : BitVec 1) (st : State) :
    Host.Outcome State Fault Refusal := runTrigger (trigImax u) 0x1D n g s st
/-- IMINU (R153). -/
def execIminu (n : BitVec 1) (g : BitVec 4) (s : BitVec 9) (u : BitVec 1) (st : State) :
    Host.Outcome State Fault Refusal := runTrigger (trigIminu u) 0x1E n g s st
/-- IMAXU (R153). -/
def execImaxu (n : BitVec 1) (g : BitVec 4) (s : BitVec 9) (u : BitVec 1) (st : State) :
    Host.Outcome State Fault Refusal := runTrigger (trigImaxu u) 0x1F n g s st
/-- ICMP_EQ (R154). -/
def execIcmpEq (n : BitVec 1) (g : BitVec 4) (s : BitVec 9) (u : BitVec 1) (st : State) :
    Host.Outcome State Fault Refusal := runTrigger (trigIcmpEq u) 0x20 n g s st
/-- ICMP_LT (R154). -/
def execIcmpLt (n : BitVec 1) (g : BitVec 4) (s : BitVec 9) (u : BitVec 1) (st : State) :
    Host.Outcome State Fault Refusal := runTrigger (trigIcmpLt u) 0x21 n g s st
/-- ICMP_LTU (R154). -/
def execIcmpLtu (n : BitVec 1) (g : BitVec 4) (s : BitVec 9) (u : BitVec 1) (st : State) :
    Host.Outcome State Fault Refusal := runTrigger (trigIcmpLtu u) 0x22 n g s st
/-- CVT (R156). -/
def execCvt (n : BitVec 1) (g : BitVec 4) (s : BitVec 9) (u : BitVec 1) (st : State) :
    Host.Outcome State Fault Refusal := runTrigger (trigCvt u) 0x23 n g s st
/-- PACK (R158). -/
def execPack (n : BitVec 1) (g : BitVec 4) (s : BitVec 9) (u : BitVec 1) (st : State) :
    Host.Outcome State Fault Refusal := runTrigger (trigPack u) 0x24 n g s st
/-- UNPACK (R159). -/
def execUnpack (n : BitVec 1) (g : BitVec 4) (s : BitVec 9) (u : BitVec 1) (st : State) :
    Host.Outcome State Fault Refusal := runTrigger (trigUnpack u) 0x25 n g s st
/-- BCAST (R160). -/
def execBcast (n : BitVec 1) (g : BitVec 4) (s : BitVec 9) (u : BitVec 1) (st : State) :
    Host.Outcome State Fault Refusal := runTrigger (trigBcast u) 0x26 n g s st
/-- LANE (R160). -/
def execLane (n : BitVec 1) (g : BitVec 4) (s : BitVec 9) (u : BitVec 1) (st : State) :
    Host.Outcome State Fault Refusal := runTrigger (trigLane u) 0x27 n g s st
/-- MAND (R163). -/
def execMand (n : BitVec 1) (g : BitVec 4) (s : BitVec 9) (u : BitVec 1) (st : State) :
    Host.Outcome State Fault Refusal := runTrigger (trigMand u) 0x28 n g s st
/-- MOR (R163). -/
def execMor (n : BitVec 1) (g : BitVec 4) (s : BitVec 9) (u : BitVec 1) (st : State) :
    Host.Outcome State Fault Refusal := runTrigger (trigMor u) 0x29 n g s st
/-- MNOT (R163). -/
def execMnot (n : BitVec 1) (g : BitVec 4) (s : BitVec 9) (u : BitVec 1) (st : State) :
    Host.Outcome State Fault Refusal := runTrigger (trigMnot u) 0x2A n g s st

end Sys2Proof.Machine
end

