-- ==== Sys2Proof/Machine/Special.lean ====
section
/-! DEFINITION. VX operations (R161, R162, R164 to R171): special functions, reductions, error-free sums, lane
permutations, random lanes and masks. -/

namespace Sys2Proof.Machine

/-- A VX operation that delivers a vector to vx.r. -/
def vxOp (lat : Nat) (chk : Args → Check) (f : State → Args → Vec × Flags8) : Trigger :=
  { unit := 6
    check := fun _ a => chk a
    act := fun st a =>
      let (v, fl) := f st a
      modCore st a.core fun k => launchResult k 0x0F7 (some (.v v)) fl lat 0 }

/-- A VX operation that delivers to vx.r and vx.e. -/
def vxOp2 (lat : Nat) (f : Args → Vec × Vec × Flags8) : Trigger :=
  { unit := 6
    check := fun _ _ => .ok
    act := fun st a =>
      let (v, e, fl) := f a
      modCore st a.core fun k =>
        launchResult (launchResult k 0x0F7 (some (.v v)) fl lat 0) 0x0F8 (some (.v e)) 0 lat 0 }

/-! ### Special functions (R164, R165) -/

/-- The number 1. -/
def numOne : Num := .fin false 1 0

/-- A function by its values at the infinities and at zeros, and by its finite values (R165). -/
def special (atInf : Bool → Exact × Flags8) (atZero : Bool → Exact × Flags8) (fin : Bool → Nat → Int → Exact × Flags8) (x : Num) :
    Exact × Flags8 :=
  match x with
  | .nan _ => (.num (.nan false), sigFlag x)
  | .inf s => atInf s
  | .fin s m e => if m = 0 then atZero s else fin s m e

/-- A number without flags. -/
def plainE (x : Num) : Exact × Flags8 := (.num x, 0)

/-- exp2 exactly (R164, R165). -/
def exp2E : Num → Exact × Flags8 :=
  special (fun s => plainE (if s then .fin false 0 0 else .inf false)) (fun _ => plainE numOne)
    (fun s m e => (exp2Fin s m e, 0))

/-- log2 exactly (R164, R165). -/
def log2E : Num → Exact × Flags8 :=
  special (fun s => if s then (.num (.nan false), fNV) else plainE (.inf false)) (fun _ => (.num (.inf true), fDZ))
    (fun s m e => if s then (.num (.nan false), fNV) else (log2Fin m e, 0))

/-- tanh exactly (R164, R165). -/
def tanhE : Num → Exact × Flags8 :=
  special (fun s => plainE (.fin s 1 0)) (fun s => plainE (.fin s 0 0)) (fun s m e => (tanhFin s m e, 0))

/-- sigm exactly (R164, R165). -/
def sigmE : Num → Exact × Flags8 :=
  special (fun s => plainE (if s then .fin false 0 0 else numOne)) (fun _ => plainE (.fin false 1 (-1)))
    (fun s m e => (sigmFin s m e, 0))

/-- silu exactly (R164, R165). -/
def siluE : Num → Exact × Flags8 :=
  special (fun s => plainE (if s then .fin true 0 0 else .inf false)) (fun s => plainE (.fin s 0 0))
    (fun s m e => (siluFin s m e, 0))

/-- gelut exactly (R164, R165). -/
def gelutE : Num → Exact × Flags8 :=
  special (fun s => plainE (if s then .fin true 0 0 else .inf false)) (fun s => plainE (.fin s 0 0))
    (fun s m e => (gelutFin s m e, 0))

/-- Rounding to the nearest FP32 value, ties to even. -/
def rneLane (x : Exact) (fl : Flags8) : Lane × Flags8 := toLane (roundFmt fp32 false 0 0 x) fl

/-- A special function of the lanes (R164). -/
def vxSpecial (lat : Nat) (f : Num → Exact × Flags8) : Trigger :=
  vxOp lat noChk fun _ a => lanewise fun i =>
    let (x, fl) := f (laneNum a.va i)
    rneLane x fl

/-- rcp. -/
def trigRcp : Trigger := vxSpecial 12 rcpN
/-- rsq. -/
def trigRsq : Trigger := vxSpecial 12 rsqN
/-- sqrt. -/
def trigSqrt : Trigger := vxSpecial 12 sqrtN
/-- exp2. -/
def trigExp2 : Trigger := vxSpecial 14 exp2E
/-- log2. -/
def trigLog2 : Trigger := vxSpecial 14 log2E
/-- tanh. -/
def trigTanh : Trigger := vxSpecial 14 tanhE
/-- sigm. -/
def trigSigm : Trigger := vxSpecial 14 sigmE
/-- silu. -/
def trigSilu : Trigger := vxSpecial 14 siluE
/-- gelut. -/
def trigGelut : Trigger := vxSpecial 14 gelutE

/-! ### Reductions (R166 to R168) -/

/-- rmax and rmin (R166): NaN lanes are passed over. -/
def reduceMinMax (big : Bool) (v : Vec) : Lane × Flags8 :=
  (lanesOf v).foldl (fun acc x =>
    ((fpMinMax big acc.1 x).1, acc.2 ||| sigFlag (fp32.toNum x.toNat))) (nanLane, 0)

/-- rmax. -/
def trigRmax : Trigger := vxOp 8 noChk fun _ a => let (x, f) := reduceMinMax true a.va; (splat x, f)
/-- rmin. -/
def trigRmin : Trigger := vxOp 8 noChk fun _ a => let (x, f) := reduceMinMax false a.va; (splat x, f)

/-- An exact number rounded to FP32, as pattern, number and flags. -/
def rne32 (x : Num) : Nat × Num × Flags8 :=
  let (p, f) := roundFmt fp32 false 0 0 (.num x)
  (p, fp32.toNum p, f)

/-- The loop of rsum (R167) on finite lanes: the sum's and the error's patterns and the flags. -/
def rsumLoop : List Nat → Nat → Num → Num → Flags8 → Nat × Nat × Flags8
  | [], sp, s, e, fl =>
    if isZero e then (sp, 0, fl)
    else
      let x := (addN false s e).1
      let (rp, r, f1) := rne32 x
      let (ep, _, f2) := rne32 (addN false x (negN r)).1
      (rp, ep, fl ||| f1 ||| f2)
  | y :: ys, _, s, e, fl =>
    let x := (addN false s (fp32.toNum y)).1
    let (tp, t, f1) := rne32 x
    if isInf t then (tp, 0, fl ||| f1)
    else
      let (_, e', f2) := rne32 (addN false e (addN false x (negN t)).1).1
      rsumLoop ys tp t e' (fl ||| f1 ||| f2)

/-- rsum (R167): the sum, the error and the flags. -/
def rsumOf (v : Vec) : Lane × Lane × Flags8 :=
  let ls := (lanesOf v).map (·.toNat)
  let xs := ls.map fp32.toNum
  let pinf := xs.contains (.inf false)
  let ninf := xs.contains (.inf true)
  if xs.any isNan || (pinf && ninf) then
    (nanLane, 0, xs.foldl (fun a x => a ||| sigFlag x) 0 ||| fif (pinf && ninf) fNV)
  else if pinf then (0x7F800000, 0, 0)
  else if ninf then (0xFF800000, 0, 0)
  else
    let l0 := ls.headD 0
    let (r, e, f) := rsumLoop (ls.drop 1) l0 (fp32.toNum l0) (.fin false 0 0) 0
    (BitVec.ofNat 32 r, BitVec.ofNat 32 e, f)

/-- rsum. -/
def trigRsum : Trigger := vxOp2 10 fun a => let (r, e, f) := rsumOf a.va; (splat r, splat e, f)

/-- twosum of one lane (R168). -/
def twosumLane (a b : Lane) : Lane × Lane × Flags8 :=
  let (x, f) := addN false (fp32.toNum a.toNat) (fp32.toNum b.toNat)
  let (rp, r, f1) := rne32 x
  let e : Lane := if isNan r || isInf r then 0 else BitVec.ofNat 32 (rne32 (addN false x (negN r)).1).1
  (BitVec.ofNat 32 rp, e, f ||| f1)

/-- twosum. -/
def trigTwosum : Trigger :=
  vxOp2 6 fun a =>
    let rs := (List.range 64).map fun i => twosumLane (laneOf a.va i) (laneOf a.vb i)
    (ofLanes (rs.map (·.1)), ofLanes (rs.map (·.2.1)), rs.foldl (fun f x => f ||| x.2.2) 0)

/-! ### Permutations (R161, R162) -/

/-- perm. -/
def trigPerm : Trigger :=
  vxOp 3 noChk fun _ a => lanewise fun i => (laneOf a.va ((laneOf a.vb i).toNat % 64), 0)

/-- The control word of shuf: pattern, shift, reserved bits. -/
def shufOk (w : Nat) : Bool :=
  let p := bits w 3 0
  p < 6 && bits w 31 14 == 0 && bits w 7 4 == 0 && (p == 4 || bits w 13 8 == 0)

/-- Lane `i` of shuf under a pattern and a shift. -/
def shufLane (p s : Nat) (a b : Vec) (i : Nat) : Lane :=
  match p with
  | 0 => if i % 2 = 0 then laneOf a (i / 2) else laneOf b (i / 2)
  | 1 => if i % 2 = 0 then laneOf a (32 + i / 2) else laneOf b (32 + i / 2)
  | 2 => if i < 32 then laneOf a (2 * i) else laneOf b (2 * (i - 32))
  | 3 => if i < 32 then laneOf a (2 * i + 1) else laneOf b (2 * (i - 32) + 1)
  | 4 => if i + s < 64 then laneOf a (i + s) else laneOf b (i + s - 64)
  | _ => laneOf a (63 - i)

/-- shuf. -/
def trigShuf : Trigger :=
  vxOp 3 (fun a => illctlIf (!shufOk a.c.toNat) 2 a.c.toNat) fun _ a =>
    lanewise fun i => (shufLane (bits a.c.toNat 3 0) (bits a.c.toNat 13 8) a.va a.vb i, 0)

/-! ### Random lanes (R170, R171) -/

/-- The draw of a lane: STEP and CHI, TAG from lanes 1 and 2 of port c, the coordinate from port a. -/
def rngDraw (st : State) (a : Args) (i : Nat) : Nat :=
  let l2 := (laneOf a.vc 2).toNat
  genG (coreOf st a.core).csr.seed.toNat (laneOf a.vc 1).toNat (l2 % 2 ^ 16)
    ((l2 / 2 ^ 16 * 2 ^ 32 + (laneOf a.va i).toNat) % 2 ^ 48)

/-- The pattern that a form of rng gives for a draw. -/
def rngForm (form r : Nat) : Lane :=
  let h := r / 256
  match form with
  | 0 => BitVec.ofNat 32 r
  | 1 => BitVec.ofNat 32 (rne32 (.fin false h (-24))).1
  | _ => BitVec.ofNat 32 (rne32 (ofScaled (2 * h + 1 - 2 ^ 24) (-24) false)).1

/-- rng. -/
def trigRng : Trigger :=
  vxOp 6 (fun a => illctlIf (decide (3 ≤ a.b.toNat)) 1 a.b.toNat) fun st a =>
    lanewise fun i => (rngForm (a.b.toNat % 4) (rngDraw st a i), 0)

/-- dropm. -/
def trigDropm : Trigger :=
  { unit := 6
    check := fun _ a => (illctlIf (decide (0x10000 < a.b.toNat)) 1 a.b.toNat).andThen
      (illctlIf (decide (1 < a.d.toNat)) 3 a.d.toNat)
    act := fun st a =>
      let (m, _) := lanemask fun i =>
        (decide (rngDraw st a i / 2 ^ 16 < a.b.toNat) != a.d.toNat.testBit 0, 0)
      modCore st a.core fun k => launchResult k 0x0F9 (some (.s m)) 0 6 0 }

/-! ### The meanings of the slots that trigger them (R91) -/

/-- RCP (R164). -/
def execRcp (n : BitVec 1) (g : BitVec 4) (s : BitVec 9) (st : State) :
    Host.Outcome State Fault Refusal := runTrigger trigRcp 0x04 n g s st
/-- RSQ (R164). -/
def execRsq (n : BitVec 1) (g : BitVec 4) (s : BitVec 9) (st : State) :
    Host.Outcome State Fault Refusal := runTrigger trigRsq 0x05 n g s st
/-- SQRT (R164). -/
def execSqrt (n : BitVec 1) (g : BitVec 4) (s : BitVec 9) (st : State) :
    Host.Outcome State Fault Refusal := runTrigger trigSqrt 0x06 n g s st
/-- EXP2 (R164). -/
def execExp2 (n : BitVec 1) (g : BitVec 4) (s : BitVec 9) (st : State) :
    Host.Outcome State Fault Refusal := runTrigger trigExp2 0x07 n g s st
/-- LOG2 (R164). -/
def execLog2 (n : BitVec 1) (g : BitVec 4) (s : BitVec 9) (st : State) :
    Host.Outcome State Fault Refusal := runTrigger trigLog2 0x08 n g s st
/-- TANH (R164). -/
def execTanh (n : BitVec 1) (g : BitVec 4) (s : BitVec 9) (st : State) :
    Host.Outcome State Fault Refusal := runTrigger trigTanh 0x09 n g s st
/-- SIGM (R164). -/
def execSigm (n : BitVec 1) (g : BitVec 4) (s : BitVec 9) (st : State) :
    Host.Outcome State Fault Refusal := runTrigger trigSigm 0x0A n g s st
/-- SILU (R164). -/
def execSilu (n : BitVec 1) (g : BitVec 4) (s : BitVec 9) (st : State) :
    Host.Outcome State Fault Refusal := runTrigger trigSilu 0x0B n g s st
/-- GELUT (R164). -/
def execGelut (n : BitVec 1) (g : BitVec 4) (s : BitVec 9) (st : State) :
    Host.Outcome State Fault Refusal := runTrigger trigGelut 0x0C n g s st
/-- RMAX (R166). -/
def execRmax (n : BitVec 1) (g : BitVec 4) (s : BitVec 9) (st : State) :
    Host.Outcome State Fault Refusal := runTrigger trigRmax 0x0D n g s st
/-- RMIN (R166). -/
def execRmin (n : BitVec 1) (g : BitVec 4) (s : BitVec 9) (st : State) :
    Host.Outcome State Fault Refusal := runTrigger trigRmin 0x0E n g s st
/-- RSUM (R167). -/
def execRsum (n : BitVec 1) (g : BitVec 4) (s : BitVec 9) (st : State) :
    Host.Outcome State Fault Refusal := runTrigger trigRsum 0x0F n g s st
/-- TWOSUM (R168). -/
def execTwosum (n : BitVec 1) (g : BitVec 4) (s : BitVec 9) (st : State) :
    Host.Outcome State Fault Refusal := runTrigger trigTwosum 0x10 n g s st
/-- PERM (R161). -/
def execPerm (n : BitVec 1) (g : BitVec 4) (s : BitVec 9) (st : State) :
    Host.Outcome State Fault Refusal := runTrigger trigPerm 0x11 n g s st
/-- SHUF (R162). -/
def execShuf (n : BitVec 1) (g : BitVec 4) (s : BitVec 9) (st : State) :
    Host.Outcome State Fault Refusal := runTrigger trigShuf 0x12 n g s st
/-- RNG (R170). -/
def execRng (n : BitVec 1) (g : BitVec 4) (s : BitVec 9) (st : State) :
    Host.Outcome State Fault Refusal := runTrigger trigRng 0x13 n g s st
/-- DROPM (R171). -/
def execDropm (n : BitVec 1) (g : BitVec 4) (s : BitVec 9) (st : State) :
    Host.Outcome State Fault Refusal := runTrigger trigDropm 0x14 n g s st

end Sys2Proof.Machine
end

