-- ==== Sys2Proof/Machine/Sync.lean ====
section
/-! DEFINITION. SY operations (R136 to R142, R242 to R244): transaction barriers and their combined updates (R26, R27),
ticks, and the pigeonholes (R375 to R377); with the events in which barriers are updated and observed and flits land. -/

namespace Sys2Proof.Machine

/-! ### Barrier addresses (R136) -/

/-- The physical address of a barrier whose checks have passed. -/
def barPa (st : State) (a : Args) (va : Nat) (write : Bool) : Nat :=
  match xlateOp st a va write with
  | .ok pa _ _ => pa
  | _ => 0

/-- TBERR of an address that has a translation: detail 1 in global memory; with `ownOnly`, detail 2 for a remote
scratchpad (R136). -/
def barTarget (c pa va : Nat) (ownOnly : Bool) : Check :=
  match target pa with
  | .scratch o _ => faultIf (ownOnly && o != c) 11 2 va
  | _ => .fault 11 1 va

/-- The checks of a barrier address in the order of R124, then TBERR and the hold of R265. -/
def barCheck (st : State) (a : Args) (va : Nat) (write ownOnly : Bool) : Check :=
  (faultIf (va % 16 != 0) 7 0 va).andThen ((xlCheck st a va write).andThen
    ((barTarget a.core (barPa st a va write) va ownOnly).andThen
      (if remoteHeld st (place st a [{ va := va, n := 1 }] write) then .hold .remote 0 else .ok)))

/-! ### Barrier fields (R26) -/

/-- GEN. -/
def barGen (x : Nat) : Nat := bits x 31 0
/-- ARRV. -/
def barArrv (x : Nat) : Nat := bits x 55 32
/-- UNDER. -/
def barUnder (x : Nat) : Bool := bit x 56
/-- SECT. -/
def barSect (x : Nat) : Nat := bits x 95 64
/-- ARRVI. -/
def barArrvi (x : Nat) : Nat := bits x 119 96

/-- A barrier from its fields, with the reserved bits of `old` (R26). -/
def barMake (old gen arrv : Nat) (under : Bool) (sect arrvi : Nat) : Nat :=
  gen % 2 ^ 32 + (arrv % 2 ^ 24) * 2 ^ 32 + b2n under * 2 ^ 56 + bits old 63 57 * 2 ^ 57 + (sect % 2 ^ 32) * 2 ^ 64
    + (arrvi % 2 ^ 24) * 2 ^ 96 + bits old 127 120 * 2 ^ 120

/-- The sums of one tick: arrivals, increments, decrements, and the value of a tbinit, if any (R27, R137).
DESIGN CHOICE (log 44): of several tbinits in one tick the last of the list stands. -/
def barSums (l : List BarKind) : Nat × Nat × Nat × Option Nat :=
  l.foldl (fun (x : Nat × Nat × Nat × Option Nat) k =>
    let (arr, inc, dec, ini) := x
    match k with
    | .init v => (arr, inc, dec, some v)
    | .arr n => (arr + n, inc, dec, ini)
    | .exp n => (arr, inc + n, dec, ini)
    | .dec n => (arr, inc, dec + n, ini)) (0, 0, 0, none)

/-- THE COMBINED UPDATE of a barrier by all updates of a tick (R27, R137): the fields are netted exactly, a result below
zero or a SECT above `2^32 − 1` sets UNDER, and the barrier completes when ARRV and SECT are zero and UNDER is 0. A tbinit
applies last and discards the others. -/
def barUpdate (old : Nat) (l : List BarKind) : Nat :=
  let (arr, inc, dec, ini) := barSums l
  match ini with
  | some v => barMake 0 0 v false 0 v
  | none =>
    let a : Int := (barArrv old : Int) - arr
    let s : Int := (barSect old : Int) + inc - dec
    let under := barUnder old || decide (a < 0) || decide (s < 0) || decide ((2 ^ 32 - 1 : Int) < s)
    let a' := a.toNat
    let s' := min s.toNat (2 ^ 32 - 1)
    if a' = 0 ∧ s' = 0 ∧ under = false then barMake old (barGen old + 1) (barArrvi old) under s' (barArrvi old)
    else barMake old (barGen old) a' under s' (barArrvi old)

/-! ### Observing a barrier (R138, R139, R230) -/

/-- The delay after which core `c` observes a change at a barrier's home (R138). -/
def gwDelay (c pa : Nat) : Nat :=
  match target pa with
  | .scratch o _ => if o = c then 1 else if dieIx o = dieIx c then 48 else 120
  | _ => 120

/-- The die of a barrier's home. -/
def homeDie (pa : Nat) : Nat :=
  match target pa with
  | .scratch o _ => dieIx o
  | _ => 0

/-- Whether core `c` has still to observe an update: its notice has not come and its delay has not passed (R138). DESIGN CHOICE
(log 34): the delay of a remote observation counts in the DTICK of the home's die. -/
def unseenBar (st : State) (c : Nat) (r : BarRec) : Bool :=
  !r.told.contains c && decide ((dieOf st (homeDie r.addr)).dtick < r.tick + gwDelay c r.addr)

/-- Bits [63:0] of a barrier as core `c` observes them: before the first update still to be observed (R138). -/
def observedBar (st : State) (c pa : Nat) : Nat :=
  match st.bars.find? fun r => r.addr == pa && unseenBar st c r with
  | some r => r.before.toNat
  | none => memNat st.mem pa 8

/-- The landed writes of commands of core `c` count as its own writes (R230). -/
def seeCmds (st : State) (c : Nat) (ids : List Nat) : State :=
  if ids.isEmpty then st
  else
    let t := st.stamp
    let log := st.wlog.map fun r =>
      if r.core = c ∧ (r.cmd.any ids.contains) = true ∧ seenAt r c t = false then { r with seen := (c, t) :: r.seen } else r
    nextStamp (takeWaits { st with wlog := log } c)

/-- Commands of core `c` that it observes complete: their writes count as its own, and a publish covers them (R133, R230). -/
def observeCmds (st : State) (c : Nat) (ids : List Nat) : State :=
  if ids.isEmpty then st
  else seeCmds (modCore st c fun k => { k with obs := ids ++ k.obs.filter fun x => !ids.contains x }) c ids

/-- Observing generation `gen` of a barrier shows complete the commands whose decrements counted toward an earlier one
(R230). -/
def observeGen (st : State) (c pa gen : Nat) : State :=
  let mine := st.barCmds.filter fun b => b.addr == pa && b.core == c && decide (0 < serial gen b.gen.toNat)
  observeCmds { st with barCmds := st.barCmds.filter fun b =>
    !(b.addr == pa && b.core == c && decide (0 < serial gen b.gen.toNat)) } c (mine.map (·.cmd))

/-- A barrier update leaves core `c` for the barrier's home (R136): it performs after the padded latency of the home's
region. -/
def sendBar (st : State) (c pa : Nat) (kind : BarKind) (afterPub cmd stamp : Nat) : State :=
  modCore st c fun k => { k with bups := k.bups ++
    [{ kind := kind, addr := pa, due := k.now + padLoad (regionOf c pa), afterPub := afterPub, cmd := cmd, stamp := stamp }] }

/-! ### Barrier operations -/

/-- tbinit, tbarr, tbexp (R137); tbarr and tbexp perform only after the publishes before them (R133). -/
def syBar (limit : Nat) (waits : Bool) (kind : Nat → BarKind) : Trigger :=
  { unit := 10
    check := fun st a => (illctlIf (decide (limit ≤ a.b.toNat)) 1 a.b.toNat).andThen (barCheck st a a.a.toNat true false)
    act := fun st a =>
      nextStamp (sendBar st a.core (barPa st a a.a.toNat true) (kind a.b.toNat)
        (if waits then lastPub (coreOf st a.core) else 0) 0 st.stamp) }

/-- tbinit. -/
def trigTbinit : Trigger := syBar (2 ^ 24) false .init
/-- tbarr. -/
def trigTbarr : Trigger := syBar (2 ^ 24) true .arr
/-- tbexp. -/
def trigTbexp : Trigger := syBar (2 ^ 32) true .exp

/-- The wait of tbwait (R138): TBERR when UNDER is observed, else held until GEN has reached the target. -/
def tbwaitCheck (st : State) (a : Args) : Check :=
  (barCheck st a a.c.toNat false false).andThen
    (let x := observedBar st a.core (barPa st a a.c.toNat false)
     if barUnder x then .fault 11 0 a.c.toNat
     else if 0 ≤ serial (barGen x) ((a.a.toNat + a.b.toNat) % 2 ^ 32) then .ok
     else .hold .tbwait (budgetOf a))

/-- tbwait (R138). -/
def trigTbwait : Trigger :=
  { unit := 10
    check := tbwaitCheck
    act := fun st a =>
      let pa := barPa st a a.c.toNat false
      observeGen st a.core pa (barGen (observedBar st a.core pa)) }

/-- A result of SY (R95). -/
def syResult (st : State) (a : Args) (lat : Nat) (x : Word) : State :=
  modCore st a.core fun k => launchResult k 0x100 (some (.s x)) 0 lat 0

/-- tbtest (R139): a sample of the core's own barrier. -/
def trigTbtest : Trigger :=
  { unit := 10
    check := fun st a => barCheck st a a.a.toNat false true
    act := fun st a =>
      let pa := barPa st a a.a.toNat false
      let x := memNat st.mem pa 8
      syResult (observeGen st a.core pa (barGen x)) a 12 (BitVec.ofNat 64 x) }

/-! ### Ticks (R140, R141) -/

/-- DEVCTL.ALN_OVR (R20). -/
def alnOvr (k : Core) : Nat := bits k.csr.devctl.toNat 31 16

/-- Whether the core is held by a cause. -/
def heldBy (k : Core) (h : HoldCause) : Bool :=
  match k.held with
  | some x => x.cause == h
  | none => false

/-- The test of tkaln (R140); an arrival in time that a freeze delayed is no overrun, while its bundle is held and once it has
opened. -/
def tkalnCheck (st : State) (a : Args) : Check :=
  let k := coreOf st a.core
  let t := (dieOf st (dieIx a.core)).atick
  if t < a.a.toNat then .hold .tkaln (budgetOf a)
  else if heldBy k .tkaln || (issueOf k).heldFor == some .tkaln || decide (t ≤ a.a.toNat + alnOvr k) then .ok
  else .fault 25 0 t

/-- tkaln: the interval tag becomes the target modulo 2^32 (R140, R242). -/
def trigTkaln : Trigger :=
  { unit := 10
    check := tkalnCheck
    act := fun st a => modCore st a.core fun k => { k with itag := a.a.setWidth 32 } }

/-- tkrd (R141). -/
def trigTkrd : Trigger :=
  { unit := 10
    check := fun _ a => illctlIf (decide (1 < a.a.toNat)) 0 a.a.toNat
    act := fun st a =>
      let d := dieOf st (dieIx a.core)
      syResult st a 2 (BitVec.ofNat 64 (if a.a = 0 then d.dtick else d.atick)) }

/-! ### Pigeonholes (R242 to R244, R361, R375 to R377) -/

/-- The package reference: the smallest DTICK (R367). -/
def refTick (st : State) : Nat :=
  min (min (dieOf st 0).dtick (dieOf st 1).dtick) (min (dieOf st 2).dtick (dieOf st 3).dtick)

/-- The die at the far end of a link port 0 to 3 (R361). -/
def neighbour (d port : Nat) : Nat := if port < 2 then d ^^^ 1 else d ^^^ 2

/-- A local address of a CP or SY operation (R220). -/
def localForm (x : Nat) : Bool := x.testBit 63 && bits x 62 22 == 0

/-- The offset of a local address. -/
def localOff (x : Nat) : Nat := bits x 21 0

/-- The key of a pigeonhole position in a die's table. -/
def phKey (port par pos : Nat) : Nat := (port * 2 + par) * 64 + pos

/-- The operand checks of phsend and phrecv: the local form of port a, the fields of b, the count. -/
def phChecks (a b count countPort countVal : Nat) (bTop : Nat) : Check :=
  (illctlIf (!localForm a || localOff a % 64 != 0) 0 a).andThen
    ((illctlIf (decide (2 ^ bTop ≤ b)) 1 b).andThen
      ((illctlIf (count == 0 || decide (64 < count) || decide (64 < bits b 8 3 + count)) countPort countVal).andThen
        (illctlIf (decide (scratchBytes < localOff a + 64 * count)) countPort countVal)))

/-- The hold of phsend (R243): earlier stores to its source and earlier publishes. -/
def phsendHold (st : State) (a : Args) : Check :=
  let k := coreOf st a.core
  let base := windowBase a.core + localOff a.a.toNat
  let n := 64 * a.c.toNat
  let busy := k.accs.any fun x => x.chunks.any fun ch =>
    decide (ch.1 < base + n) && decide (base < ch.1 + max ch.2.length (if x.atomic.isSome then 8 else 0))
  if busy || !k.pubs.isEmpty then .hold .phsend 0 else .ok

/-- phsend (R243): the flits leave with the interval tag; each lands within 112 ticks of the package reference, at a
free time (log 8). -/
def sendFlits (st : State) (a : Args) : State :=
  let c := a.core
  let d := dieIx c
  let port := bits a.b.toNat 1 0
  let off := localOff a.a.toNat
  let tag := (coreOf st c).itag
  let now := refTick st
  (List.range a.c.toNat).foldl (fun st i =>
    let bs := viewRead st c (bundleStamp st c) (windowBase c + off + 64 * i) 64
    let (t, st) := draw st 1 112
    modDie st (neighbour d port) fun x => { x with phFlits := x.phFlits ++
      [{ port := port, par := bits a.b.toNat 2 2, pos := bits a.b.toNat 8 3 + i, tag := tag,
         data := BitVec.ofNat 512 (leNat bs), due := now + t }] }) (nextStamp st)

/-- phsend. -/
def trigPhsend : Trigger :=
  { unit := 10
    check := fun st a => (phChecks a.a.toNat a.b.toNat a.c.toNat 2 a.c.toNat 9).andThen (phsendHold st a)
    act := sendFlits }

/-- The positions of a phrecv. -/
def phSample (st : State) (c b : Nat) : List PhPos :=
  (List.range (bits b 15 9)).map fun i =>
    tget phEmpty (dieOf st (dieIx c)).pigeon (phKey (bits b 1 0) (bits b 2 2) (bits b 8 3 + i))

/-- A position that holds a tag older than the expected one; an invalid position counts as older (R244, R375). -/
def phOlder (c : Nat) (p : PhPos) : Bool := !p.valid || decide (serial p.tag.toNat c < 0)

/-- How long the core has been held by phrecv. -/
def phHeldFor (st : State) (c : Nat) : Nat :=
  match (coreOf st c).held with
  | some h => if h.cause = .phrecv then (dieOf st (dieIx c)).dtick - h.since else 0
  | none => 0

/-- The wait of phrecv (R244). -/
def phrecvWait (st : State) (a : Args) : Check :=
  let ps := phSample st a.core a.b.toNat
  let tag := a.c.toNat
  if ps.any (phOlder tag) then
    if phHeldFor st a.core ≤ alnOvr (coreOf st a.core) then .hold .phrecv (budgetOf a)
    else .fault 26 0 (localOff a.a.toNat)
  else if ps.all fun p => p.tag.toNat == tag then .ok
  else .fault 26 1 (localOff a.a.toNat)

/-- phrecv (R244): the sampled flits are copied through the linear view; the copy performs before any access of a later bundle, first
of the writes of the next tick (R267; log 5). -/
def trigPhrecv : Trigger :=
  { unit := 10
    check := fun st a =>
      (phChecks a.a.toNat a.b.toNat (bits a.b.toNat 15 9) 1 a.b.toNat 16).andThen
        ((illctlIf (decide (2 ^ 32 ≤ a.c.toNat)) 2 a.c.toNat).andThen (phrecvWait st a))
    act := fun st a =>
      let bytes := (phSample st a.core a.b.toNat).flatMap fun p => leBytes 64 p.data.toNat
      modCore (nextStamp st) a.core fun k => { k with copies := k.copies ++ [(windowBase a.core + localOff a.a.toNat, bytes, st.stamp)] } }

/-! ### Events -/

/-- Whether a barrier update of core `c` reaches die `d` in this tick (R133, R136, R229): its tick has come, the
publishes before it have completed, and no earlier tbexp of the core on the barrier is still on its way. -/
def barDue (k : Core) (d : Nat) (u : BarUpd) : Bool :=
  homeDie u.addr == d && decide (u.due ≤ k.now) && pubDone k u.afterPub &&
    (match u.kind with
     | .dec _ => !k.bups.any fun v => v.addr == u.addr && decide (v.stamp < u.stamp) &&
        (match v.kind with | .exp _ => !(decide (v.due ≤ k.now) && pubDone k v.afterPub) | _ => false)
     | _ => true)

/-- The updates that reach die `d` in this tick, with the cores that issued them. -/
def barArrivals (st : State) (d : Nat) : List (Nat × BarUpd) :=
  st.cores.flatMap fun x => (x.2.bups.filter (barDue x.2 d)).map fun u => (x.1, u)

/-- One barrier takes its combined update of the tick (R27, R138). -/
def updateBarrier (st : State) (d pa : Nat) (ups : List (Nat × BarUpd)) : State :=
  let old := memNat st.mem pa 16
  let new := barUpdate old (ups.map (·.2.kind))
  let home := match target pa with
    | .scratch o _ => o
    | _ => 0
  let isInit := ups.any fun u => match u.2.kind with | .init _ => true | _ => false
  let cmds := ups.filterMap fun u => match u.2.kind with
    | .dec _ => if u.2.cmd = 0 ∨ isInit then none
                else some { addr := pa, core := u.1, cmd := u.2.cmd, gen := BitVec.ofNat 32 (barGen old) : BarCmd }
    | _ => none
  let st := perform st home pa (leBytes 16 new) st.stamp [(home, st.stamp)] (some .p) .core none
  { st with
    bars := (st.bars.filter fun r => decide ((dieOf st (homeDie r.addr)).dtick < r.tick + 120)) ++
      [{ addr := pa, tick := (dieOf st d).dtick, before := BitVec.ofNat 64 old, told := [] }]
    barCmds := st.barCmds ++ cmds }

/-- BARRIER_UPDATE: every barrier homed on die `d` takes the updates that reach it in this tick (R27). -/
def execBarrierUpdate (d : Nat) (st : State) : Host.Outcome State Fault Refusal :=
  if numDies ≤ d then .fault .noSuchAgent
  else
    let ups := barArrivals st d
    let addrs := (ups.map (·.2.addr)).eraseDups
    let st := ups.foldl (fun st u => modCore st u.1 fun k =>
      { k with bups := k.bups.filter fun v => !(v == u.2) }) st
    .next (addrs.foldl (fun st pa => updateBarrier st d pa (ups.filter fun u => u.2.addr == pa)) st)

/-- GEN_NOTICE: core `c` observes the updates whose delay has passed (R138). -/
def execGenNotice (c : Nat) (st : State) : Host.Outcome State Fault Refusal :=
  if numCores ≤ c then .fault .noSuchAgent
  else
    let tell := fun (r : BarRec) =>
      if r.told.contains c ∨ (dieOf st (homeDie r.addr)).dtick < r.tick + gwDelay c r.addr then r
      else { r with told := c :: r.told }
    .next { st with bars := st.bars.map tell }

/-- PIGEONHOLE_FLIT_LAND: flits whose time has come land in die `d`'s slots, in order (R243, R376). -/
def execPigeonholeFlitLand (d : Nat) (st : State) : Host.Outcome State Fault Refusal :=
  if numDies ≤ d then .fault .noSuchAgent
  else
    let now := refTick st
    .next (modDie st d fun x =>
      { x with
        pigeon := (x.phFlits.filter fun f => decide (f.due ≤ now)).foldl (fun t f =>
          tset phEmpty t (phKey f.port f.par f.pos) { valid := true, tag := f.tag, data := f.data }) x.pigeon
        phFlits := x.phFlits.filter fun f => !decide (f.due ≤ now) })

/-- PIGEONHOLE_SCRUB: positions of die `d` with a tag older than ATICK − 2^30 lose V (R377). -/
def execPigeonholeScrub (d : Nat) (st : State) : Host.Outcome State Fault Refusal :=
  if numDies ≤ d then .fault .noSuchAgent
  else .next (modDie st d fun x =>
    let old := wrap 32 ((x.atick : Int) - 2 ^ 30)
    { x with pigeon := clearValid (fun p => decide (serial p.tag.toNat old < 0)) x.pigeon })

/-! ### The meanings of the slots that trigger them (R95) -/

/-- TBINIT (R137). -/
def execTbinit (n : BitVec 1) (g : BitVec 4) (s : BitVec 9) (st : State) :
    Host.Outcome State Fault Refusal := runTrigger trigTbinit 0x04 n g s st
/-- TBARR (R137). -/
def execTbarr (n : BitVec 1) (g : BitVec 4) (s : BitVec 9) (st : State) :
    Host.Outcome State Fault Refusal := runTrigger trigTbarr 0x05 n g s st
/-- TBEXP (R137). -/
def execTbexp (n : BitVec 1) (g : BitVec 4) (s : BitVec 9) (st : State) :
    Host.Outcome State Fault Refusal := runTrigger trigTbexp 0x06 n g s st
/-- TBWAIT (R138). -/
def execTbwait (n : BitVec 1) (g : BitVec 4) (s : BitVec 9) (st : State) :
    Host.Outcome State Fault Refusal := runTrigger trigTbwait 0x07 n g s st
/-- TBTEST (R139). -/
def execTbtest (n : BitVec 1) (g : BitVec 4) (s : BitVec 9) (st : State) :
    Host.Outcome State Fault Refusal := runTrigger trigTbtest 0x08 n g s st
/-- TKALN (R140). -/
def execTkaln (n : BitVec 1) (g : BitVec 4) (s : BitVec 9) (st : State) :
    Host.Outcome State Fault Refusal := runTrigger trigTkaln 0x09 n g s st
/-- TKRD (R141). -/
def execTkrd (n : BitVec 1) (g : BitVec 4) (s : BitVec 9) (st : State) :
    Host.Outcome State Fault Refusal := runTrigger trigTkrd 0x0A n g s st
/-- PHSEND (R243). -/
def execPhsend (n : BitVec 1) (g : BitVec 4) (s : BitVec 9) (st : State) :
    Host.Outcome State Fault Refusal := runTrigger trigPhsend 0x0B n g s st
/-- PHRECV (R244). -/
def execPhrecv (n : BitVec 1) (g : BitVec 4) (s : BitVec 9) (st : State) :
    Host.Outcome State Fault Refusal := runTrigger trigPhrecv 0x0C n g s st

end Sys2Proof.Machine
end

