-- ==== Sys2Proof/Machine/Stream.lean ====
section
/-! DEFINITION. SS operations (R201 to R219): stream descriptors, exact adds with SSQ and WRAPC (R34, R35, R208), reads
through the normalising port (R210, R211), fences (R212), eviction, restore and the view export (R214 to R217); with the
events in which they act and flits perform. -/

namespace Sys2Proof.Machine

/-! ### Addresses and rows (R201) -/

/-- SID of a stream address. -/
def sidOf (x : Nat) : Nat := bits x 31 28
/-- ROW. -/
def rowOf (x : Nat) : Nat := bits x 27 16
/-- EL. -/
def elOf (x : Nat) : Nat := bits x 15 0

/-- Elements of a store and entries of its row table (R23). -/
def storeElems : Nat := 196608
/-- Row table entries. -/
def storeRows : Nat := 4096

/-- A row whose elements are zero. -/
def rowZero : RowMeta := { ssq := 0, wrapc := 0 }

/-- The key of a row in the table: rows belong to their descriptor. -/
def rowKey (sid row : Nat) : Nat := sid * 4096 + row

/-- A row's SSQ and WRAPC. -/
def rowMeta (s : Store) (sid row : Nat) : RowMeta := tget rowZero s.rows (rowKey sid row)

/-- Descriptor `sid`, when valid. -/
def descOf (s : Store) (sid : Nat) : Option Desc := tget none s.desc sid

/-- The store element of element `el` of row `row` (R201). -/
def elemIx (d : Desc) (row el : Nat) : Nat := d.first + row * d.n + el

/-- Whether a row and an element lie inside a stream. -/
def inStream (d : Desc) (row el : Nat) : Bool := decide (row < d.rows) && decide (el < d.n)

/-! ### Events of SSSTAT (R218) -/

/-- An event with an ECODE: 1 CDROP, 2 WOVF, 4 SSQERR; the first of a tick is kept for a software write of the tick (R21). -/
def ssEvent (k : Core) (code sid : Nat) : Core :=
  let bitv : Nat := if code = 1 then 2 ^ 11 else if code = 2 then 2 ^ 10 else 0
  let e := BitVec.ofNat 64 (code * 2 ^ 16 + sid * 2 ^ 20)
  orSsstat { k with csr := { k.csr with ssstat := ssRecord k.csr.ssstat e }, ssEvt := k.ssEvt.or (some (k.csr.ssstat, e)) }
    (BitVec.ofNat 64 bitv)

/-! ### Adds (R34, R35, R208) -/

/-- WRAPC after a change, with WOVF when it wraps. -/
def addWrap (k : Core) (sid row : Nat) (w : Int) : Core :=
  let m := rowMeta k.ss sid row
  let t := m.wrapc.toInt + w
  let k := { k with ss := { k.ss with
    rows := tset rowZero k.ss.rows (rowKey sid row) { m with wrapc := BitVec.ofInt 16 t } } }
  if t < -32768 ∨ 32767 < t then ssEvent k 2 sid else k

/-- ONE ADD of an integer to an element of a valid row (R35, R208). -/
def addElem (k : Core) (d : Desc) (sid row el : Nat) (q : Int) : Core :=
  let ix := elemIx d row el
  let old := (tget 0 k.ss.elems ix).toInt
  let t := old + q
  let new : BitVec 48 := BitVec.ofInt 48 t
  let m := rowMeta k.ss sid row
  let ssq : Int := (m.ssq.toNat : Int) + new.toInt * new.toInt - old * old
  let k := { k with ss := { k.ss with
    elems := tset 0 k.ss.elems ix new
    rows := tset rowZero k.ss.rows (rowKey sid row) { m with ssq := BitVec.ofInt 112 ssq } } }
  addWrap k sid row ((t - new.toInt) / 2 ^ 48)

/-- A row set to zero. -/
def clearRow (s : Store) (d : Desc) (sid row : Nat) : Store :=
  { s with elems := s.elems.filter fun x => !(decide (elemIx d row 0 ≤ x.1) && decide (x.1 < elemIx d row 0 + d.n))
           rows := tset rowZero s.rows (rowKey sid row) rowZero }

/-! ### Descriptors (R204, R205) -/

/-- Fields of salloc's ports b and c: release, f, n, rows, first. -/
def sallocRel (b : Nat) : Bool := b.testBit 22
/-- n. -/
def sallocN (b : Nat) : Nat := bits b 15 0 + 1
/-- f. -/
def sallocF (b : Nat) : Nat := bits b 21 16
/-- Rows. -/
def sallocRows (c : Nat) : Nat := bits c 29 18 + 1
/-- FIRST. -/
def sallocFirst (c : Nat) : Nat := bits c 17 0

/-- The descriptor table after a descriptor operation (R204, R205). -/
def applyDesc (t : Tab (Option Desc)) (op a b c : Nat) : Tab (Option Desc) :=
  let sid := a % 16
  match op with
  | 0x04 =>
    if sallocRel b then tset none t sid none
    else tset none t sid (some { first := sallocFirst c, rows := sallocRows c, n := sallocN b, f := sallocF b, unit := true,
                                 gain := 0, eps := 0 })
  | 0x0F =>
    match tget none t sid with
    | some d => tset none t sid (some { d with unit := b.testBit 63, gain := bits b 21 0 })
    | none => t
  | 0x10 =>
    match tget none t sid with
    | some d => tset none t sid (some { d with eps := if b % 2 ^ 32 = 2 ^ 31 then 0 else BitVec.ofNat 32 b })
    | none => t
  | _ => t

/-- The descriptors as the SS operations that have issued leave them (R203). -/
def descsAfter (s : Store) : Tab (Option Desc) :=
  s.ops.foldl (fun t o => applyDesc t o.op o.a.toNat o.b.toNat o.c.toNat) s.desc

/-- Descriptor `sid` as the operations that have issued leave it. -/
def descAfter (k : Core) (sid : Nat) : Option Desc := tget none (descsAfter k.ss) sid

/-! ### Issue checks (R203) -/

/-- The check of a stream address in port a: upper bits, and for a row address EL. `clr` allows bit 63, which sevict takes as CLR
and sview ignores (R216; log 30). -/
def saddrCheck (a : Nat) (rowAddr clr : Bool) : Check :=
  illctlIf (bits a 62 32 != 0 || (!clr && a.testBit 63) || (rowAddr && elOf a != 0)) 0 a

/-- SSADDR of a stream address against the descriptors (R203). -/
def ssaddrCheck (k : Core) (a : Nat) (cnt : Nat) : Check :=
  match descAfter k (sidOf a) with
  | none => .fault 12 0 (a % 2 ^ 32)
  | some d => faultIf (!inStream d (rowOf a) (elOf a + cnt)) 12 1 (a % 2 ^ 32)

/-- The wait of a fence (R212): `scope` 0 local, 1 die, 2 package; `sid` 16 selects every stream. Flits count in ticks of the die, since
they are accepted during a freeze too (R266). -/
def fenceCheck (st : State) (a : Args) (scope sid : Nat) : Check :=
  let k := coreOf st a.core
  let hit := fun (s : Nat) => sid == 16 || s == sid
  let t0 := (k.held.map (·.since)).getD (dieOf st (dieIx a.core)).dtick
  let flits := fun (q : List Flit) => q.any fun f => hit f.sid && decide (f.acc ≤ t0)
  if k.ss.drains.any (fun d => hit d.2) || (decide (1 ≤ scope) && flits k.ss.dieQ) || (decide (2 ≤ scope) && flits k.ss.pkgQ)
  then .hold .sfence (budgetOf a) else .ok

/-- An SS operation issues: it acts four ticks later (R202). -/
def issueSs (op : Nat) (spans : List (Nat × Nat × Nat)) (tb : Nat) (data : Vec) (st : State) (a : Args) : State :=
  nextStamp (modCore st a.core fun k => { k with ss := { k.ss with ops := k.ss.ops ++
    [{ id := st.stamp, op := op, due := k.now + 4, a := a.a, b := a.b, c := a.c, data := data, lvl := a.lvl,
       seed := k.csr.seed, spans := spans, tb := tb }] } })

/-- The checks of salloc (R203, R204); a release ignores every other field of b and c. DESIGN CHOICE (log 44): the stream address that
XADDR takes where port a is a descriptor number, here and for sgain and seps, is row 0, element 0 of that descriptor. -/
def sallocCheck (st : State) (a : Args) : Check :=
  let k := coreOf st a.core
  let sid := a.a.toNat % 16
  let b := a.b.toNat
  let c := a.c.toNat
  let xa := sid * 2 ^ 28
  (illctlIf (decide (16 ≤ a.a.toNat)) 0 a.a.toNat).andThen ((illctlIf (!sallocRel b && bits b 63 23 != 0) 1 b).andThen
    (if sallocRel b then
      (faultIf (descAfter k sid).isNone 12 0 xa).andThen (fenceCheck st a 2 sid)
    else
      let rows := sallocRows c
      let n := sallocN b
      let first := sallocFirst c
      let others := (descsAfter k.ss).filterMap (·.2)
      (illctlIf (decide (48 ≤ sallocF b)) 1 b).andThen ((illctlIf (bits c 63 30 != 0) 2 c).andThen
        ((faultIf (descAfter k sid).isSome 12 2 xa).andThen
          ((faultIf (others.any fun d => decide (first < d.first + d.rows * d.n) && decide (d.first < first + rows * n)) 12 3 xa).andThen
            (faultIf (decide (storeElems < first + rows * n) || decide (storeRows < rows + (others.map (·.rows)).sum) ||
              decide (storeElems < rows * n + (others.map fun d => d.rows * d.n).sum)) 13 0 xa))))))

/-- salloc. -/
def trigSalloc : Trigger := { unit := 8, check := sallocCheck, act := issueSs 0x04 [] 0 0 }

/-- The control word of sadd and ssub (R206). -/
def saddCtlOk (b : Nat) : Bool :=
  let sf := bits b 18 15
  decide (bits b 21 19 ≤ 4) && bits b 14 11 == 0 &&
    (if sf = 0 then bits b 10 6 == 0 else sf == 0xB && decide (bits b 10 6 ≤ 16) && bits b 21 19 == 0)

/-- sadd and ssub (R206). -/
def ssAdd (op : Nat) : Trigger :=
  { unit := 8
    check := fun st a =>
      (saddrCheck a.a.toNat false false).andThen ((illctlIf (!saddCtlOk a.b.toNat) 1 a.b.toNat).andThen
        ((selWCheck a.c 2).andThen (ssaddrCheck (coreOf st a.core) a.a.toNat (bits a.b.toNat 5 0))))
    act := fun st a => issueSs op [] 0 (selWVal st a a.c) st a }

/-- sadd. -/
def trigSadd : Trigger := ssAdd 0x05
/-- ssub. -/
def trigSsub : Trigger := ssAdd 0x06

/-- A read: its result ports wait for the sample (R202). -/
def ssRead (op : Nat) (rowAddr : Bool) (lat : Nat) (ports : List Nat) : Trigger :=
  { unit := 8
    check := fun st a => (saddrCheck a.a.toNat rowAddr false).andThen (ssaddrCheck (coreOf st a.core) a.a.toNat 0)
    act := fun st a =>
      issueSs op [] 0 0 (modCore st a.core fun k => ports.foldl (fun k p => launchResult k p none 0 lat st.stamp) k) a }

/-- srdn. -/
def trigSrdn : Trigger := ssRead 0x07 false 16 [0x0FD, 0x0FE]
/-- srho. -/
def trigSrho : Trigger := ssRead 0x08 true 16 [0x0FE]
/-- swrap. -/
def trigSwrap : Trigger := ssRead 0x0E true 4 [0x0FE]

/-- A fence (R212): the wait is the whole effect. -/
def ssFence (scope : Nat) : Trigger :=
  { unit := 8
    check := fun st a => (illctlIf (decide (16 < a.a.toNat)) 0 a.a.toNat).andThen (fenceCheck st a scope a.a.toNat)
    act := fun st _ => st }

/-- sfence.l. -/
def trigSfenceL : Trigger := ssFence 0
/-- sfence.d. -/
def trigSfenceD : Trigger := ssFence 1
/-- sfence.p. -/
def trigSfenceP : Trigger := ssFence 2

/-- sgain (R205): the bound that needs n is checked when the descriptor is valid. -/
def trigSgain : Trigger :=
  { unit := 8
    check := fun st a =>
      let b := a.b.toNat
      let d := descAfter (coreOf st a.core) (a.a.toNat % 16)
      let long := match d with
        | some d => !b.testBit 63 && decide (scratchBytes < bits b 21 0 + 4 * d.n)
        | none => false
      (illctlIf (decide (16 ≤ a.a.toNat)) 0 a.a.toNat).andThen
        ((illctlIf (bits b 62 22 != 0 || bits b 21 0 % 4 != 0 || long) 1 b).andThen
          (faultIf d.isNone 12 0 (a.a.toNat % 16 * 2 ^ 28)))
    act := issueSs 0x0F [] 0 0 }

/-- seps (R205). -/
def trigSeps : Trigger :=
  { unit := 8
    check := fun st a =>
      let b := a.b.toNat
      let x := fp32.toNum b
      (illctlIf (decide (16 ≤ a.a.toNat)) 0 a.a.toNat).andThen
        ((illctlIf (decide (2 ^ 32 ≤ b) || isNan x || isInf x || (signOf x && !isZero x)) 1 b).andThen
          (faultIf (descAfter (coreOf st a.core) (a.a.toNat % 16)).isNone 12 0 (a.a.toNat % 16 * 2 ^ 28)))
    act := issueSs 0x10 [] 0 0 }

/-! ### Eviction, restore, view (R214 to R217) -/

/-- Bytes of an envelope of a row of `n` elements: 6 per element, 2 in a view. -/
def envBytes (op n : Nat) : Nat := 64 + (if op = 0x11 then 2 else 6) * n

/-- The pieces of a range, one for each page that it touches. -/
def rangeElems (va n : Nat) : List Elem :=
  if n = 0 then []
  else
    let first := va / 4096
    (List.range ((va + n - 1) / 4096 - first + 1)).map fun i =>
      let lo := max va ((first + i) * 4096)
      { va := lo, n := min (va + n) ((first + i + 1) * 4096) - lo }

/-- Where the pieces of a range lie: address, key slot, length. -/
def spansOf (st : State) (a : Args) (va n : Nat) (write : Bool) : List (Nat × Nat × Nat) :=
  (place st a (rangeElems va n) write).map fun p => (p.pa, p.key, p.n)

/-- The length of the envelope that a block command moves. -/
def envLen (k : Core) (op a : Nat) : Nat :=
  match descAfter k (sidOf a) with
  | some d => envBytes op d.n
  | none => 64

/-- sevict, srestore and sview at issue (R215, R216): ILLCTL, SSADDR, ALIGN, XLFLT, TBERR. -/
def ssBlockCmd (op : Nat) : Trigger :=
  let write := op != 0x0D
  { unit := 8
    check := fun st a =>
      let k := coreOf st a.core
      let b := a.b.toNat
      (saddrCheck a.a.toNat true write).andThen ((ssaddrCheck k a.a.toNat 0).andThen
        ((faultIf (b % 64 != 0) 7 0 b).andThen ((faultIf (a.c.toNat % 16 != 0) 7 0 a.c.toNat).andThen
          ((xlAll st a (rangeElems b (envLen k op a.a.toNat)) write).andThen
            (barCheck st a a.c.toNat true false)))))
    act := fun st a =>
      let n := envLen (coreOf st a.core) op a.a.toNat
      issueSs op (spansOf st a a.b.toNat n write) (barPa st a a.c.toNat true) 0 st a }

/-- sevict. -/
def trigSevict : Trigger := ssBlockCmd 0x0C
/-- srestore. -/
def trigSrestore : Trigger := ssBlockCmd 0x0D
/-- sview. -/
def trigSview : Trigger := ssBlockCmd 0x11

/-- The elements of a row. -/
def rowElems (s : Store) (d : Desc) (row : Nat) : List (BitVec 48) :=
  (List.range d.n).map fun j => tget 0 s.elems (elemIx d row j)

/-- An envelope of a row: header and data (R214). -/
def envelope (ver sid row : Nat) (d : Desc) (m : RowMeta) (data : List Byte) : List Byte :=
  leBytes 2 ver ++ leBytes 1 sid ++ leBytes 1 d.f ++ leBytes 2 row ++ leBytes 2 0 ++ leBytes 4 d.n ++ leBytes 2 m.wrapc.toNat
    ++ leBytes 2 0 ++ leBytes 14 m.ssq.toNat ++ leBytes 2 0 ++ leBytes 4 (crc32c data) ++ leBytes 28 0 ++ data

/-- The E48 envelope of a row (R214). -/
def e48 (s : Store) (d : Desc) (sid row : Nat) : List Byte :=
  envelope 1 sid row d (rowMeta s sid row) ((rowElems s d row).flatMap fun x => leBytes 6 x.toNat)

/-- The BF16 view of a row, with the flags of its roundings (R214, R216). -/
def bf16View (s : Store) (d : Desc) (sid row : Nat) : List Byte × Flags8 :=
  let rs := (rowElems s d row).map fun x => roundFmt bf16 false 0 0 (.num (ofScaled x.toInt (-(d.f : Int)) false))
  (envelope 2 sid row d (rowMeta s sid row) (rs.flatMap fun r => leBytes 2 r.1), rs.foldl (fun f r => f ||| r.2) 0)

/-- The byte of pieces at a position: its physical address and key slot. -/
def spanAt : List (Nat × Nat × Nat) → Nat → Nat × Nat
  | [], _ => (0, 0)
  | (pa, key, n) :: rest, i => if i < n then (pa + i, key) else spanAt rest (i - n)

/-- Bytes of pieces as core `c` sees them now. -/
def readSpans (st : State) (c : Nat) (spans : List (Nat × Nat × Nat)) : List Byte :=
  spans.flatMap fun s => (List.range s.2.2).map fun i => viewKeyed st c st.stamp s.2.1 (s.1 + i)

/-- A block command acts (R216, R217): the snapshot or the envelope is taken, and the row is cleared for CLR and for a
restore. -/
def startEngine (st : State) (c : Nat) (o : SsOp) : State :=
  let k := coreOf st c
  let a := o.a.toNat
  let sid := sidOf a
  let row := rowOf a
  match descOf k.ss sid with
  | none => st
  | some d =>
    let (bytes, fl) := if o.op = 0x0D then (readSpans st c o.spans, 0)
      else if o.op = 0x11 then bf16View k.ss d sid row
      else (e48 k.ss d sid row, 0)
    let clr := o.op = 0x0D || (o.op = 0x0C && a.testBit 63)
    setCore st c { k with ss :=
      { (if clr then clearRow k.ss d sid row else k.ss) with
        eng := k.ss.eng ++ [{ op := o.op, rowAddr := a % 2 ^ 32, va := o.b.toNat, spans := o.spans, tb := o.tb, bytes := bytes,
                              pos := 0, acted := k.now, stamp := o.id, lvl := o.lvl, cmd := o.id, flags := fl, n := d.n,
                              f := d.f }] } }

/-! ### Acts (R202, R207, R210, R211) -/

/-- The lanes that an sadd or ssub adds, as integers with their flags (R207). -/
def saddAddend (o : SsOp) (f i : Nat) : Int × Flags8 :=
  let b := o.b.toNat
  let x := (laneOf o.data i).toNat
  if bits b 18 15 = 0xB then (sint 32 x * 2 ^ bits b 10 6, 0)
  else
    let mode := bits b 21 19
    let rb := if mode = 4 then bits (genG o.seed.toNat (bits b 63 32) (bits b 31 22) (o.a.toNat % 2 ^ 32 + i)) 31 16 else 0
    let num := fp32.toNum x
    let (q, fl) := roundS48 f mode rb (.num num)
    (q, fl ||| sigFlag num)

/-- sadd and ssub act. -/
def actAdd (k : Core) (o : SsOp) : Core :=
  let a := o.a.toNat
  match descOf k.ss (sidOf a) with
  | none => k
  | some d =>
    (List.range (bits o.b.toNat 5 0 + 1)).foldl (fun k i =>
      let (q, fl) := saddAddend o d.f i
      let k := addElem k d (sidOf a) (rowOf a) (elOf a + i) (if o.op = 0x06 then -q else q)
      orSsstat (orVstat k fl) (fl.setWidth 64)) k

/-- The exact D of R210 as a ratio: `num / n · 2^lo`. -/
def rowD (d : Desc) (ssq : Nat) : Nat × Int :=
  match fp32.toNum d.eps.toNat with
  | .fin _ m e =>
    let lo := min (-(2 * d.f : Nat) : Int) e
    (ssq <<< ((-(2 * d.f : Nat) : Int) - lo).toNat + (d.n * m) <<< (e - lo).toNat, lo)
  | _ => (ssq, -(2 * d.f : Nat))

/-- ρ of a row with its flags; none when D is zero (R210). -/
def rowRho (d : Desc) (ssq : Nat) : Option (Nat × Flags8) :=
  let (num, lo) := rowD d ssq
  if num = 0 then none else some (roundFmt fp32 false 0 0 (sqrtRatio d.n num (-lo)))

/-- A byte of the linear view as it stood when this tick began: every write performed in an earlier tick is in it (R205). -/
def earlierByte (st : State) (c a : Nat) : Byte :=
  let (snap, s0) := snapOf st c
  match st.wlog.find? fun r => decide (s0 ≤ r.seq) && decide (r.performed < st.tickStamp) && recHas r a with
  | some r => recByte r a
  | none => memByte snap a

/-- γ of element `j` (R205). -/
def gammaOf (st : State) (c : Nat) (d : Desc) (j : Nat) : Num :=
  if d.unit then numOne
  else fp32.toNum (leNat ((List.range 4).map fun i => earlierByte st c (windowBase c + d.gain + 4 * j + i)))

/-- A lane of srdn (R210). -/
def srdnLane (st : State) (c : Nat) (d : Desc) (row el : Nat) (rho : Option (Nat × Flags8)) (i : Nat) : Lane × Flags8 :=
  let j := el + i
  match rho with
  | none => (0, 0)
  | some (r, _) =>
    if d.n ≤ j then (0, 0)
    else
      let x := ofScaled (tget 0 (coreOf st c).ss.elems (elemIx d row j)).toInt (-(d.f : Int)) false
      let (p, fl) := mulN (mulN x (fp32.toNum r)).1 (gammaOf st c d j)
      rneLane (.num p) fl

/-- The sample of a read enters the ports in flight that wait for it (R202). -/
def giveSample (k : Core) (id port : Nat) (v : Val) (fl : Flags8) : Core :=
  { k with flight := k.flight.map fun f =>
      if f.ssid = id ∧ f.port = port ∧ f.val.isNone then { f with val := some v, flags := fl } else f }

/-- srdn and srho sample (R210, R211). -/
def actRead (st : State) (c : Nat) (o : SsOp) : State :=
  let k := coreOf st c
  let a := o.a.toNat
  match descOf k.ss (sidOf a) with
  | none => st
  | some d =>
    let rho := rowRho d (rowMeta k.ss (sidOf a) (rowOf a)).ssq.toNat
    let (pat, fl) := rho.getD (0x7F800000, fDZ)
    if o.op = 0x08 then modCore st c fun k => giveSample k o.id 0x0FE (.s (BitVec.ofNat 64 pat)) fl
    else
      let (v, fv) := lanewise (srdnLane st c d (rowOf a) (elOf a) rho)
      modCore st c fun k =>
        giveSample (giveSample k o.id 0x0FD (.v v) 0) o.id 0x0FE (.s (BitVec.ofNat 64 pat)) (fl ||| fv)

/-- An SS operation at its act tick (R202). -/
def actSs (st : State) (c : Nat) (o : SsOp) : State :=
  let a := o.a.toNat
  match o.op with
  | 0x05 => modCore st c fun k => actAdd k o
  | 0x06 => modCore st c fun k => actAdd k o
  | 0x07 => actRead st c o
  | 0x08 => actRead st c o
  | 0x0E => modCore st c fun k =>
      giveSample k o.id 0x0FE (.s ((rowMeta k.ss (sidOf a) (rowOf a)).wrapc.signExtend 64)) 0
  | 0x0C => startEngine st c o
  | 0x0D => startEngine st c o
  | 0x11 => startEngine st c o
  | op => modCore st c fun k =>
    let t := applyDesc k.ss.desc op a o.b.toNat o.c.toNat
    let s := { k.ss with desc := t }
    { k with ss :=
        match (if op = 0x04 then tget none t (a % 16) else none : Option Desc) with
        | some d => (List.range d.rows).foldl (fun s r => clearRow s d (a % 16) r) s
        | none => s }

/-- SS_ACT: the SS operations of core `c` whose act tick has come act, in program order. -/
def execSsAct (c : Nat) (st : State) : Host.Outcome State Fault Refusal :=
  if numCores ≤ c then .fault .noSuchAgent
  else
    let k := coreOf st c
    let due := k.ss.ops.filter fun o => decide (o.due ≤ k.now)
    let st := setCore st c { k with ss := { k.ss with ops := k.ss.ops.filter fun o => !decide (o.due ≤ k.now) } }
    .next (due.foldl (fun st o => actSs st c o) st)

/-! ### Flits (R209) -/

/-- An element of a flit as an addend (R34). -/
def flitAddend (f : Flit) (bp e : Nat) : Int × Flags8 :=
  let n := fmtBits f.fmt.toNat / 8
  let x := leNat ((f.data.drop (e * n)).take n)
  if f.fmt = 9 then (sint 48 x, 0)
  else
    let num := numOf f.fmt.toNat x
    let (q, fl) := roundS48 bp f.rm 0 (.num num)
    (q, fl ||| sigFlag num)

/-- A flit performs: each element enters, or is discarded with CDROP (R209). -/
def performFlit (k : Core) (f : Flit) : Core :=
  (List.range (f.data.length / (fmtBits f.fmt.toNat / 8))).foldl (fun k e =>
    match descOf k.ss f.sid with
    | none => ssEvent k 1 f.sid
    | some d =>
      if inStream d f.row (f.el + e) then
        let (q, fl) := flitAddend f d.f e
        orSsstat (addElem k d f.sid f.row (f.el + e) (if f.sub then -q else q)) (fl.setWidth 64)
      else ssEvent k 1 f.sid) k

/-- Taking the head of a flit queue that was accepted in an earlier tick. -/
def takeFlit (now : Nat) (q : List Flit) : Option Flit × List Flit :=
  match q with
  | [] => (none, [])
  | f :: fs => if f.acc < now then (some f, fs) else (none, f :: fs)

/-- STREAM_FLIT_PERFORM: the heads of core `c`'s two queues perform (R209). -/
def execStreamFlitPerform (c : Nat) (st : State) : Host.Outcome State Fault Refusal :=
  if numCores ≤ c then .fault .noSuchAgent
  else .next (modCore st c fun k =>
    let now := (dieOf st (dieIx c)).dtick
    let (f1, q1) := takeFlit now k.ss.dieQ
    let (f2, q2) := takeFlit now k.ss.pkgQ
    (f1.toList ++ f2.toList).foldl performFlit { k with ss := { k.ss with dieQ := q1, pkgQ := q2 } })

/-! ### The block engine (R215 to R217) -/

/-- Blocks of an envelope. -/
def engBlocks (e : SsEng) : Nat := (e.bytes.length + 63) / 64

/-- The block moved at position `pos`: the data blocks ascending, the header last (R216), for
srestore too (DESIGN CHOICE, log 44). -/
def engBlockAt (e : SsEng) (pos : Nat) : Nat := if pos + 1 = engBlocks e then 0 else pos + 1

/-- The elements of an envelope that have arrived with block `b`: those whose last byte it holds (R217). -/
def engElems (e : SsEng) (b : Nat) : List (Nat × Int) :=
  ((List.range e.n).filter fun j => (64 + 6 * j + 5) / 64 == b).map fun j => (j, sint 48 (field e.bytes (64 + 6 * j) 6))

/-- Whether the core that holds an address is not resident, or is frozen (R265, R266). -/
def homeAway (st : State) (pa : Nat) : Bool :=
  match target pa with
  | .scratch o _ => !(coreOf st o).resident || (coreOf st o).freeze != 0
  | _ => false

/-- One block of the head command moves. -/
def moveBlock (st : State) (c : Nat) (e : SsEng) : State :=
  let b := engBlockAt e e.pos
  let (pa, key) := spanAt e.spans (64 * b)
  let st := modCore st c fun k => { k with ss := { k.ss with eng := { e with pos := e.pos + 1 } :: k.ss.eng.drop 1 } }
  if e.op = 0x0D then
    modCore st c fun k =>
      match descOf k.ss (sidOf e.rowAddr) with
      | none => k
      | some d => (engElems e b).foldl (fun k x =>
          if inStream d (rowOf e.rowAddr) x.1 then addElem k d (sidOf e.rowAddr) (rowOf e.rowAddr) x.1 x.2 else k) k
  else
    let bytes := (e.bytes.drop (64 * b)).take 64
    let st := performKeyed st c key pa bytes e.stamp [] none .engine (some e.cmd)
    strikeEngine st c 5 0 e.lvl (touchedRange (e.va + 64 * b) pa bytes.length)

/-- SS_BLOCK_MOVE: core `c`'s engine moves one block of its head command, from the tick after the act (R215). -/
def execSsBlockMove (c : Nat) (st : State) : Host.Outcome State Fault Refusal :=
  if numCores ≤ c then .fault .noSuchAgent
  else
    let k := coreOf st c
    match k.ss.eng with
    | [] => .next st
    | e :: _ =>
      if enginesStopped k ∨ k.now ≤ e.acted ∨ engBlocks e ≤ e.pos ∨ homeAway st (spanAt e.spans (64 * engBlockAt e e.pos)).1 = true then .next st
      else .next (moveBlock st c e)

/-- Pieces of `n` bytes of a list. -/
def piecesOf (n : Nat) : Nat → List Byte → List (List Byte)
  | 0, _ => []
  | fuel + 1, l => l.take n :: piecesOf n fuel (l.drop n)

/-- Whether the envelope of a row of `n` elements with binary point `f` fails the checks of a restore (R217). -/
def envBad (h : List Byte) (n f : Nat) : Bool :=
  let data := (h.drop 64).take (6 * n)
  let ssq := (piecesOf 6 n data).foldl (fun a x => a + (sint 48 (leNat x)).natAbs ^ 2) 0
  field h 0 2 != 1 || decide (16 ≤ field h 2 1) || decide (64 ≤ field h 3 1) || decide (4096 ≤ field h 4 2) || field h 6 2 != 0 ||
    field h 14 2 != 0 || field h 30 2 != 0 || !allZero ((h.drop 36).take 28) || field h 8 4 != n || field h 3 1 != f ||
    field h 32 4 != crc32c data || field h 16 14 != ssq

/-- The end of a block command (R215 to R217); its decrement follows the publishes of the core in flight, as a courier's does (R134;
log 34). -/
def finishEngine (st : State) (c : Nat) (e : SsEng) : State :=
  let sid := sidOf e.rowAddr
  let row := rowOf e.rowAddr
  let st := modCore st c fun k => { k with ss := { k.ss with eng := k.ss.eng.drop 1 } }
  if e.op = 0x0D ∧ envBad e.bytes e.n e.f = true then
    let st := modCore st c fun k =>
      ssEvent { k with ss := match descOf k.ss sid with
        | some d => clearRow k.ss d sid row
        | none => k.ss } 4 sid
    raiseReplay st c 27 0 e.rowAddr
  else
    let st := if e.op = 0x0D then modCore st c fun k => addWrap k sid row (sint 16 (field e.bytes 12 2)) else st
    let st := modCore st c fun k => orSsstat (orVstat k e.flags) (e.flags.setWidth 64)
    sendBar st c e.tb (.dec 1) (lastPub (coreOf st c)) e.cmd e.stamp

/-- SS_ENGINE_COMPLETE: a command whose last block has moved completes (R215). -/
def execSsEngineComplete (c : Nat) (st : State) : Host.Outcome State Fault Refusal :=
  if numCores ≤ c then .fault .noSuchAgent
  else
    match (coreOf st c).ss.eng with
    | [] => .next st
    | e :: _ => if enginesStopped (coreOf st c) ∨ e.pos < engBlocks e then .next st else .next (finishEngine st c e)

/-! ### The meanings of the slots that trigger them (R93) -/

/-- SALLOC (R204). -/
def execSalloc (n : BitVec 1) (g : BitVec 4) (s : BitVec 9) (st : State) :
    Host.Outcome State Fault Refusal := runTrigger trigSalloc 0x04 n g s st
/-- SADD (R207). -/
def execSadd (n : BitVec 1) (g : BitVec 4) (s : BitVec 9) (st : State) :
    Host.Outcome State Fault Refusal := runTrigger trigSadd 0x05 n g s st
/-- SSUB (R207). -/
def execSsub (n : BitVec 1) (g : BitVec 4) (s : BitVec 9) (st : State) :
    Host.Outcome State Fault Refusal := runTrigger trigSsub 0x06 n g s st
/-- SRDN (R210). -/
def execSrdn (n : BitVec 1) (g : BitVec 4) (s : BitVec 9) (st : State) :
    Host.Outcome State Fault Refusal := runTrigger trigSrdn 0x07 n g s st
/-- SRHO (R211). -/
def execSrho (n : BitVec 1) (g : BitVec 4) (s : BitVec 9) (st : State) :
    Host.Outcome State Fault Refusal := runTrigger trigSrho 0x08 n g s st
/-- SFENCE_L (R212). -/
def execSfenceL (n : BitVec 1) (g : BitVec 4) (s : BitVec 9) (st : State) :
    Host.Outcome State Fault Refusal := runTrigger trigSfenceL 0x09 n g s st
/-- SFENCE_D (R212). -/
def execSfenceD (n : BitVec 1) (g : BitVec 4) (s : BitVec 9) (st : State) :
    Host.Outcome State Fault Refusal := runTrigger trigSfenceD 0x0A n g s st
/-- SFENCE_P (R212). -/
def execSfenceP (n : BitVec 1) (g : BitVec 4) (s : BitVec 9) (st : State) :
    Host.Outcome State Fault Refusal := runTrigger trigSfenceP 0x0B n g s st
/-- SEVICT (R216). -/
def execSevict (n : BitVec 1) (g : BitVec 4) (s : BitVec 9) (st : State) :
    Host.Outcome State Fault Refusal := runTrigger trigSevict 0x0C n g s st
/-- SRESTORE (R217). -/
def execSrestore (n : BitVec 1) (g : BitVec 4) (s : BitVec 9) (st : State) :
    Host.Outcome State Fault Refusal := runTrigger trigSrestore 0x0D n g s st
/-- SWRAP (R211). -/
def execSwrap (n : BitVec 1) (g : BitVec 4) (s : BitVec 9) (st : State) :
    Host.Outcome State Fault Refusal := runTrigger trigSwrap 0x0E n g s st
/-- SGAIN (R205). -/
def execSgain (n : BitVec 1) (g : BitVec 4) (s : BitVec 9) (st : State) :
    Host.Outcome State Fault Refusal := runTrigger trigSgain 0x0F n g s st
/-- SEPS (R205). -/
def execSeps (n : BitVec 1) (g : BitVec 4) (s : BitVec 9) (st : State) :
    Host.Outcome State Fault Refusal := runTrigger trigSeps 0x10 n g s st
/-- SVIEW (R216). -/
def execSview (n : BitVec 1) (g : BitVec 4) (s : BitVec 9) (st : State) :
    Host.Outcome State Fault Refusal := runTrigger trigSview 0x11 n g s st

end Sys2Proof.Machine
end

