-- ==== Sys2Proof/Machine/Matrix.lean ====
section
/-! DEFINITION. MX operations (R173 to R200): the order queue, operand images (R175, R176), weights and smoothing (R177,
R178), streams into the accumulator pairs (R38, R181, R185), drains (R189 to R194), follow-ons and MX errors (R195, R196);
with the events in which the array works. -/

namespace Sys2Proof.Machine

/-! ### Operand images (R175, R176) -/

/-- Whether a format has an exponent row. -/
def imgExp (f : Nat) : Bool := f != 6 && f != 7

/-- Bytes of the sign, exponent and scale parts of an image. -/
def imgRest (f : Nat) : Nat := 16 + (if imgExp f then 128 else 0) + (if f = 8 then 4 else 0)

/-- Bit `j` of a plane at a byte position. -/
def planeBit (b : List Byte) (pos j : Nat) : Bool := (b.getD (pos + j / 8) 0).toNat.testBit (j % 8)

/-- The value of an element from the parts of an image: first sign, exponent and scale parts, then the magnitude planes
(R176). DESIGN CHOICE (log 44): whether a NaN of an image is signalling is left open (R38, R176, R233 say NaN only); every one is taken
as quiet. -/
def elemVal (f : Nat) (b : List Byte) (j : Nat) : Num :=
  let r := imgRest f
  let m := (List.range (4 * imgPasses f)).foldl (fun x i => x + b2n (planeBit b (r + 16 * i) j) * 2 ^ i) 0
  let neg := planeBit b 0 j
  if !imgExp f then .fin neg m 0
  else
    let ex := (b.getD (16 + j) 0).toNat
    let bq := if f = 8 then (b.getD (144 + j / 32) 0).toNat else 127
    if f = 8 ∧ bq = 0xFF then .nan false
    else if ex = 0xFF then (if m = 0 then .inf neg else .nan false)
    else .fin neg m ((ex : Int) - imgZ f + ((bq : Int) - 127))

/-- The 128 values of an image. -/
def imageVals (f : Nat) (b : List Byte) : List Num := (List.range 128).map (elemVal f b)

/-- A byte of the swizzled view at a local offset; past the scratchpad the spec states none (log 3). -/
def swzByte (st : State) (c off : Nat) : Byte :=
  if off < scratchBytes then memByte (coreOf st c).views.swz off
  else BitVec.ofNat 8 (Config.freeNat (st.fresh * 2 ^ 24 + off))

/-- `n` bytes of the swizzled view. -/
def swzRead (st : State) (c off n : Nat) : List Byte := (List.range n).map fun i => swzByte st c (off + i)

/-! ### Pairs (R36 to R38) -/

/-- The number of an A36 pattern. -/
def a36Num (x : BitVec 36) : Num := a36.toNum x.toNat
/-- Rounding to A36, to nearest even. -/
def a36RN (x : Num) : Num := a36.toNum (roundFmt a36 false 0 0 (.num x)).1
/-- The pattern of an A36 number. -/
def a36Pat (x : Num) : BitVec 36 := BitVec.ofNat 36 (roundFmt a36 false 0 0 (.num x)).1

/-- Whether a magnitude exceeds the largest finite A36 value (R181). -/
def a36Big (x : Num) : Bool := !isNan x && !isInf x && ltN (.fin false (2 ^ 27 - 1) 229) (absN x)

/-- THE UPDATE of a pair by an exact product (R38). -/
def pairStep (s e p : Num) : Num × Num × Flags8 :=
  let zero : Num := .fin false 0 0
  if isNan p || isNan s then (.nan false, zero, 0)
  else if isInf p || isInf s then
    if isInf p && isInf s && signOf p != signOf s then (.nan false, zero, fNV)
    else (if isInf s then s else p, zero, 0)
  else
    let ph := a36RN p
    let pl := a36RN (addN false p (negN ph)).1
    let t := (addN false s ph).1
    let s' := a36RN t
    let tiny := ltN (absN p) (.fin false 1 (-232)) && !eqN (addN false ph pl).1 p
    let fl := fif tiny (fUF ||| fNX)
    if isInf s' then (s', zero, fl ||| fOF ||| fNX)
    else
      let d := (addN false t (negN s')).1
      (s', a36RN (addN false (a36RN (addN false d pl).1) e).1, fl)

/-- A product in the array (R181): exact, an infinity past the largest finite A36 value. -/
def mxProduct (a b : Num) : Num × Flags8 :=
  let (p, f) := mulN a b
  if a36Big p then (.inf (signOf p), f ||| fOF ||| fNX) else (p, f)

/-- One term enters a pair: an exact product of two elements under a power-of-two scale. -/
def pairTerm (acc : Num × Num × Flags8) (x w sc : Num) : Num × Num × Flags8 :=
  let (s, e, fl) := acc
  let (p, f1) := mulN x w
  let (p, f2) := mxProduct p sc
  let (s', e', f3) := pairStep s e p
  (s', e', fl ||| f1 ||| f2 ||| f3)

/-! ### The array's tables -/

/-- Pairs of zeros. -/
def pairZero : BitVec 36 × BitVec 36 := (0, 0)

/-- The value of an edge scale byte (R181): NaN for 0xFF. -/
def escNum (b : Byte) : Num := numOf 5 b.toNat

/-- A number that is +0. -/
def numZero : Num := .fin false 0 0

/-- Row `r` of a 128 by 128 table, as a list. -/
def tabRow {α : Type} (d : α) (t : Tab α) (r : Nat) : List α :=
  let mine := t.filter fun x => x.1 / 128 == r
  (List.range 128).map fun j => tget d mine (128 * r + j)

/-- Replacing row `r` of a 128 by 128 table. -/
def tabPutRow {α : Type} [DecidableEq α] (d : α) (t : Tab α) (r : Nat) (vs : List α) : Tab α :=
  t.filter (fun x => x.1 / 128 < r) ++
    ((vs.zip (List.range 128)).filterMap fun x => if x.1 = d then none else some (128 * r + x.2, x.1)) ++
    t.filter (fun x => r < x.1 / 128)

/-- Element `(i, j)` of a list of rows. -/
def at2 (rows : List (List Num)) (i j : Nat) : Num := (rows.getD i []).getD j numZero

/-- The weight latches as rows. -/
def latchRows (m : Mx) : List (List Num) := (List.range 128).map fun k => tabRow numZero m.latch k

/-- Pairs of a row after terms enter each column: `terms n` lists the terms of column `n` in order. -/
def rowTerms (m : Mx) (row : Nat) (terms : Nat → List (Num × Num × Num)) : Mx × Flags8 :=
  let res := ((tabRow pairZero m.pairs row).zip (List.range 128)).map fun x =>
    let r := (terms x.2).foldl (fun acc t => pairTerm acc t.1 t.2.1 t.2.2) (a36Num x.1.1, a36Num x.1.2, 0)
    ((a36Pat r.1, a36Pat r.2.1), r.2.2)
  ({ m with pairs := tabPutRow pairZero m.pairs row (res.map (·.1)) }, res.foldl (fun f x => f ||| x.2) 0)

/-- The streamed values after smoothing (R181): one rounding each. -/
def smoothed (m : Mx) (xs : List Num) : List Num × Flags8 :=
  if m.latched.smooth then
    let rs := (xs.zip (List.range 128)).map fun x =>
      let (q, f) := divN x.1 (fp32.toNum (tget 0 m.latched.fac x.2).toNat)
      let (p, f') := roundFmt fp32 false 0 0 q
      (fp32.toNum p, f ||| f')
    (rs.map (·.1), rs.foldl (fun f x => f ||| x.2) 0)
  else (xs, 0)

/-- The 2-bit index of latched weight (row, n) (R185). -/
def metaIdx (m : Mx) (row n : Nat) : Nat := bits (tget 0 m.meta2 (row * 32 + n / 4)).toNat (2 * (n % 4) + 1) (2 * (n % 4))

/-- The terms of column `n` of one vector in sparse FWD (R53, R185): every logical position in order. -/
def sparseTerms (m : Mx) (latch : List (List Num)) (xs esc : List Num) (n : Nat) : List (Num × Num × Num) :=
  (List.range 256).flatMap fun k =>
    let g := k / 4
    let hits := [2 * g, 2 * g + 1].filter fun r => metaIdx m r n == k - 4 * g
    if hits.isEmpty then [(numZero, numZero, numOne)]
    else hits.map fun r => (xs.getD k numZero, at2 latch r n, esc.getD (k % 128) numOne)

/-- A skipped position met an infinity or a NaN (R53). -/
def sparseSkips (m : Mx) (xs : List Num) : Bool :=
  (List.range 256).any fun k =>
    let x := xs.getD k numZero
    (isNan x || isInf x) && (List.range 128).any fun n =>
      [2 * (k / 4), 2 * (k / 4) + 1].all fun r => metaIdx m r n != k - 4 * (k / 4)

/-- A group whose two rows carry the same index (R185). -/
def sparseBad (m : Mx) : Bool :=
  (List.range 64).any fun g => (List.range 128).any fun n => metaIdx m (2 * g) n == metaIdx m (2 * g + 1) n

/-! ### Streams (R180, R181) -/

/-- Fields of a strm control word. -/
def strmRow (b : Nat) : Nat := bits b 19 13
/-- VC. -/
def strmVc (b : Nat) : Nat := bits b 12 6
/-- AFMT. -/
def strmFmt (b : Nat) : Nat := bits b 3 0

/-- One vector of a stream enters the array: its images, its gradient or second image, its edge latches. -/
def streamVector (r : MxRun) (latch : List (List Num)) (acc : Mx × Flags8) (v : Nat) : Mx × Flags8 :=
  let (m, fl) := acc
  let b := r.cmd.b.toNat
  let f := strmFmt b
  let xs := imageVals f (r.images.getD v [])
  let esc := (List.range 128).map fun j => escNum (tget 0x7F (r.edges.getD v []) j)
  match r.mode with
  | .fwd =>
    if m.sparse then
      let xs := xs ++ imageVals f (r.images2.getD v [])
      let (m', f1) := rowTerms m (strmRow b + v) (sparseTerms m latch xs esc)
      (m', fl ||| f1 ||| fif (sparseSkips m xs) fSKIP)
    else
      let (xs, f0) := smoothed m xs
      let (m', f1) := rowTerms m (strmRow b + v) fun n =>
        (List.range 128).map fun k => (xs.getD k numZero, at2 latch k n, esc.getD k numOne)
      (m', fl ||| f0 ||| f1)
  | .bwd =>
    let (m', f1) := rowTerms m (strmRow b + v) fun k =>
      (List.range 128).map fun n => (xs.getD n numZero, at2 latch k n, esc.getD n numOne)
    (m', fl ||| f1)
  | .wgrad =>
    let dy := imageVals m.gradFmt.toNat (r.images2.getD v [])
    let gsc := escNum m.gradScale
    (List.range 128).foldl (fun acc k =>
      let (m, fl) := acc
      let (m', f1) := rowTerms m k fun n =>
        [(xs.getD k numZero, dy.getD n numZero, (mulN (esc.getD k numOne) gsc).1)]
      (m', fl ||| f1)) (m, fl)

/-- A whole stream (R181), with its MXSTAT bits. -/
def streamAll (m : Mx) (r : MxRun) : Mx × Flags8 × Bool :=
  let latch := latchRows m
  let (m', fl) := (List.range (strmVc r.cmd.b.toNat + 1)).foldl (streamVector r latch) (m, 0)
  (m', fl, r.mode == .fwd && m.sparse && sparseBad m)

/-! ### MX errors and flags (R196, R197) -/

/-- An MX error: ERR, and when it was 0, ERRC and ERRTAG; the first of a tick is kept for a software write of the tick (R21). -/
def mxError (k : Core) (code tag : Nat) : Core :=
  let e := BitVec.ofNat 64 (code * 2 ^ 24 + tag * 2 ^ 32)
  { k with csr := { k.csr with mxstat := mxRecord k.csr.mxstat e }, mxEvt := k.mxEvt.or (some (k.csr.mxstat, e)) }

/-- Flags of MX reach VSTAT and MXSTAT together. -/
def mxFlags (k : Core) (fl : Flags8) : Core := orMxstat (orVstat k fl) (fl.setWidth 64)

/-! ### Checks of triggers (R174, R177 to R190) -/

/-- An offset that is a multiple of 64 with a region of `n` bytes below 3 MiB. -/
def mxRegion (off n : Nat) : Bool := off % 64 == 0 && decide (off + n ≤ scratchBytes)

/-- The format that a wld in program order here would latch: the last wfmt still queued or running, else the pending
one (R177). -/
def wfmtAfter (m : Mx) : Nat :=
  ((m.running.toList.map (·.cmd) ++ m.queue).foldl (fun f q => if q.op = 0x05 then bits q.a.toNat 3 0 else f) m.pendFmt.fmt.toNat)

/-- The sparse mode and the array mode that a strm in program order here would start under. -/
def modeAfter (m : Mx) : MxMode × Bool :=
  (m.running.toList.map (·.cmd) ++ m.queue).foldl (fun s q =>
    match q.op with
    | 0x06 => (if q.a = 0 then .fwd else if q.a = 1 then .bwd else .wgrad, s.2)
    | 0x0C => (s.1, q.a.toNat.testBit 63)
    | _ => s) (m.mode, m.sparse)

/-- Bytes of the images that a strm reads. -/
def strmBytes (b : Nat) (mode : MxMode) (sparse : Bool) : Nat :=
  (strmVc b + 1) * (if sparse && mode == .fwd then 2 else 1) * imgBytes (strmFmt b)

/-- The control word of strm (R180). -/
def strmCtlOk (b : Nat) : Bool :=
  bits b 63 20 == 0 && bits b 5 4 == 0 && imgPasses (strmFmt b) != 0 && decide (strmRow b + strmVc b ≤ 127)

/-- DFMT of a drain control word (R189). -/
def drFmt (b : Nat) : Nat := bits b 12 9
/-- First row. -/
def drRow0 (b : Nat) : Nat := bits b 19 13
/-- FN. -/
def drFn (b : Nat) : Nat := bits b 40 37
/-- RM. -/
def drRm (b : Nat) : Nat := bits b 6 4
/-- Row stride of the derivative input. -/
def drZstride (b : Nat) : Nat := if b.testBit 41 then 256 else 512
/-- ZOFF. -/
def drZoff (b : Nat) : Nat := bits b 63 42

/-- Bytes of a destination row in scratchpad. -/
def drStride (b : Nat) : Nat := if drFmt b = 0xA then 1152 else 128 * (fmtBits (drFmt b) / 8)

/-- The control word of a drain, apart from regions (R189, R191). -/
def drainCtlOk (b : Nat) : Bool :=
  let plain := drFmt b ∈ [0x0, 0x1, 0x2, 0x3, 0x4, 0x6, 0xB]
  decide (drRm b ≤ 4) && (drFn b ≤ 5 || (8 ≤ drFn b && drFn b ≤ 12)) && decide (drRow0 b + drNr b ≤ 127) &&
    (match drDst b with
     | 0 => plain
     | 1 => plain || drFmt b == 0xA
     | _ => drFmt b == 9) &&
    (drFmt b != 0xA || drFn b == 0) && (!b.testBit 2 || drFmt b == 4)

/-- The checks of a direct trigger, before the queue (R174); wgstep reads nothing, so only its offset's alignment is checked here
and the extent of the gradient images where a stream starts (R184). DESIGN CHOICE (log 44): the offset of a spar with EN = 0, which
reads nothing, is not checked. -/
def mxCheck (op : Nat) (st : State) (a : Args) : Check :=
  let m := (coreOf st a.core).mx
  let x := a.a.toNat
  let b := a.b.toNat
  match op with
  | 0x04 => illctlIf (!mxRegion x (128 * imgBytes (wfmtAfter m))) 0 x
  | 0x05 =>
    (illctlIf (bits x 63 5 != 0 || imgPasses (x % 16) == 0 || (x.testBit 4 && (x % 16 == 7 || x % 16 == 8))) 0 x).andThen
      (illctlIf (x.testBit 4 && !mxRegion b 512) 1 b)
  | 0x06 => illctlIf (decide (2 < x)) 0 x
  | 0x08 =>
    let (mode, sparse) := modeAfter m
    (illctlIf (x % 64 != 0) 0 x).andThen ((illctlIf (!strmCtlOk b) 1 b).andThen
      (illctlIf (!mxRegion x (strmBytes b mode sparse)) 1 b))
  | 0x0A =>
    let off := bits x 21 0
    (illctlIf (drDst b == 1 && off % 64 != 0) 0 x).andThen ((illctlIf (!drainCtlOk b) 1 b).andThen
      ((illctlIf (decide (8 ≤ drFn b) && !mxRegion (drZoff b) ((drNr b + 1) * drZstride b)) 1 b).andThen
        (illctlIf (drDst b == 1 && !mxRegion off ((drNr b + 1) * drStride b)) 1 b)))
  | 0x0C =>
    illctlIf (bits x 62 22 != 0 || (x.testBit 63 && !mxRegion (bits x 21 0) 4096)) 0 x
  | 0x0D => illctlIf (decide (256 ≤ x)) 0 x
  | 0x0F =>
    (illctlIf (x % 64 != 0) 0 x).andThen
      (illctlIf (bits b 63 16 != 0 || bits b 7 4 != 0 || imgPasses (b % 16) == 0) 1 b)
  | _ => .ok

/-- The hold of a full order queue (R173). -/
def mxqCheck (st : State) (a : Args) : Check :=
  if 8 ≤ (coreOf st a.core).mx.queue.length then .hold .mxqFull 0 else .ok

/-- A queued command joins the order queue (R173); a drain to the stream store counts for fences, a drain to registers
schedules its rows (R193). -/
def mxEnqueue (op : Nat) (st : State) (a : Args) : State :=
  nextStamp (modCore st a.core fun k =>
    let m := k.mx
    let b := a.b.toNat
    let q : MxCmd := { id := st.stamp, op := op, a := a.a, b := a.b, tag := if op = 0x0D then a.a.setWidth 8 else a.c.setWidth 8,
                       trig := k.now, scaleMin := (m.scales.map (·.1)).foldl max 0, lvl := a.lvl, seed := k.csr.seed,
                       tidx := k.csr.tileidx }
    let rows : List RegRow := if op = 0x0A ∧ drDst b = 0 then
        (List.range (drNr b + 1)).map fun i => { cnt := 140 + i, lvl := a.lvl, trig := st.stamp, i := i, data := none, flags := 0 }
      else []
    let ss := if op = 0x0A ∧ 2 ≤ drDst b then { k.ss with drains := k.ss.drains ++ [(st.stamp, sidOf (a.a.toNat % 2 ^ 32))] }
      else k.ss
    { k with mx := { m with queue := m.queue ++ [q], regRows := m.regRows ++ rows }, ss := ss })

/-- A queued MX operation. -/
def mxQueued (op : Nat) : Trigger :=
  { unit := 7
    check := fun st a => (mxCheck op st a).andThen (mxqCheck st a)
    act := mxEnqueue op }

/-- wld. -/
def trigWld : Trigger := mxQueued 0x04
/-- wfmt. -/
def trigWfmt : Trigger := mxQueued 0x05
/-- mode. -/
def trigMode : Trigger := mxQueued 0x06
/-- strm. -/
def trigStrm : Trigger := mxQueued 0x08
/-- accz. -/
def trigAccz : Trigger := mxQueued 0x09
/-- drain. -/
def trigDrain : Trigger := mxQueued 0x0A
/-- dfn. -/
def trigDfn : Trigger := mxQueued 0x0B
/-- spar. -/
def trigSpar : Trigger := mxQueued 0x0C
/-- ADMIT. -/
def trigMxAdmit : Trigger := mxQueued 0x0D
/-- wgstep. -/
def trigWgstep : Trigger := mxQueued 0x0F

/-- scale (R182): the load comes in the sixth MX tick after the issue. -/
def trigScale : Trigger :=
  { unit := 7
    check := fun _ a => illctlIf (!mxRegion a.a.toNat 128) 0 a.a.toNat
    act := fun st a => modCore st a.core fun k =>
      { k with mx := { k.mx with scales := k.mx.scales ++ [(k.now + 6, a.a.toNat)] } } }

/-- mxst (R198). -/
def trigMxst : Trigger :=
  { unit := 7
    check := fun _ _ => .ok
    act := fun st a => modCore st a.core fun k =>
      let m := k.mx
      let q := m.queue.length + (if m.running.isSome then 1 else 0)
      launchResult k 0x0FA (some (.s (BitVec.ofNat 64 (m.count.toNat + q % 256 * 2 ^ 32 + m.follow.length % 256 * 2 ^ 40)))) 0 2 0 }

/-! ### Reading what a running command reads -/

/-- The sign, exponent and scale parts of an image. -/
def readRest (st : State) (c off f : Nat) : List Byte := swzRead st c (off + 64 * imgPasses f) (imgRest f)

/-- A whole image: its parts, then its planes. -/
def readImage (st : State) (c off f : Nat) : List Byte := readRest st c off f ++ swzRead st c off (64 * imgPasses f)

/-- Appending bytes to the last image of a list. -/
def extendLast (l : List (List Byte)) (b : List Byte) : List (List Byte) :=
  match l.reverse with
  | [] => [b]
  | x :: xs => (xs.reverse) ++ [x ++ b]

/-- The bytes that a stream reads in its tick `t` (R183). -/
def readStream (st : State) (c : Nat) (r : MxRun) (t : Nat) : MxRun :=
  let k := coreOf st c
  let a := r.cmd.a.toNat
  let f := strmFmt r.cmd.b.toNat
  let p := imgPasses f
  match r.mode with
  | .wgrad =>
    let gf := k.mx.gradFmt.toNat
    let g := imgPasses gf
    let v := t / (p * g)
    let u := t % (p * g)
    let offA := a + v * imgBytes f
    let offG := k.mx.gradOff + v * imgBytes gf
    let r := if u = 0 then { r with images := r.images ++ [readRest st c offA f], images2 := r.images2 ++ [readRest st c offG gf],
                                    edges := r.edges ++ [k.mx.edge] } else r
    let r := if u % g = 0 then { r with images := extendLast r.images (swzRead st c (offA + 64 * (u / g)) 64) } else r
    if u < g then { r with images2 := extendLast r.images2 (swzRead st c (offG + 64 * u) 64) } else r
  | _ =>
    let two := k.mx.sparse
    let v := t / p
    let u := t % p
    let offA := a + (if two then 2 * v else v) * imgBytes f
    let offB := a + (2 * v + 1) * imgBytes f
    let r := if u = 0 then { r with images := r.images ++ [readRest st c offA f], edges := r.edges ++ [k.mx.edge],
                                    images2 := if two then r.images2 ++ [readRest st c offB f] else r.images2 } else r
    { r with images := extendLast r.images (swzRead st c (offA + 64 * u) 64)
             images2 := if two then extendLast r.images2 (swzRead st c (offB + 64 * u) 64) else r.images2 }

/-- A weight with the latched smoothing (R178). -/
def latchWeight (w : WFmt) (k : Nat) (x : Num) : Num × Flags8 :=
  if w.smooth then
    let (p, f) := mulN x (fp32.toNum (tget 0 w.fac k).toNat)
    let (b, f') := encodeNum w.fmt.toNat false 0 0 (.num p)
    (numOf w.fmt.toNat b, f ||| f')
  else (x, 0)

/-- The weights of a row image with the latched format and smoothing (R178). -/
def wldVals (m : Mx) (i : Nat) (im : List Byte) : List (Num × Flags8) :=
  (imageVals m.latched.fmt.toNat im).map (latchWeight m.latched i)

/-- The latches after a wld has read a row: one row per tick (R22, R178). -/
def wldRow (m : Mx) (i : Nat) (im : List Byte) : Mx :=
  { m with latch := tsplice m.latch (128 * i) 128 (((wldVals m i im).zip (List.range 128)).filterMap fun y =>
      if y.1.1 = numZero then none else some (128 * i + y.2, y.1.1)) }

/-- What the running command of core `c` reads in this tick. -/
def mxRead (st : State) (c : Nat) : State :=
  let k := coreOf st c
  match k.mx.running with
  | none => st
  | some r =>
    let t := k.now - r.start
    let a := r.cmd.a.toNat
    let im := readImage st c (a + t * imgBytes k.mx.latched.fmt.toNat) k.mx.latched.fmt.toNat
    let loads := r.err = 0 ∧ r.cmd.op = 0x04
    let r := if r.err ≠ 0 then r
      else
        match r.cmd.op with
        | 0x04 => { r with images := r.images ++ [im] }
        | 0x05 => if a.testBit 4 then { r with images := extendLast r.images (swzRead st c (r.cmd.b.toNat + 256 * t) 256) } else r
        | 0x0C => if a.testBit 63 then { r with images := extendLast r.images (swzRead st c (bits a 21 0 + 256 * t) 256) } else r
        | 0x08 => readStream st c r t
        | _ => r
    let st := modCore st c fun k => { k with mx := { (if loads then wldRow k.mx t im else k.mx) with running := some r } }
    { st with fresh := st.fresh + 1 }

/-! ### Starting (R183, R184, R186, R194 to R196) -/

/-- Whether the array may start a command (R199, R327, R339). -/
def mxMayStart (k : Core) : Bool := k.run ∈ [.run, .ended, .halted, .stubflt]

/-- The error that the check of a starting command finds; 0 for none (R196). DESIGN CHOICE (log 44): a stream that breaks both R186
and R184 reports SPMODE. -/
def mxStartErr (k : Core) (q : MxCmd) (follow : Bool) : Nat :=
  let m := k.mx
  let a := q.a.toNat
  let b := q.b.toNat
  match q.op with
  | 0x04 =>
    if follow && (b % 16 != m.pendFmt.fmt.toNat || !mxRegion a (128 * imgBytes m.pendFmt.fmt.toNat)) then 1 else 0
  | 0x08 =>
    if follow && (!strmCtlOk b || !mxRegion a (strmBytes b m.mode m.sparse)) then 1
    else if m.sparse && m.mode != .fwd || m.sparse && m.latched.smooth then 2
    else if m.mode == .wgrad &&
        (strmRow b != 0 || decide (scratchBytes < m.gradOff + (strmVc b + 1) * imgBytes m.gradFmt.toNat)) then 5
    else 0
  | 0x0A =>
    if 2 ≤ drDst b then
      let sa := a % 2 ^ 32
      match descOf k.ss (sidOf sa) with
      | none => 3
      | some d => if inStream d (rowOf sa + drNr b) (elOf sa + 127) then 0 else 3
    else 0
  | _ => 0

/-- The ticks that a command occupies (R183). -/
def mxLen (m : Mx) (q : MxCmd) : Nat :=
  let b := q.b.toNat
  match q.op with
  | 0x04 => 128
  | 0x05 => 2
  | 0x0C => if q.a.toNat.testBit 63 then 16 else 1
  | 0x08 =>
    let n := (strmVc b + 1) * imgPasses (strmFmt b)
    if m.mode = .wgrad then n * imgPasses m.gradFmt.toNat else n
  | 0x0A => drNr b + 1
  | _ => 1

/-- A command starts in this tick: its check, its length, and for a wld the latching of format and factors (R178). -/
def mxBegin (k : Core) (q : MxCmd) (follow : Bool) : Core :=
  let err := mxStartErr k q follow
  let k := if err ≠ 0 then mxError k err (if q.op = 0x08 ∨ follow then q.tag.toNat else 0) else k
  let m := k.mx
  let m := if q.op = 0x04 ∧ err = 0 then { m with latched := m.pendFmt } else m
  let k := if err = 3 then { k with ss := { k.ss with drains := k.ss.drains.filter fun d => d.1 != q.id } } else k
  { k with mx := { m with running := some { cmd := q, start := k.now, len := if err = 0 then mxLen m q else 1, images := [],
                                            images2 := [], edges := [], follow := follow, mode := m.mode, err := err } } }

/-- The next command starts when the array is free and its tick has come (R183); an ADMIT stands for its follow-on
(R195). -/
def mxTryStart (k : Core) : Core :=
  match k.mx.running, k.mx.queue with
  | none, q :: rest =>
    if !mxMayStart k || k.now ≤ q.trig then k
    else if q.op = 0x0D then
      match k.mx.follow.find? (·.tag == q.tag) with
      | none => k
      | some f =>
        if f.op = 0x08 ∧ k.now < q.scaleMin then k
        else
          let k := { k with mx := { k.mx with queue := rest, follow := k.mx.follow.filter fun x => x.tag != q.tag } }
          mxBegin k { f with id := q.id, seed := q.seed, tidx := q.tidx } true
    else if q.op = 0x08 ∧ k.now < q.scaleMin then k
    else mxBegin { k with mx := { k.mx with queue := rest } } q false
  | _, _ => k

/-- MX_COMMAND_START: the array's tick of core `c`: the next command starts if it can, and the running command reads what
this tick reads (R183, R200). -/
def execMxCommandStart (c : Nat) (st : State) : Host.Outcome State Fault Refusal :=
  if numCores ≤ c then .fault .noSuchAgent else .next (mxRead (modCore st c mxTryStart) c)

/-! ### Ending -/

/-- A smoothing factor that is not a positive normal FP32 value is taken as 1.0 (R177). -/
def factorOk (x : Nat) : Bool := decide (0x00800000 ≤ x) && decide (x < 0x7F800000)

/-- The pending format after a wfmt, with SMBAD (R177). -/
def wfmtEnd (m : Mx) (r : MxRun) : Mx × Bool :=
  let a := r.cmd.a.toNat
  let f := m.pendFmt
  if a.testBit 4 then
    let b := r.images.headD []
    let xs := (List.range 128).map fun j => field b (4 * j) 4
    ({ m with pendFmt := { fmt := BitVec.ofNat 4 a, smooth := true,
                           fac := tfrom (0 : Lane) 128 fun j =>
                             let x := xs.getD j 0
                             BitVec.ofNat 32 (if factorOk x then x else 0x3F800000) } },
     xs.any fun x => !factorOk x)
  else ({ m with pendFmt := { f with fmt := BitVec.ofNat 4 a, smooth := false } }, false)

/-- The effect of a command at the end of its run (R177 to R188). -/
def mxEnd (k : Core) (r : MxRun) : Core :=
  let m := k.mx
  let a := r.cmd.a.toNat
  let b := r.cmd.b.toNat
  if r.err ≠ 0 then k
  else
    match r.cmd.op with
    | 0x04 => mxFlags k ((r.images.zipIdx.flatMap fun im => wldVals m im.2 im.1).foldl (fun f x => f ||| x.2) 0)
    | 0x05 => let (m', bad) := wfmtEnd m r; orMxstat { k with mx := m' } (if bad then 0x20000 else 0)
    | 0x06 => { k with mx := { m with mode := if a = 0 then .fwd else if a = 1 then .bwd else .wgrad } }
    | 0x08 =>
      let (m', fl, bad) := streamAll m r
      orMxstat (mxFlags { k with mx := m' } fl) (if bad then 0x40000 else 0)
    | 0x09 => { k with mx := { m with pairs := [] } }
    | 0x0B => { k with mx := { m with dfn := r.cmd.a } }
    | 0x0C =>
      if a.testBit 63 then
        let bs := r.images.headD []
        { k with mx := { m with sparse := true, meta2 := tfrom (0 : Byte) 4096 fun i => bs.getD i 0 } }
      else { k with mx := { m with sparse := false } }
    | 0x0F => { k with mx := { m with gradOff := a, gradFmt := BitVec.ofNat 4 b, gradScale := BitVec.ofNat 8 (bits b 15 8) } }
    | _ => k

/-- MX_COMMAND_END: the running command of core `c` ends in its last tick (R183). -/
def execMxCommandEnd (c : Nat) (st : State) : Host.Outcome State Fault Refusal :=
  if numCores ≤ c then .fault .noSuchAgent
  else .next (modCore st c fun k =>
    match k.mx.running with
    | none => k
    | some r =>
      if k.now + 1 < r.start + r.len then k
      else
        let k := mxEnd k r
        { k with mx := { k.mx with running := none, count := k.mx.count + 1 } })

/-- SCALE_LATCH_LOAD: the edge scales of core `c` that are due load (R182). -/
def execScaleLatchLoad (c : Nat) (st : State) : Host.Outcome State Fault Refusal :=
  if numCores ≤ c then .fault .noSuchAgent
  else .next (
    let due := (coreOf st c).mx.scales.filter fun s => decide (s.1 ≤ (coreOf st c).now)
    let st := due.foldl (fun st s =>
      let b := swzRead st c s.2 128
      modCore st c fun k => { k with mx := { k.mx with edge := tfrom (0x7F : Byte) 128 fun j => b.getD j 0 } }) st
    modCore st c fun k => { k with mx := { k.mx with scales := k.mx.scales.filter fun s => !decide (s.1 ≤ k.now) } })

/-! ### Drains (R52, R190 to R194) -/

/-- DRAIN_ROW_READ: the running drain of core `c` reads its next row, with its derivative input, and clears it for CLR
(R190). -/
def execDrainRowRead (c : Nat) (st : State) : Host.Outcome State Fault Refusal :=
  if numCores ≤ c then .fault .noSuchAgent
  else
    let k := coreOf st c
    match k.mx.running with
    | none => .next st
    | some r =>
      let b := r.cmd.b.toNat
      let i := k.now - r.start
      if r.cmd.op ≠ 0x0A ∨ r.err ≠ 0 ∨ drNr b < i then .next st
      else
        let row := drRow0 b + i
        let der := if 8 ≤ drFn b then swzRead st c (drZoff b + i * drZstride b) (drZstride b) else []
        let x : DrainRow := { cmd := r.cmd, i := i, due := k.now + 139,
                              pairs := (k.mx.pairs.filter fun p => p.1 / 128 == row).map fun p => (p.1 % 128, p.2),
                              der := der, dfn := k.mx.dfn }
        .next (setCore st c { k with mx := { k.mx with
          rows := k.mx.rows ++ [x]
          pairs := if b.testBit 3 then k.mx.pairs.filter fun p => p.1 / 128 != row else k.mx.pairs } })

/-- z of a pair under a scale (R52, R190). DESIGN CHOICE (log 44): the special cases give no sign of z where c is a zero and s + e is not;
it is the exclusive or of their signs. -/
def drainZ (s e c : Num) (mode : Nat) : Num × Flags8 :=
  let fc := sigFlag c
  if isNan s || isNan c then (.nan false, fc)
  else if isInf s then (if isZero c then (.nan false, fNV) else (.inf (signOf s != signOf c), 0))
  else
    let t := (addN (mode == 2) s e).1
    if isZero t then (if isInf c then (.nan false, fNV) else (.fin (if isZero s then signOf s else mode == 2) 0 0, 0))
    else mulN t c

/-- An exact value is below a bound. -/
def exactBelow (x : Exact) (b : Num) : Bool :=
  match x with
  | .num n => ltN n b
  | .between neg m e => if neg then !ltN b (.fin true m e) else !ltN b (.fin false (m + 1) e)

/-- An exact value is above a bound. -/
def exactAbove (x : Exact) (b : Num) : Bool :=
  match x with
  | .num n => ltN b n
  | .between neg m e => if neg then !ltN (.fin true (m + 1) e) b else !ltN (.fin false m e) b

/-- Whether an exact value is a NaN. -/
def exactNan : Exact → Bool
  | .num n => isNan n
  | _ => false

/-- The clip of an exact value (R52, R190): with LO above HI the result is LO; a NaN bound disables its side.
DESIGN CHOICE (log 44): a zero z equals a bound that is a zero of the other sign, and stays; a bound that is a signalling NaN sets no
flag. -/
def drainClip (b : Nat) (dfn : Word) (x : Exact) : Exact :=
  let lo := fp32.toNum (bits dfn.toNat 15 0 * 2 ^ 16)
  let hi := fp32.toNum (bits dfn.toNat 31 16 * 2 ^ 16)
  if exactNan x then x
  else
    let x := if b.testBit 1 && !isNan hi && exactAbove x hi then .num hi else x
    if b.testBit 0 && !isNan lo && exactBelow x lo then .num lo else x

/-- The function step of a drain (R191). -/
def drainFn (fn : Nat) (z zin : Num) : Exact × Flags8 :=
  match fn with
  | 0 => (.num z, 0)
  | 1 => (.num (if isNan z then .nan false else if ltN numZero z then z else numZero), 0)
  | 2 => sigmE z
  | 3 => tanhE z
  | 4 => siluE z
  | 5 => gelutE z
  | fn =>
    if isNan z || isNan zin then (.num (.nan false), sigFlag zin)
    else timesDeriv z (derivAt fn zin)

/-- The exact output of an element, before its rounding (R190). -/
def drainExact (b : Nat) (dfn : Word) (p : BitVec 36 × BitVec 36) (zin : Num) : Exact × Flags8 :=
  let c := fp32.toNum (bits dfn.toNat 63 32)
  let (z, f1) := drainZ (a36Num p.1) (a36Num p.2) c (drRm b)
  let (w, f2) := drainFn (drFn b) z zin
  (drainClip b dfn w, f1 ||| f2)

/-- Element `j` of the derivative input of a row. -/
def drainZin (b : Nat) (der : List Byte) (j : Nat) : Num :=
  if b.testBit 41 then bf16.toNum (field der (2 * j) 2) else fp32.toNum (field der (4 * j) 4)

/-- The random bits of an element under RS (R192). -/
def drainRb (r : DrainRow) (j : Nat) : Nat :=
  let b := r.cmd.b.toNat
  if drRm b = 4 then
    let step := if 2 ≤ drDst b then bits r.cmd.a.toNat 63 32 else 0
    bits (genG r.cmd.seed.toNat step (bits b 36 27) ((r.cmd.tidx.toNat * 2 ^ 14 + (drRow0 b + r.i) * 128 + j) % 2 ^ 48)) 31 16
  else 0

/-- Column `j` of a drained row, exactly. -/
def drainElem (r : DrainRow) (j : Nat) : Exact × Flags8 :=
  drainExact r.cmd.b.toNat r.dfn (tget pairZero r.pairs j) (drainZin r.cmd.b.toNat r.der j)

/-- Column `j` of a drained row in its destination format. -/
def drainOut (r : DrainRow) (j : Nat) : Nat × Flags8 :=
  let b := r.cmd.b.toNat
  let (x, f) := drainElem r j
  let (v, f') := encodeNum (drFmt b) (b.testBit 2) (drRm b) (drainRb r j) x
  (v, f ||| f')

/-- The bytes of a drained row in scratchpad, with their flags. -/
def drainBytes (r : DrainRow) : List Byte × Flags8 :=
  let b := r.cmd.b.toNat
  if drFmt b = 0xA then
    ((List.range 128).flatMap fun j =>
      let p := tget pairZero r.pairs j
      leBytes 9 (p.1.toNat + p.2.toNat * 2 ^ 36), 0)
  else
    let os := (List.range 128).map (drainOut r)
    (os.flatMap fun o => leBytes (fmtBits (drFmt b) / 8) o.1, os.foldl (fun f o => f ||| o.2) 0)

/-- A drained row enters the stream store (R194). -/
def drainToStream (k : Core) (r : DrainRow) : Core :=
  let b := r.cmd.b.toNat
  let sa := r.cmd.a.toNat % 2 ^ 32
  let sid := sidOf sa
  let k := match descOf k.ss sid with
    | none => k
    | some d => (List.range 128).foldl (fun k j =>
        let (x, f) := drainElem r j
        let (q, f') := roundS48 d.f (drRm b) (drainRb r j) x
        let fl := f ||| f'
        let k := orSsstat (mxFlags k fl) (fl.setWidth 64)
        if inStream d (rowOf sa + r.i) (elOf sa + j) then
          addElem k d sid (rowOf sa + r.i) (elOf sa + j) (if drDst b = 3 then -q else q) else k) k
  if r.i = drNr b then { k with ss := { k.ss with drains := k.ss.drains.filter fun d => d.1 != r.cmd.id } } else k

/-- A drained row leaves for its destination (R193, R194). -/
def drainWrite (st : State) (c : Nat) (r : DrainRow) : State :=
  let b := r.cmd.b.toNat
  match drDst b with
  | 0 =>
    let os := (List.range 128).map (drainOut r)
    let lanes := os.map fun o => BitVec.ofNat 32 o.1
    modCore st c fun k => { k with mx := { k.mx with regRows := k.mx.regRows.map fun x =>
      if x.trig = r.cmd.id ∧ x.i = r.i then
        { x with data := some (ofLanes (lanes.take 64), ofLanes (lanes.drop 64)), flags := os.foldl (fun f o => f ||| o.2) 0 }
      else x } }
  | 1 =>
    let (bytes, fl) := drainBytes r
    let off := bits r.cmd.a.toNat 21 0 + r.i * drStride b
    let st := performSwz st c c off bytes r.cmd.id none
    let st := modCore st c fun k => { (mxFlags k fl) with scrTick := if rowStart r ≤ firstTry k then k.now + 1 else k.scrTick }
    strikeEw st c 4 0 r.cmd.lvl (touchedRange (2 ^ 60) (windowBase c + off) bytes.length)
  | _ => modCore st c fun k => drainToStream k r

/-- DRAIN_ROW_WRITE: the rows of core `c` that are due are written or become ready (R193, R194). -/
def execDrainRowWrite (c : Nat) (st : State) : Host.Outcome State Fault Refusal :=
  if numCores ≤ c then .fault .noSuchAgent
  else
    let k := coreOf st c
    if enginesStopped k then .next st
    else
      let due := k.mx.rows.filter fun r => decide (r.due ≤ k.now)
      let st := setCore st c { k with mx := { k.mx with rows := k.mx.rows.filter fun r => !decide (r.due ≤ k.now) } }
      .next (due.foldl (fun st r => drainWrite st c r) st)

/-! ### Register drains at issue (R193) -/

/-- The row that the next bundle of the core's level is due to receive is not ready. -/
def regRowWaits (k : Core) : Bool := k.mx.regRows.any fun r => r.lvl == lvlOf k && decide (r.cnt ≤ 1) && r.data.isNone

/-- Delivering a row to mx.dl and mx.dh with its flags. -/
def deliverRow (k : Core) (r : RegRow) : Core :=
  match r.data with
  | none => k
  | some (lo, hi) =>
    mxFlags { k with ports := { k.ports with vRes := tset 0 (tset 0 k.ports.vRes 0x0B lo) 0x0C hi } } r.flags

/-- The row that a stop has made due lands in mx.dl and mx.dh once it is ready, with shadow entries for what has still to read the
ports (R97, R199, R323). -/
def landRow (k : Core) : Core :=
  match k.mx.regRows.find? fun r => r.lvl == .t && r.cnt == 0 && r.data.isSome with
  | some r =>
    lateShadows k (deliverRow { k with mx := { k.mx with regRows := k.mx.regRows.filter fun x =>
      !(x.lvl == .t && x.cnt == 0 && x.data.isSome) } } r)
  | none => k

/-- One issue tick of the core's level: rows come one nearer, and those due are delivered (R193). -/
def advanceRows (k : Core) : Core :=
  let l := lvlOf k
  let rs := k.mx.regRows.map fun r => if r.lvl = l then { r with cnt := r.cnt - 1 } else r
  (rs.filter fun r => r.lvl == l && r.cnt == 0).foldl deliverRow
    { k with mx := { k.mx with regRows := rs.filter fun r => !(r.lvl == l && r.cnt == 0) } }

/-! ### Follow-ons (R195) -/

/-- FOLLOW_ON_ARRIVE: the follow-ons that couriers deliver enter the buffer of 8; one whose tag stands in the buffer is
discarded as DUPTAG, and one that finds the buffer full waits. -/
def execFollowOnArrive (c : Nat) (st : State) : Host.Outcome State Fault Refusal :=
  if numCores ≤ c then .fault .noSuchAgent
  else .next (modCore st c fun k =>
    k.mx.arriving.foldl (fun k f =>
      if k.mx.follow.any (·.tag == f.tag) then
        let k := mxError k 4 f.tag.toNat
        { k with mx := { k.mx with count := k.mx.count + 1 } }
      else if k.mx.follow.length < 8 then { k with mx := { k.mx with follow := k.mx.follow ++ [f] } }
      else { k with mx := { k.mx with arriving := k.mx.arriving ++ [f] } })
      { k with mx := { k.mx with arriving := [] } })

/-! ### The meanings of the slots that trigger them (R92) -/

/-- WLD (R178). -/
def execWld (n : BitVec 1) (g : BitVec 4) (s : BitVec 9) (st : State) :
    Host.Outcome State Fault Refusal := runTrigger trigWld 0x04 n g s st
/-- WFMT (R177). -/
def execWfmt (n : BitVec 1) (g : BitVec 4) (s : BitVec 9) (st : State) :
    Host.Outcome State Fault Refusal := runTrigger trigWfmt 0x05 n g s st
/-- MODE (R179). -/
def execMode (n : BitVec 1) (g : BitVec 4) (s : BitVec 9) (st : State) :
    Host.Outcome State Fault Refusal := runTrigger trigMode 0x06 n g s st
/-- SCALE (R182). -/
def execScale (n : BitVec 1) (g : BitVec 4) (s : BitVec 9) (st : State) :
    Host.Outcome State Fault Refusal := runTrigger trigScale 0x07 n g s st
/-- STRM (R180). -/
def execStrm (n : BitVec 1) (g : BitVec 4) (s : BitVec 9) (st : State) :
    Host.Outcome State Fault Refusal := runTrigger trigStrm 0x08 n g s st
/-- ACCZ (R187). -/
def execAccz (n : BitVec 1) (g : BitVec 4) (s : BitVec 9) (st : State) :
    Host.Outcome State Fault Refusal := runTrigger trigAccz 0x09 n g s st
/-- DRAIN (R189). -/
def execDrain (n : BitVec 1) (g : BitVec 4) (s : BitVec 9) (st : State) :
    Host.Outcome State Fault Refusal := runTrigger trigDrain 0x0A n g s st
/-- DFN (R188). -/
def execDfn (n : BitVec 1) (g : BitVec 4) (s : BitVec 9) (st : State) :
    Host.Outcome State Fault Refusal := runTrigger trigDfn 0x0B n g s st
/-- SPAR (R185). -/
def execSpar (n : BitVec 1) (g : BitVec 4) (s : BitVec 9) (st : State) :
    Host.Outcome State Fault Refusal := runTrigger trigSpar 0x0C n g s st
/-- ADMIT (R195). -/
def execMxAdmit (n : BitVec 1) (g : BitVec 4) (s : BitVec 9) (st : State) :
    Host.Outcome State Fault Refusal := runTrigger trigMxAdmit 0x0D n g s st
/-- MXST (R198). -/
def execMxst (n : BitVec 1) (g : BitVec 4) (s : BitVec 9) (st : State) :
    Host.Outcome State Fault Refusal := runTrigger trigMxst 0x0E n g s st
/-- WGSTEP (R184). -/
def execWgstep (n : BitVec 1) (g : BitVec 4) (s : BitVec 9) (st : State) :
    Host.Outcome State Fault Refusal := runTrigger trigWgstep 0x0F n g s st

end Sys2Proof.Machine
end

