-- ==== Sys2Proof/Machine/Courier.lean ====
section
/-! DEFINITION. CP operations (R220 to R241): courier queues and their records, copies and plane images, the Sorter, adds
and reductions, write pointers and status; with the events in which commands start, land and resume. -/

namespace Sys2Proof.Machine

/-! ### Queues (R221, R222; log 15) -/

/-- Queue `q` of a core. -/
def queueOf (k : Core) (q : Nat) : Queue := tget Queue.reset k.cp.queues q

/-- Changing a queue. -/
def modQueue (k : Core) (q : Nat) (f : Queue → Queue) : Core :=
  { k with cp := { k.cp with queues := tset Queue.reset k.cp.queues q (f (queueOf k q)) } }

/-- The time base of a queue: the core's unfrozen ticks for its own courier, the die's for a die courier. -/
def cpNow (st : State) (c q : Nat) : Nat := if q < 4 then (coreOf st c).now else (dieOf st (dieIx c)).dtick

/-- Where a virtual address of the courier's own records lies, by the page tables as they stand. -/
def recordPa (st : State) (c va : Nat) : Option (Nat × Nat) :=
  match rootOf st c with
  | none => none
  | some root =>
    match walkLevels st.mem va [0, 1, 2, 3] root with
    | .error _ => none
    | .ok (a, size) =>
      let pte := memNat st.mem a 8
      let k := coreOf st c
      some (ptePa pte + va % size, if pteKd pte then k.csr.keyid.toNat else pteKey pte)

/-- The runs of `n` bytes at `x` that no page splits: address, position and length. -/
def runsOf (x n : Nat) : List (Nat × Nat × Nat) :=
  let k := min n (4096 - x % 4096)
  if k < n then [(x, 0, k), (formAdd x (k : Int), k, n - k)] else [(x, 0, k)]

/-- Writing bytes of a ring or a queue record; what no mapping covers is not written (log 15). -/
def writeRecord (st : State) (c va : Nat) (bytes : List Byte) : State :=
  if va = 0 then st
  else (runsOf va bytes.length).foldl (fun st r =>
    match recordPa st c r.1 with
    | none => st
    | some (pa, key) => performKeyed st c key pa ((bytes.drop r.2.1).take r.2.2) st.stamp [(c, st.stamp)] (some .s) .core none) st

/-- Reading bytes of a ring or a queue record, which a mapping must cover. -/
def readRecord (st : State) (c va n : Nat) : Option (List Byte) :=
  if va = 0 then none
  else (runsOf va n).foldl (fun o r =>
    match o, recordPa st c r.1 with
    | some l, some (pa, key) => some (l ++ (List.range r.2.2).map fun i => keyedByte st key (memByte st.mem) (pa + i))
    | _, _ => none) (some [])

/-- Writing at byte `off` of the record of queue `q`. -/
def writeField (st : State) (c q off : Nat) (bytes : List Byte) : State :=
  let base := (queueOf (coreOf st c) q).recAddr.toNat
  if base = 0 then st else writeRecord st c (base + off) bytes

/-- HEAD, TAIL and PROG go to the record of a queue (R222). -/
def mirrorQueue (st : State) (c q : Nat) : State :=
  let x := queueOf (coreOf st c) q
  writeField st c q 24 (leBytes 4 x.head.toNat ++ leBytes 4 x.tail.toNat ++ leBytes 8 x.prog)

/-- PROG goes to the record as bytes land (R222). -/
def mirrorProg (st : State) (c q : Nat) : State :=
  writeField st c q 32 (leBytes 8 (queueOf (coreOf st c) q).prog)

/-- WP of the four channels goes to their records at a stop (R222). -/
def mirrorStops (st : State) (c : Nat) : State :=
  (List.range 4).foldl (fun st q => writeField st c q 40 (leBytes 8 (tget 0 (coreOf st c).cp.wp q).toNat)) st

/-- The bytes of a command entry (R223). -/
def entryBytes (m : CpCmd) : List Byte :=
  leBytes 8 m.dest.toNat ++ leBytes 8 m.tb.toNat ++ leBytes 8 m.ctl.toNat ++ leBytes 1 m.op ++ leBytes 1 1 ++ leBytes 6 0

/-- The 128 bytes of an auxiliary entry (R222, R223; log 15): the shape record or the Sorter snapshot, a destination shape
in the second half, zeros. -/
def auxBytes (m : CpCmd) : List Byte := (m.aux ++ m.dst ++ List.replicate 128 0).take 128

/-- A command with the content that an entry and an auxiliary entry give it. -/
def withEntry (m : CpCmd) (e x : List Byte) : CpCmd :=
  let op := field e 24 1
  { m with op := op, dest := .ofNat 64 (field e 0 8), tb := .ofNat 64 (field e 8 8), ctl := .ofNat 64 (field e 16 8)
           aux := x.take (if op = 0x07 then 94 else 64), dst := if op = 0x07 then [] else x.drop 64 }

/-- The entry and the auxiliary entry at position `h` of a queue's rings. -/
def ringBytes (st : State) (c : Nat) (x : Queue) (h : Nat) : Option (List Byte × List Byte) :=
  let i := h % 2 ^ x.log2
  match readRecord st c (if x.ring = 0 then 0 else x.ring.toNat + 32 * i) 32, readRecord st c (if x.aux = 0 then 0 else x.aux.toNat + 128 * i) 128 with
  | some e, some y => some (e, y)
  | _, _ => none

/-- The command at position `h` of a queue's rings, as a courier that finds it in memory reads it. -/
def ringCmd (st : State) (c : Nat) (x : Queue) (h : Nat) : Option CpCmd :=
  let k := coreOf st c
  let blank : CpCmd := { id := st.stamp + h % 2 ^ 32, op := 0, dest := 0, tb := 0, ctl := 0, aux := [], dst := [], stamp := st.stamp,
                         asid := k.csr.asid, keyid := k.csr.keyid, lvl := .t, issued := k.now, cap := none }
  (ringBytes st c x h).map fun e => withEntry blank e.1 e.2

/-- Whether a reserved bit of a queue record is set (R5, R222). -/
def queueBad (b : List Byte) : Bool :=
  field b 16 1 / 16 != 0 || field b 17 1 / 2 != 0 || field b 18 6 != 0 || field b 56 8 != 0

/-- A queue as the 64 bytes of its record at `va` hold it; commands that are still held for the same entries stay as they
are (R222, R336). -/
def queueFrom (st : State) (c va : Nat) (b : List Byte) (old : Queue) : Queue :=
  let head := BitVec.ofNat 32 (field b 24 4)
  let tail := BitVec.ofNat 32 (field b 28 4)
  let log2 := field b 16 1 % 16
  let same := old.recAddr.toNat == va && old.head == head && old.tail == tail && old.ring.toNat == field b 0 8
  let x : Queue := { ring := .ofNat 64 (field b 0 8), aux := .ofNat 64 (field b 8 8), log2 := log2, head := head, tail := tail,
                     prog := field b 32 8, faulted := (field b 17 1).testBit 0, faddr := .ofNat 64 (field b 48 8),
                     recAddr := .ofNat 64 va, cmds := old.cmds, running := old.running }
  if same then x
  else { x with cmds := (List.range (min (tail - head).toNat (2 ^ log2))).filterMap fun i => ringCmd st c x (head.toNat + i)
                running := none }

/-- Queue `q` of core `c` as memory has it now: its record is the authority (R222), but for the fault that a poll reads
(R337). A queue whose record no mapping covers stands as it is (log 15). -/
def liveQueue (st : State) (c q : Nat) : Queue :=
  let x := queueOf (coreOf st c) q
  match readRecord st c x.recAddr.toNat 64 with
  | some b => { queueFrom st c x.recAddr.toNat b x with faulted := x.faulted, faddr := x.faddr }
  | none => x

/-- The courier takes a queue as memory has it. -/
def syncQueue (st : State) (c q : Nat) : State :=
  let x := liveQueue st c q
  modCore st c fun k => modQueue k q fun _ => x

/-- A command joins its queue: entry and auxiliary entry are written, then TAIL advances (R222). -/
def appendCmd (st : State) (c q : Nat) (m : CpCmd) : State :=
  let st := syncQueue st c q
  let x := queueOf (coreOf st c) q
  let slot := x.tail.toNat % 2 ^ x.log2
  let st := if x.ring = 0 then st else writeRecord st c (x.ring.toNat + 32 * slot) (entryBytes m)
  let st := if x.aux = 0 then st else writeRecord st c (x.aux.toNat + 128 * slot) (auxBytes m)
  let st := modCore st c fun k => modQueue k q fun x => { x with tail := x.tail + 1, cmds := x.cmds ++ [m] }
  mirrorQueue st c q

/-! ### Control words (R228, R234, R236, R237, R239) -/

/-- UNITS. -/
def cpUnits (d : Nat) : Nat := bits d 43 20
/-- DVIEW. -/
def cpDview (d : Nat) : Nat := bits d 15 14
/-- RM. -/
def cpRm (d : Nat) : Nat := bits d 12 10
/-- DFMT. -/
def cpDfmt (d : Nat) : Nat := bits d 9 6
/-- OP of cpred. -/
def cpOp (d : Nat) : Nat := bits d 18 17

/-- The control word of R228, for one of its operations (low code), on the port alone: reserved bits, RM, DVIEW, the fields
that the operation wants zero or in a range, an operand format for plane images (R175), a format that cpred reduces (R238). -/
def cpCtlOk (op d : Nat) : Bool :=
  bits d 63 44 == 0 && bits d 5 3 == 0 && decide (cpRm d ≤ 3) && decide (cpDview d ≤ 2) && decide (cpDfmt d < 12) &&
    (match op with
     | 0x04 => !d.testBit 19 && cpOp d == 0 && (cpDview d != 1 || imgPasses (cpDfmt d) != 0)
     | 0x07 => !d.testBit 19 && cpOp d == 0 && cpDfmt d == 0 && cpRm d == 0 && cpDview d == 0
     | 0x0A => cpOp d == 0 && cpDfmt d == 0 && cpDview d == 0 && !d.testBit 16
     | 0x0B => !d.testBit 19 && cpOp d != 3 && cpDview d != 1 && (cpDfmt d == 0 || cpDfmt d == 0xB)
     | _ => cpOp d == 0 && cpDview d != 2 && (cpDview d != 1 || imgPasses (cpDfmt d) != 0))

/-- The control word of cpymx (R234), on the port alone; with PL its format is an operand format (R175). -/
def cpymxCtlOk (d : Nat) : Bool :=
  bits d 19 18 == 0 && bits d 7 3 == 0 && decide (d % 8 < 4) && (!d.testBit 17 || bits d 63 48 == 0) &&
    (!d.testBit 16 || imgPasses (bits d 47 44) != 0)

/-- The control word of a command of any operation. -/
def ctlOk (op d : Nat) : Bool := if op = 0x05 then cpymxCtlOk d else cpCtlOk op d

/-- The logical core that port a of cpadd names (R237). -/
def cpaddTarget (a : Nat) : Nat := 192 * bits a 41 40 + 16 * bits a 39 36 + bits a 35 32

/-- The logical cores that port a of cpbc selects (R239). -/
def cpbcTargets (a : Nat) : List Nat :=
  (List.range numCores).filter fun l =>
    a.testBit (32 + l / 192) && a.testBit (36 + l % 192 / 16) && a.testBit (48 + l % 16)

/-- The cores that the launch of core `c` uses. -/
def launchCores (st : State) (c : Nat) : List Nat :=
  match launchOf st c with
  | some l => l.cores
  | none => [c]

/-- Whether a destination word breaks the form of its operation (R220, R226, R237, R239). -/
def destBad (op x d : Nat) : Bool :=
  match op with
  | 0x05 => !localForm x
  | 0x0A => bits x 63 42 != 0 || decide (12 ≤ bits x 39 36)
  | 0x0C => bits x 31 22 != 0 || (cpbcTargets x).isEmpty
  | 0x07 => !formOk x
  | _ => cpDview d != 2 && !formOk x

/-- The check of port a on the ports alone (R226); cpbc selects no core that the launch does not use (R239). -/
def cpDestCheck (st : State) (op : Nat) (a : Args) : Check :=
  let x := a.a.toNat
  illctlIf (destBad op x a.d.toNat || (op == 0x0C && (cpbcTargets x).any fun t => !(launchCores st a.core).contains t)) 0 x

/-- Whether b of seqgo sets a reserved bit, names no level count, or with the levels' CNT fields counts above 2^32 (R236). -/
def nestBad (b : Nat) (cnt : Nat → Nat) : Bool :=
  let n := bits b 18 16
  bits b 63 19 != 0 || n == 0 || n == 7 || decide (2 ^ 32 < ((List.range n).map fun l => cnt l + 1).foldl (· * ·) 1)

/-- The check of port b of seqgo (R236). -/
def seqgoCheck (k : Core) (b : Nat) : Check :=
  illctlIf (nestBad b fun l => (tget SortLevel.reset k.cp.levels l).cnt.toNat) 1 b

/-- Whether a barrier word breaks its form: the local form for per-target barriers, no UNITS without a barrier (R226, R239). -/
def barBad (op x d : Nat) : Bool :=
  if op = 0x0C ∧ d.testBit 19 = true then !localForm x else if x = 0 then cpUnits d != 0 else !formOk x

/-- The check of port c on the ports alone; UNITS without a barrier is the fault of port d (R226, R239). -/
def cpBarForm (op : Nat) (a : Args) : Check :=
  let x := a.c.toNat
  let d := a.d.toNat
  if x = 0 ∧ ¬(op = 0x0C ∧ d.testBit 19 = true) then illctlIf (barBad op x d) 3 d else illctlIf (barBad op x d) 2 x

/-! ### Capture (R227) -/

/-- 64 bytes of the core's own swizzled view at a local offset. -/
def captureRec (k : Core) (off : Nat) : List Byte := memRead (swzSeen k) off 64

/-- CPREC for the record at a local offset (R225): its place and its fields. -/
def recCheck (k : Core) (off : Nat) : Check :=
  faultIf (off % 64 != 0 || decide (scratchBytes < off + 64) || recBad (captureRec k off)) 14 0 off

/-- Whether DVIEW 2 applies. -/
def shapedDest (op d : Nat) : Bool := (op == 0x04 || op == 0x0B) && cpDview d == 2

/-- The auxiliary entry of a command: its shape record, or the Sorter's registers for seqgo (R223, R236). -/
def auxOf (k : Core) (op : Nat) (a : Args) : List Byte :=
  if op = 0x07 then
    let lv := (List.range 6).flatMap fun l =>
      let s := tget SortLevel.reset k.cp.levels l
      leBytes 3 s.cnt.toNat ++ leBytes 5 s.sstr.toNat ++ leBytes 5 s.dstr.toNat
    leBytes 8 k.cp.sbase.toNat ++ leBytes 4 a.b.toNat ++ leBytes 4 0 ++ lv
  else captureRec k (bits a.b.toNat 21 0)

/-- The second half of the auxiliary entry: a destination shape (log 15). -/
def dstOf (k : Core) (op : Nat) (a : Args) : List Byte :=
  if shapedDest op a.d.toNat then captureRec k (bits a.a.toNat 21 0) else []

/-- The bytes of a destination element; of a pair for INT4. -/
def dstBytes (m : CpCmd) : Nat := if m.op = 0x07 then 1 else elBytes (cmdFmt m)

/-- The command that a trigger appends. -/
def commandOf (st : State) (a : Args) (op : Nat) : CpCmd :=
  let k := coreOf st a.core
  let aux := auxOf k op a
  { id := st.stamp, op := op, dest := a.a, tb := a.c, ctl := a.d, aux := aux, dst := dstOf k op a, stamp := bundleStamp st a.core,
    asid := k.csr.asid, keyid := k.csr.keyid, lvl := a.lvl, issued := k.now
    cap := if op ≠ 0x07 ∧ (shapeOf aux).view = true then some (swzSeen k) else none }

/-! ### Checks (R226) -/

/-- Format pairs of a copy (R233). -/
def pairOk (f g : Nat) : Bool :=
  let conv := fun (x : Nat) => decide (x < 5) || x == 6 || x == 0xB
  f == g || (conv f && conv g)

/-- Formats that a plane image holds, and the largest innermost extent in elements (R233). -/
def planeOk (m : CpCmd) : Bool :=
  let f := cmdFmt m
  let d0 := recDim m.aux 0
  imgPasses f != 0 && decide (d0 ≤ (if f = 8 then 4 else 128))

/-- The third check of R226: the control word against the captured record. -/
def fitCheck (m : CpCmd) : Check :=
  let f := recFmt m.aux
  let d := m.ctl.toNat
  match m.op with
  | 0x07 => .ok
  | 0x0A => illctlIf (!([0, 1, 2, 3, 4, 6, 0xB, 9].contains f)) 3 d
  | 0x0B => illctlIf (f != cpDfmt d || (shapedDest m.op d && d.testBit 16)) 3 d
  | _ => illctlIf (!pairOk f (cmdFmt m) || (cmdPlanes m && !planeOk m) || (shapedDest m.op d && d.testBit 16)) 3 d

/-- The fourth check: the alignment of destination and barrier. -/
def cpAlignCheck (m : CpCmd) : Check :=
  let x := m.dest.toNat
  let al := if cmdPlanes m then 64 else if m.op = 0x07 then 1 else fmtAlign (cmdFmt m)
  let off := if m.op = 0x0C then bits x 21 0 else x
  (faultIf (!shapedDest m.op m.ctl.toNat && m.op != 0x0A && off % al != 0) 7 0 x).andThen
    (faultIf (m.tb.toNat % 16 != 0) 7 0 m.tb.toNat)

/-- The fifth and sixth checks: the barrier's translation and its target. A local offset past the scratchpad reaches no
barrier (log 15). -/
def cpBarCheck (st : State) (a : Args) : Check :=
  let x := a.c.toNat
  if x = 0 then .ok
  else if x.testBit 63 then faultIf (decide (scratchBytes < localOff x + 16)) 8 3 x
  else (xlCheck st a x true).andThen (barTarget a.core (barPa st a x true) x false)

/-- CQFULL (R222). -/
def cqCheck (st : State) (c q : Nat) : Check :=
  let x := liveQueue st c q
  if 2 ^ x.log2 ≤ (x.tail - x.head).toNat then .hold .cqFull 0 else .ok

/-- The queue that a command names. -/
def cpQueue (d : Nat) : Nat := d % 8

/-- The checks of a command in the order of R226, then the hold of a full queue. -/
def cpCheck (op : Nat) (st : State) (a : Args) : Check :=
  let k := coreOf st a.core
  let d := a.d.toNat
  let m := commandOf st a op
  let ports := (cpDestCheck st op a).andThen (((if op = 0x07 then seqgoCheck k a.b.toNat else .ok) : Check).andThen
    ((cpBarForm op a).andThen (illctlIf (!ctlOk op d) 3 d)))
  let srcRec : Check := if op = 0x07 then .ok else recCheck k (bits a.b.toNat 21 0)
  let dstRec : Check := if shapedDest op d then
      (recCheck k (bits a.a.toNat 21 0)).andThen
        (faultIf (recCount m.aux != recCount m.dst || recFmt m.dst != cpDfmt d) 14 0 (bits a.a.toNat 21 0))
    else .ok
  ports.andThen (srcRec.andThen (dstRec.andThen ((fitCheck m).andThen ((cpAlignCheck m).andThen
    ((cpBarCheck st a).andThen (cqCheck st a.core (cpQueue d)))))))

/-! ### Places of the units -/

/-- The destination shape of a command with DVIEW 2. -/
def dstShape (m : CpCmd) : Shape := shapeOf m.dst

/-- The destination address of unit `u`; of line `u` of the plane images. -/
def dstAddr (m : CpCmd) (u : Nat) : Nat :=
  let a := if m.op = 0x0C then 2 ^ 63 + bits m.dest.toNat 21 0 else m.dest.toNat
  if m.op = 0x07 then
    let n := sortLen m.aux
    formAdd (formAdd a (dispOf (sortDims m.aux) ((List.range 6).map (sortD m.aux)) (u / n))) ((u % n : Nat) : Int)
  else if cmdPlanes m then formAdd a ((64 * u : Nat) : Int)
  else if shapedDest m.op m.ctl.toNat then shapeAddr (dstShape m) u
  else formAdd a ((u * dstBytes m : Nat) : Int)

/-- The number of units that land: lines for plane images. -/
def landUnits (m : CpCmd) : Nat :=
  if cmdPlanes m then srcUnits m / unitsPerImage m * (imgBytes (cmdFmt m) / 64) else srcUnits m

/-- The bytes that a unit lands. -/
def landBytes (m : CpCmd) : Nat := if cmdPlanes m then 64 else dstBytes m

/-- Whether the destination is written through the swizzled view. -/
def dstSwizzled (m : CpCmd) : Bool :=
  match m.op with
  | 0x05 => true
  | op => if shapedDest op m.ctl.toNat then (dstShape m).view else m.ctl.toNat.testBit 16

/-- The cores whose scratchpads a local destination lies in: every target of a cpbc, else the issuer. -/
def landCores (c : Nat) (m : CpCmd) : List Nat := if m.op = 0x0C then cpbcTargets m.dest.toNat else [c]

/-- A destination address of a command in the scratchpad of core `o`. -/
def landXlate (st : State) (c o : Nat) (m : CpCmd) (x : Nat) : XRes :=
  if m.op = 0x0C then (if x % 2 ^ 63 < scratchBytes then .ok (windowBase o + x % 2 ^ 63) 0 true else .fault 3)
  else cpXlate st c m x true

/-- The addresses at which a unit of `n` bytes at `x` can meet another page: its first and its last byte. -/
def endsOf (x n : Nat) : List Nat := [x, formAdd x ((n - 1 : Nat) : Int)]

/-! ### What a command finds before a line lands -/

/-- The state of the places of a line: all reachable, a walk to start, a wait, or a fault at an address. -/
inductive CpFind where
  | ok
  | walk (va : Nat) (write : Bool)
  | wait
  | fault (detail va : Nat)
  deriving DecidableEq, Repr

/-- One place. -/
def findOne (st : State) (c : Nat) (r : XRes) (x : Nat) (write : Bool) : CpFind :=
  match r with
  | .ok pa _ _ => if homeAway st pa then .wait else .ok
  | .fault d => .fault d x
  | .miss =>
    match walkFailed (coreOf st c) x true with
    | some d => .fault d x
    | none => .walk x write

/-- The source places of unit `u`. -/
def findSrc (st : State) (c : Nat) (m : CpCmd) (u : Nat) : List CpFind :=
  (endsOf (srcAddr m u) (srcBytes m)).map fun x => findOne st c (cpXlate st c m x false) x false

/-- The destination places of unit `u`. -/
def findDst (st : State) (c : Nat) (m : CpCmd) (u : Nat) : List CpFind :=
  (landCores c m).flatMap fun o => (endsOf (dstAddr m u) (landBytes m)).map fun x => findOne st c (landXlate st c o m x) x true

/-- The first place that is not ready. -/
def firstFind (l : List CpFind) : CpFind := (l.find? fun f => decide (f ≠ .ok)).getD .ok

/-! ### Reading and converting -/

/-- A byte of the source as the issuing core saw it at issue (R227): the core's own swizzled view as captured, the swizzled view of
another core's scratchpad as it had reached the issuer, everything else by its linear view of the location (R220, R261, R268). -/
def srcByte (st : State) (c : Nat) (m : CpCmd) (x : Nat) : Byte :=
  match cpXlate st c m x false with
  | .ok pa key _ =>
    match m.cap, target pa with
    | some mem, .scratch o off => if o = c then memByte mem off else viewThrough true st c m.stamp pa
    | _, _ => viewKeyed st c m.stamp key pa
  | _ => 0

/-- The bytes of unit `u` of the source. -/
def srcRead (st : State) (c : Nat) (m : CpCmd) (u : Nat) : List Byte :=
  (List.range (srcBytes m)).map fun (i : Nat) => srcByte st c m (formAdd (srcAddr m u) (i : Int))

/-- An element in its destination format, with the flags of its rounding (R233). -/
def convertEl (f g rm : Nat) (sat : Bool) (b : List Byte) : List Byte × Flags8 :=
  if f = g then (b, 0)
  else
    let x := numOf f (leNat b)
    let (v, fl) := encodeNum g sat rm 0 (.num x)
    (leBytes (fmtBits g / 8) v, fl ||| sigFlag x)

/-- The exponent byte of a zero of a format: a free value other than 0xFF, which would name an infinity (R176; log 41). -/
def zeroExp (f : Nat) : Nat := Config.zeroExp f % 255

/-- The fields of an image element (R176): sign, magnitude, exponent byte. -/
def imgFields (f x : Nat) : Bool × Nat × Nat :=
  if f = 6 ∨ f = 7 then
    let w := if f = 6 then 8 else 4
    let v := sint w x
    (decide (v < 0), v.natAbs, 0)
  else
    let ff := match f with
      | 0 => fp32
      | 1 => fp16
      | 2 => bf16
      | 3 => e4m3
      | _ => e5m2
    let sg := x.testBit (ff.width - 1)
    match ff.toNum x with
    | .nan _ => (sg, 1, 0xFF)
    | .inf s => (s, 0, 0xFF)
    | .fin s _ _ =>
      let ex := bits x (ff.width - 2) (ff.p - 1)
      let fr := x % 2 ^ (ff.p - 1)
      if ex = 0 then (s, fr, if fr = 0 then zeroExp f else 1) else (s, 2 ^ (ff.p - 1) + fr, ex)

/-- One pair of slots of an X4 block as image fields (R47, R176): an element that an escape code makes zero has the
fields of a zero. -/
def x4Fields (b : List Byte) (acc : List (Bool × Nat × Nat) × Nat) (j : Nat) : List (Bool × Nat × Nat) × Nat :=
  let (l, k) := acc
  let lo := x4Code b (2 * j)
  let hi := x4Code b (2 * j + 1)
  let plain := fun (q : Nat) => (decide (sint 4 q < 0), (sint 4 q).natAbs, 10)
  let zero := (false, 0, zeroExp 8)
  if lo = 8 ∧ hi = 8 then (l ++ [zero, zero], k)
  else if lo = 8 ∨ hi = 8 then
    let b17 := (b.getD 17 0).toNat
    let out := if 2 ≤ k then (false, 1, 0xFF)
      else imgFields 3 ((if lo = 8 then hi else lo) * 16 + (if k = 0 then b17 % 16 else b17 / 16))
    (l ++ (if lo = 8 then [out, zero] else [zero, out]), k + 1)
  else (l ++ [plain lo, plain hi], k)

/-- The fields of the 32 elements of a block. -/
def x4FieldsOf (b : List Byte) : List (Bool × Nat × Nat) := ((List.range 16).foldl (x4Fields b) ([], 0)).1

/-- A plane of 128 bits. -/
def planeBytes (f : Nat → Bool) : List Byte := leBytes 16 ((List.range 128).foldl (fun x j => x + b2n (f j) * 2 ^ j) 0)

/-- A plane image of format `f` from the fields of its elements and its block scales (R175). -/
def imageBytes (f : Nat) (els : List (Bool × Nat × Nat)) (scales : List Byte) : List Byte :=
  let el := fun (j : Nat) => els.getD j (false, 0, 0)
  let planes := (List.range (4 * imgPasses f)).flatMap fun i => planeBytes fun j => (el j).2.1.testBit i
  let exps := if imgExp f then (List.range 128).map fun j => BitVec.ofNat 8 (el j).2.2 else []
  let body := planes ++ planeBytes (fun j => (el j).1) ++ exps ++ (if f = 8 then scales ++ List.replicate (4 - scales.length) 0 else [])
  body ++ List.replicate (imgBytes f - body.length) 0

/-- The plane image `g` of a command, with its flags (R233). -/
def imageOf (st : State) (c : Nat) (m : CpCmd) (g : Nat) : List Byte × Flags8 :=
  let f := recFmt m.aux
  let h := cmdFmt m
  let n := unitsPerImage m
  let raw := (List.range n).map fun i => srcRead st c m (g * n + i)
  if f = 8 then
    (imageBytes 8 (raw.flatMap x4FieldsOf) (raw.map fun b => b.getD 16 0), raw.foldl (fun fl b => fl ||| (x4Decode b).2) 0)
  else if f = 7 then
    (imageBytes 7 (raw.flatMap fun b => [imgFields 7 (leNat b % 16), imgFields 7 (leNat b / 16)]) [], 0)
  else
    let rm := if m.op = 0x05 then 0 else cpRm m.ctl.toNat
    let sat := m.op != 0x05 && m.ctl.toNat.testBit 13
    let vs := raw.map (convertEl f h rm sat)
    (imageBytes h (vs.map fun v => imgFields h (leNat v.1)) [], vs.foldl (fun fl v => fl ||| v.2) 0)

/-- The bytes that unit `u` lands, with its flags. -/
def unitOut (st : State) (c : Nat) (m : CpCmd) (u : Nat) : List Byte × Flags8 :=
  if cmdPlanes m then
    let per := imgBytes (cmdFmt m) / 64
    let (b, fl) := imageOf st c m (u / per)
    ((b.drop (64 * (u % per))).take 64, fl)
  else if m.op = 0x04 ∨ m.op = 0x0C then
    convertEl (recFmt m.aux) (cmdFmt m) (cpRm m.ctl.toNat) (m.ctl.toNat.testBit 13) (srcRead st c m u)
  else (srcRead st c m u, 0)

/-! ### Landing (R229, R238, R239) -/

/-- The class of hit reports for a queue (R349). -/
def cpClass (q : Nat) : Nat := if q < 4 then 1 else 2

/-- One byte run of a command lands at a place. DESIGN CHOICE (log 44): a cpred's write to global memory lands with no scope of its
own, so others see it through a publish as R273 says of every courier's write. -/
def landAt (st : State) (c : Nat) (m : CpCmd) (o x : Nat) (bytes : List Byte) : State :=
  match landXlate st c o m x with
  | .ok pa key _ =>
    match (if dstSwizzled m then target pa else .none : Target) with
    | .scratch h off => performSwz st c h off bytes m.stamp (some m.id)
    | _ => performKeyed st c key pa bytes m.stamp [] none .courier (some m.id)
  | _ => st

/-- The bytes of a unit land, split where a page ends. -/
def landUnit (st : State) (c : Nat) (m : CpCmd) (x : Nat) (bytes : List Byte) : State :=
  (landCores c m).foldl (fun st o =>
    (runsOf x bytes.length).foldl (fun st r => landAt st c m o r.1 ((bytes.drop r.2.1).take r.2.2)) st) st

/-- The bytes that unit `u` touches; a local address has no virtual one (R348). -/
def unitTouched (st : State) (c : Nat) (m : CpCmd) (u : Nat) : List Touched :=
  (landCores c m).flatMap fun o => (runsOf (dstAddr m u) (landBytes m)).flatMap fun r =>
    match landXlate st c o m r.1 with
    | .ok pa _ _ => touchedRange (if r.1.testBit 63 then 2 ^ 60 else r.1) pa r.2.2
    | _ => []

/-- The newest byte of core `o`'s scratchpad in the coherence order of its swizzled view, which a write that `o` has not acquired is
part of (R262, R267, R271). -/
def swzHome (st : State) (o off : Nat) : Byte :=
  let v := (coreOf st o).views
  ((st.wlog.find? fun r => recIn true r (windowBase o + off)).bind fun r =>
    (v.swzWait.find? fun x => x.1 == r.seq && x.2.1 == off).map (·.2.2)).getD (memByte v.swz off)

/-- The bytes at a destination of a reduction as its home holds them. -/
def homeBytes (st : State) (c : Nat) (m : CpCmd) (x : Nat) : List Byte :=
  match cpXlate st c m x true with
  | .ok pa key _ =>
    match (if dstSwizzled m then target pa else .none : Target) with
    | .scratch o off => (List.range 4).map fun i => swzHome st o (off + i)
    | _ => (List.range 4).map fun i => keyedByte st key (memByte st.mem) (pa + i)
  | _ => []

/-- The result of one reduction (R238). -/
def reduceEl (fmt op rm : Nat) (dst src : Nat) : Nat × Flags8 :=
  if fmt = 0xB then
    match op with
    | 0 => ((dst + src) % 2 ^ 32, 0)
    | 1 => (if sint 32 dst < sint 32 src then src else dst, 0)
    | _ => (if sint 32 src < sint 32 dst then src else dst, 0)
  else if op = 0 then
    let (x, f) := addN (rm == 2) (fp32.toNum dst) (fp32.toNum src)
    let (v, f') := roundFmt fp32 false rm 0 (.num x)
    (v, f ||| f')
  else
    let (v, f) := fpMinMax (op == 1) (BitVec.ofNat 32 dst) (BitVec.ofNat 32 src)
    (v.toNat, f)

/-- Unit `u` of a command lands: the flags it gives. -/
def landOne (st : State) (c : Nat) (m : CpCmd) (u : Nat) : State × Flags8 :=
  let (b, fl) := unitOut st c m u
  let x := dstAddr m u
  if m.op = 0x0B then
    let d := m.ctl.toNat
    let (v, f) := reduceEl (cpDfmt d) (cpOp d) (cpRm d) (leNat (homeBytes st c m x)) (leNat b)
    (landUnit st c m x (leBytes 4 v), f)
  else (landUnit st c m x b, fl)

/-- Of the `n` units from `u` on, those that come before one whose first byte lies in another line: bytes land in the order of the
sequence (R229). DEDUCED (log 32): elements of a line that the sequence leaves and comes back to land with each visit. -/
def unitsIn (m : CpCmd) (line : Nat) : Nat → Nat → List Nat
  | 0, _ => []
  | n + 1, u => if dstAddr m u / 64 = line then u :: unitsIn m line n (u + 1) else []

/-- The units that land in one tick: those whose first byte lies in the line of the next unit (R229, R359). -/
def lineUnits (m : CpCmd) (u : Nat) : List Nat := unitsIn m (dstAddr m u / 64) (landUnits m - u) u

/-- Whether no other traffic shares the courier's paths: no other command runs in the package and no core has an access
in flight (R229). -/
def quiet (st : State) (c q : Nat) : Bool :=
  st.cores.all fun x => x.2.accs.isEmpty && x.2.ldq.isEmpty && x.2.sbank.ldq.isEmpty &&
    x.2.cp.queues.all fun y => y.2.running.isNone || (x.1 == c && y.1 == q)

/-- The padded latency of the region of an address of a command; global where it has no translation. -/
def cpLat (c : Nat) (r : XRes) : Nat :=
  match r with
  | .ok pa _ _ => padLoad (regionOf c pa)
  | _ => padLoad 3

/-- The landed bytes of a command advance: progress, in the record too (R222), write pointer, the commands whose writes wpr
has to show (R230). -/
def landed (st : State) (c q : Nat) (m : CpCmd) (units bytes : Nat) (fl : Flags8) (next : Nat) : State :=
  let st := modCore st c fun k =>
    let k := modQueue k q fun x =>
      { x with prog := x.prog + bytes
               running := x.running.map fun r =>
                 { r with elem := r.elem + units, landed := r.landed + bytes, flags := r.flags ||| fl, next := next } }
    { k with cp := { k.cp with
        wp := if q < 4 then tset 0 k.cp.wp q (tget 0 k.cp.wp q + BitVec.ofNat 64 bytes) else k.cp.wp
        landed := if q < 4 ∧ !k.cp.landed.contains (q, m.id) then k.cp.landed ++ [(q, m.id)] else k.cp.landed } }
  mirrorProg st c q

/-- A follow-on enters MX with the last byte of its command (R195, R234). -/
def followOn (k : Core) (q : Nat) (m : CpCmd) : Core :=
  let d := m.ctl.toNat
  let f : MxCmd := { id := m.id, op := if d.testBit 17 then 0x04 else 0x08, a := BitVec.ofNat 64 (localOff m.dest.toNat),
                     b := BitVec.ofNat 64 (bits d 63 44), tag := BitVec.ofNat 8 (bits d 15 8), trig := q, scaleMin := 0,
                     lvl := m.lvl, seed := 0, tidx := 0 }
  { k with mx := { k.mx with arriving := k.mx.arriving ++ [f] } }

/-- Whether a command decrements a barrier in each of its targets (R239). -/
def perTarget (m : CpCmd) : Bool := m.op == 0x0C && m.ctl.toNat.testBit 19

/-- The decrements that a completed command sends (R229, R239), to where the barrier's address leads now (R280), after the
publishes of the core that are in flight (R134; log 34). -/
def sendDecs (st : State) (c : Nat) (m : CpCmd) : State :=
  let n := cpUnits m.ctl.toNat
  let after := lastPub (coreOf st c)
  if m.tb = 0 then st
  else if perTarget m then
    (cpbcTargets m.dest.toNat).foldl (fun st t =>
      sendBar st c (windowBase t + localOff m.tb.toNat) (.dec n) after m.id m.stamp) st
  else
    match cpXlate st c m m.tb.toNat true with
    | .ok pa _ _ => sendBar st c pa (.dec n) after m.id m.stamp
    | _ => st

/-- What the last line of a command finds at its barrier. -/
def findBar (st : State) (c : Nat) (m : CpCmd) (last : Bool) : List CpFind :=
  if !last || m.tb = 0 || perTarget m then [] else [findOne st c (cpXlate st c m m.tb.toNat true) m.tb.toNat true]

/-- A command completes (R229). -/
def completeCmd (st : State) (c q : Nat) (m : CpCmd) (fl : Flags8) : State :=
  let st := modCore st c fun k =>
    let k := orVstat (modQueue k q fun x => { x with head := x.head + 1, prog := 0, cmds := x.cmds.drop 1, running := none }) fl
    if m.op = 0x05 then followOn k q m else k
  mirrorQueue (sendDecs st c m) c q

/-- A queue halts at its head (R232): FAULT, PROG, FADDR and, at this stop, WP go to the record, and the asynchronous event
CPFLT becomes pending. -/
def haltQueue (st : State) (c q va : Nat) : State :=
  let st := modCore st c fun k =>
    let k := modQueue k q fun x => { x with faulted := true, faddr := BitVec.ofNat 64 va }
    let cause := xcauseOf { code := 18, detail := q, xaddr := va, unit := 9, info := 0, async := true }
    xPend { k with pendEv := k.pendEv ++ [(0, cause, BitVec.ofNat 64 va)], xlFault := k.xlFault.filter fun x => !x.2.1 }
  let st := mirrorProg (writeField st c q 17 (leBytes 1 1)) c q
  mirrorStops (writeField st c q 48 (leBytes 8 va)) c

/-- What a place that is not ready does to a queue. -/
def notReady (st : State) (c q : Nat) (m : CpCmd) (f : CpFind) : State :=
  match f with
  | .fault _ va => haltQueue st c q va
  | .walk va w =>
    match rootOf st c with
    | some root =>
      requestWalk st (dieIx c) root m.asid va w { core := c, lvl := m.lvl, key := m.keyid } (if q < 4 then .courier c else .dieCourier c q)
    | none => haltQueue st c q va
  | _ => st

/-- Whether an own atomic that the reads of an engine command of a stamp must see has still to perform (R227). -/
def atomsAheadOf (k : Core) (stamp : Nat) : Bool := k.accs.any fun x => x.atomic.isSome && decide (x.stamp ≤ stamp)

/-- The same of a courier command. -/
def atomsAhead (k : Core) (m : CpCmd) : Bool := atomsAheadOf k m.stamp

/-- The ticks until the next line, under contention a free value (R229; log 8). -/
def lineGap (st : State) (c q : Nat) : Nat × State := if quiet st c q then (1, st) else draw st 1 65536

/-- The next line of a running command that is no add lands, or waits. -/
def landLine (st : State) (c q : Nat) (m : CpCmd) (r : CpRun) : State :=
  let now := cpNow st c q
  let us := lineUnits m r.elem
  let srcs := if cmdPlanes m then
      let g := r.elem / (imgBytes (cmdFmt m) / 64)
      (List.range (unitsPerImage m)).map (g * unitsPerImage m + ·)
    else us
  let last := decide (landUnits m ≤ r.elem + us.length)
  match firstFind (srcs.flatMap (findSrc st c m) ++ us.flatMap (findDst st c m) ++ findBar st c m last) with
  | .ok =>
    let lat := (landCores c m).foldl (fun x o => max x (cpLat c (landXlate st c o m (dstAddr m r.elem)))) 0
    if now < r.start + lat then st
    else
      let (gap, st) := lineGap st c q
      let touched := us.flatMap (unitTouched st c m)
      let (st, fl) := us.foldl (fun (x : State × Flags8) u =>
        let (s, f) := landOne x.1 c m u
        (s, x.2 ||| f)) (st, 0)
      let st := strikeEngine st c (cpClass q) q m.lvl touched
      let st := landed st c q m us.length (us.length * landBytes m) fl (now + gap)
      if last then completeCmd st c q m (r.flags ||| fl) else st
  | f => notReady st c q m f

/-- Whether the couriers of a core land nothing: its context is saved or away, to go on from PROG after the restore (R231, R337), or it
has stopped for a replay or for good (R339, R408). -/
def courierGone (k : Core) : Bool :=
  !k.resident || enginesStopped k || k.run ∈ [.idle, .saved, .parked] || (k.run == .ended && k.endSave == .saved)

/-- COURIER_LINE_LAND: the running command of queue `q` of core `c` lands its next line (R229). -/
def execCourierLineLand (c q : Nat) (st : State) : Host.Outcome State Fault Refusal :=
  if numCores ≤ c ∨ 8 ≤ q then .fault .noSuchAgent
  else
    let k := coreOf st c
    let x := queueOf k q
    match startedOf x with
    | none => .next st
    | some (m, r) =>
      if x.faulted ∨ m.op = 0x0A ∨ courierGone k ∨ cpNow st c q < r.next ∨ atomsAhead k m then .next st
      else .next (landLine st c q m r)

/-! ### Adds (R237) -/

/-- The place of source element `e` in the target stream: row and element, rows counted from the addressed one. -/
def addPlace (m : CpCmd) (n e : Nat) : Nat × Nat :=
  let a := m.dest.toNat
  let x := rowOf a * n + elOf a + e
  (x / n, x % n)

/-- The elements of the next flit: up to 64 bytes, within one row. -/
def flitUnits (m : CpCmd) (n e : Nat) : List Nat :=
  let row := (addPlace m n e).1
  ((List.range (min (64 / srcBytes m) (srcUnits m - e))).map (e + ·)).takeWhile fun v => (addPlace m n v).1 == row

/-- Whether a core accepts no flit because its context is stopped, by the end of its launch too (R219, R231, R334), or is restored
and has not yet started. -/
def stoppedForFlits (k : Core) : Bool :=
  !k.resident || k.run ∈ [.ready, .settling, .saved, .parking, .parked, .saveFailed, .replay, .dead] ||
    (k.run == .ended && (k.stopReq || k.stopNow))

/-- Whether no launch has core `t` and the context of a suspended graph waits to have it back (R231). -/
def ctxSuspended (st : State) (t : Nat) : Bool :=
  (coreOf st t).launch.isNone && st.pm.runs.any fun x => x.2.any fun r => r.run.launches.any fun l => l.cores.contains t

/-- Whether the couriers of other cores hold their flits for core `t` (R219, R231). -/
def flitsHeld (st : State) (t : Nat) : Bool := stoppedForFlits (coreOf st t) || ctxSuspended st t

/-- STREAM_FLIT_ACCEPT: the next flit of the running cpadd of queue `q` of core `c` enters its target's queue (R209, R237). -/
def execStreamFlitAccept (c q : Nat) (st : State) : Host.Outcome State Fault Refusal :=
  if numCores ≤ c ∨ 8 ≤ q then .fault .noSuchAgent
  else
    let k := coreOf st c
    let x := queueOf k q
    match startedOf x with
    | none => .next st
    | some (m, r) =>
      let now := cpNow st c q
      let t := cpaddTarget m.dest.toNat
      let tk := coreOf st t
      let sameDie := dieIx t == dieIx c
      let lat := if t = c then 12 else if sameDie then 96 else 240
      if x.faulted ∨ m.op ≠ 0x0A ∨ courierGone k ∨ now < r.next ∨ now < r.start + lat ∨ atomsAhead k m ∨
          flitsHeld st t ∨ 16 ≤ (if sameDie then tk.ss.dieQ else tk.ss.pkgQ).length then .next st
      else
        let us := flitUnits m r.n r.elem
        let last := decide (srcUnits m ≤ r.elem + us.length)
        match firstFind (us.flatMap (findSrc st c m) ++ findBar st c m last) with
        | .ok =>
          let (row, el) := addPlace m r.n r.elem
          let f : Flit := { sid := sidOf m.dest.toNat, row := row, el := el, fmt := BitVec.ofNat 4 (recFmt m.aux),
                            rm := cpRm m.ctl.toNat, sub := m.ctl.toNat.testBit 19, data := us.flatMap (srcRead st c m),
                            core := c, acc := (dieOf st (dieIx t)).dtick }
          let (gap, st) := lineGap st c q
          let st := modCore st t fun k =>
            { k with ss := if sameDie then { k.ss with dieQ := k.ss.dieQ ++ [f] } else { k.ss with pkgQ := k.ss.pkgQ ++ [f] } }
          let st := landed st c q m us.length (us.length * srcBytes m) 0 (now + gap)
          .next (if last then completeCmd st c q m r.flags else st)
        | f => .next (notReady st c q m f)

/-! ### Starting and resuming -/

/-- Whether the couriers of a core may start a command (R231, R327, R339): those of an ended core while no pre-emption stops it
(R335). -/
def cpMayStart (k : Core) : Bool := k.run ∈ [.run, .halted, .stubflt] || (k.run == .ended && !(k.stopReq || k.stopNow))

/-- The progress at which a command starts from PROG bytes (R231, R337). -/
def unitsAt (m : CpCmd) (prog : Nat) : Nat :=
  if m.op = 0x0A then prog / srcBytes m else prog / landBytes m

/-- The row length that a cpadd reads at its start (R237). -/
def addN0 (st : State) (m : CpCmd) : Nat :=
  if m.op = 0x0A then
    match descOf (coreOf st (cpaddTarget m.dest.toNat)).ss (sidOf m.dest.toNat) with
    | some d => d.n
    | none => 65536
  else 0

/-- Whether a command that stands in a ring is to be rejected: VALID, a reserved bit or a form that no trigger lets pass, an operation
that none appends, a record that R225 refuses, a Sorter snapshot that R236 refuses (R5, R223). -/
def entryBad (e : List Byte) (m : CpCmd) : Bool :=
  field e 25 1 != 1 || field e 26 6 != 0 || !([0x04, 0x05, 0x07, 0x0A, 0x0B, 0x0C].contains m.op) || !ctlOk m.op m.ctl.toNat ||
    destBad m.op m.dest.toNat m.ctl.toNat || barBad m.op m.tb.toNat m.ctl.toNat ||
    (if m.op = 0x07 then nestBad (field m.aux 8 4) fun l => field m.aux (16 + 13 * l) 3 else recBad m.aux) || (shapedDest m.op m.ctl.toNat && recBad m.dst)

/-- The head command as its entry in memory has it, the authority (R222), or the address of an entry that is rejected
(log 15). -/
def headCmd (st : State) (c q : Nat) (m : CpCmd) : Except Nat CpCmd :=
  let x := queueOf (coreOf st c) q
  match ringBytes st c x x.head.toNat with
  | none => .ok m
  | some (e, y) =>
    if entryBad e (withEntry m e y) then .error (x.ring.toNat + 32 * (x.head.toNat % 2 ^ x.log2))
    else if e = entryBytes m ∧ y = auxBytes m then .ok m
    else .ok (withEntry m e y)

/-- A command starts at the head of its queue (R229): in the time of its source's region, under contention a free value. -/
def startCmd (st : State) (c q : Nat) (m : CpCmd) : State :=
  let (t, st) := draw st 0 (if quiet st c q then cpLat c (cpXlate st c m (srcAddr m 0) false) else 65536)
  let now := cpNow st c q
  modCore st c fun k => modQueue k q fun x =>
    { x with cmds := m :: x.cmds.drop 1
             running := some { start := now, elem := unitsAt m x.prog, landed := x.prog, flags := 0, next := now + t, n := addN0 st m } }

/-- Whether a queue may start a command: none runs, no halt, no follow-on of its last command still waits for MX. -/
def queueIdle (k : Core) (q : Nat) : Bool :=
  !(queueOf k q).faulted && (queueOf k q).running.isNone && cpMayStart k && !k.mx.arriving.any fun f => f.trig == q

/-- The head command of a queue starts as memory has it. -/
def startHead (st : State) (c q : Nat) : State :=
  if !queueIdle (coreOf st c) q then st
  else
    let s := syncQueue st c q
    match (queueOf (coreOf s c) q).cmds.head?, (queueOf (coreOf s c) q).running with
    | some m, none =>
      match headCmd s c q m with
      | .ok m => startCmd s c q m
      | .error va => haltQueue s c q va
    | _, _ => s

/-- COURIER_COMMAND_START: the head of queue `q` of core `c` starts in the tick after its predecessor's completion
(R229). -/
def execCourierCommandStart (c q : Nat) (st : State) : Host.Outcome State Fault Refusal :=
  if numCores ≤ c ∨ 8 ≤ q then .fault .noSuchAgent else .next (startHead st c q)

/-- A halted queue resumes from PROG as its record has it (R337). -/
def resumeQueue (st : State) (c q : Nat) : State :=
  modCore (syncQueue st c q) c fun k => modQueue k q fun x =>
    { x with faulted := false, faddr := 0
             running := match x.cmds.head?, x.running with
               | some m, some r => some { r with elem := unitsAt m x.prog, landed := x.prog }
               | _, r => r }

/-- COURIER_QUEUE_POLL: the courier reads the record of a halted queue; FAULT = 0 there resumes it from PROG (R337), of a context that
is saved only once it is back (R231). A queue whose record no mapping covers, or whose record it rejects (R5), stays halted. -/
def execCourierQueuePoll (c q : Nat) (st : State) : Host.Outcome State Fault Refusal :=
  if numCores ≤ c ∨ 8 ≤ q then .fault .noSuchAgent
  else
    let x := queueOf (coreOf st c) q
    if !x.faulted || courierGone (coreOf st c) then .next st
    else
      match readRecord st c x.recAddr.toNat 64 with
      | none => .next st
      | some b => .next (if (field b 17 1).testBit 0 || queueBad b then st else resumeQueue st c q)

/-! ### Triggers -/

/-- A command issues: it is appended, and starts in this tick when its queue is empty (R227, R229). -/
def cpIssue (op : Nat) (st : State) (a : Args) : State :=
  let q := cpQueue a.d.toNat
  let m := commandOf st a op
  let st := nextStamp (appendCmd st a.core q m)
  if (queueOf (coreOf st a.core) q).cmds.length = 1 ∧ queueIdle (coreOf st a.core) q = true then startCmd st a.core q m else st

/-- A courier command. -/
def cpCmd (op : Nat) : Trigger := { unit := 9, check := cpCheck op, act := cpIssue op }

/-- cpy (R233). -/
def trigCpy : Trigger := cpCmd 0x04
/-- cpymx (R234). -/
def trigCpymx : Trigger := cpCmd 0x05
/-- seqgo (R236). -/
def trigSeqgo : Trigger := cpCmd 0x07
/-- cpadd (R237). -/
def trigCpadd : Trigger := cpCmd 0x0A
/-- cpred (R238). -/
def trigCpred : Trigger := cpCmd 0x0B
/-- cpbc (R239). -/
def trigCpbc : Trigger := cpCmd 0x0C

/-- The check of seq (R235). -/
def seqCheck (a b : Nat) : Check :=
  let f := a % 8
  let l := bits a 5 3
  (illctlIf (!(bits a 63 6 == 0 && ((decide (l ≤ 5) && decide (f ≤ 2)) || (l == 6 && f == 0)))) 0 a).andThen
    (illctlIf (!(if l = 6 then formOk b else if f = 0 then decide (b < 2 ^ 24)
                 else BitVec.ofNat 64 b == (BitVec.ofNat 40 b).signExtend 64)) 1 b)

/-- The Sorter after seq. -/
def seqWrite (cp : Courier) (a b : Nat) : Courier :=
  let l := bits a 5 3
  if l = 6 then { cp with sbase := BitVec.ofNat 64 b }
  else
    let s := tget SortLevel.reset cp.levels l
    let s := match a % 8 with
      | 0 => { s with cnt := BitVec.ofNat 24 b }
      | 1 => { s with sstr := BitVec.ofNat 40 b }
      | _ => { s with dstr := BitVec.ofNat 40 b }
    { cp with levels := tset SortLevel.reset cp.levels l s }

/-- seq (R235). -/
def trigSeq : Trigger :=
  { unit := 9
    check := fun _ a => seqCheck a.a.toNat a.b.toNat
    act := fun st a => modCore st a.core fun k => { k with cp := seqWrite k.cp a.a.toNat a.b.toNat } }

/-- cp.r receives a value at latency 2 (R94). -/
def cpResult (k : Core) (x : Word) : Core := launchResult k 0x0FF (some (.s x)) 0 2 0

/-- The writes that channel `q` shows landed count as the core's own (R230). -/
def showLanded (st : State) (c q : Nat) : State :=
  let k := coreOf st c
  let ids := (k.cp.landed.filter fun x => x.1 == q).map (·.2)
  let live := ((queueOf k q).cmds.map (·.id))
  seeCmds (modCore st c fun k =>
    { k with cp := { k.cp with landed := k.cp.landed.filter fun x => x.1 != q || live.contains x.2 } }) c ids

/-- wpr (R240). -/
def trigWpr : Trigger :=
  { unit := 9
    check := fun _ a => illctlIf (decide (4 ≤ a.a.toNat)) 0 a.a.toNat
    act := fun st a => showLanded (modCore st a.core fun k => cpResult k (tget 0 k.cp.wp a.a.toNat)) a.core a.a.toNat }

/-- wpwait (R240). -/
def trigWpwait : Trigger :=
  { unit := 9
    check := fun st a => (illctlIf (decide (4 ≤ a.a.toNat)) 0 a.a.toNat).andThen
      (if (tget 0 (coreOf st a.core).cp.wp a.a.toNat).toNat < a.b.toNat then .hold .wpwait (budgetOf a) else .ok)
    act := fun st a => showLanded st a.core a.a.toNat }

/-- cqstat (R241). -/
def trigCqstat : Trigger :=
  { unit := 9
    check := fun _ a => illctlIf (decide (8 ≤ a.a.toNat)) 0 a.a.toNat
    act := fun st a => modCore st a.core fun k =>
      let x := liveQueue st a.core a.a.toNat
      cpResult k (BitVec.ofNat 64 ((x.tail - x.head).toNat + b2n x.faulted * 2 ^ 32)) }

/-! ### The meanings of the slots that trigger them (R94) -/

/-- CPY (R233). -/
def execCpy (n : BitVec 1) (g : BitVec 4) (s : BitVec 9) (st : State) :
    Host.Outcome State Fault Refusal := runTrigger trigCpy 0x04 n g s st
/-- CPYMX (R234). -/
def execCpymx (n : BitVec 1) (g : BitVec 4) (s : BitVec 9) (st : State) :
    Host.Outcome State Fault Refusal := runTrigger trigCpymx 0x05 n g s st
/-- SEQ (R235). -/
def execSeq (n : BitVec 1) (g : BitVec 4) (s : BitVec 9) (st : State) :
    Host.Outcome State Fault Refusal := runTrigger trigSeq 0x06 n g s st
/-- SEQGO (R236). -/
def execSeqgo (n : BitVec 1) (g : BitVec 4) (s : BitVec 9) (st : State) :
    Host.Outcome State Fault Refusal := runTrigger trigSeqgo 0x07 n g s st
/-- WPR (R240). -/
def execWpr (n : BitVec 1) (g : BitVec 4) (s : BitVec 9) (st : State) :
    Host.Outcome State Fault Refusal := runTrigger trigWpr 0x08 n g s st
/-- WPWAIT (R240). -/
def execWpwait (n : BitVec 1) (g : BitVec 4) (s : BitVec 9) (st : State) :
    Host.Outcome State Fault Refusal := runTrigger trigWpwait 0x09 n g s st
/-- CPADD (R237). -/
def execCpadd (n : BitVec 1) (g : BitVec 4) (s : BitVec 9) (st : State) :
    Host.Outcome State Fault Refusal := runTrigger trigCpadd 0x0A n g s st
/-- CPRED (R238). -/
def execCpred (n : BitVec 1) (g : BitVec 4) (s : BitVec 9) (st : State) :
    Host.Outcome State Fault Refusal := runTrigger trigCpred 0x0B n g s st
/-- CPBC (R239). -/
def execCpbc (n : BitVec 1) (g : BitVec 4) (s : BitVec 9) (st : State) :
    Host.Outcome State Fault Refusal := runTrigger trigCpbc 0x0C n g s st
/-- CQSTAT (R241). -/
def execCqstat (n : BitVec 1) (g : BitVec 4) (s : BitVec 9) (st : State) :
    Host.Outcome State Fault Refusal := runTrigger trigCqstat 0x0D n g s st

end Sys2Proof.Machine
end

