-- ==== Sys2Proof/Machine/Fuller.lean ====
section
/-! DEFINITION. FL operations and the Fullers (R245 to R253): job cards, routine banks, micro-instructions; with the
events in which cards start, run, halt and complete. -/

namespace Sys2Proof.Machine

/-! ### Job cards and group records (R245) -/

/-- PGR. -/
def cardPgr (b : List Byte) : Nat := field b 0 8
/-- HYP. -/
def cardHyp (b : List Byte) : Nat := field b 8 8
/-- Tk. -/
def cardT (b : List Byte) (k : Nat) : Nat := field b (16 + 8 * k) 8
/-- COUNT. -/
def cardCount (b : List Byte) : Nat := field b 56 3
/-- APPLY. -/
def cardApply (b : List Byte) : Bool := (field b 59 1).testBit 0
/-- SKIPCHK. -/
def cardSkipchk (b : List Byte) : Bool := (field b 59 1).testBit 1
/-- NORM. -/
def cardNorm (b : List Byte) : Nat := field b 60 4

/-- The conditions under which fjob raises FLCARD (R246). -/
def cardBad (b : List Byte) : Bool :=
  bits (field b 59 1) 7 2 != 0 || cardCount b == 0 || cardPgr b % 64 != 0 || cardHyp b % 4 != 0 ||
    (List.range 5).any fun k => cardT b k % 2 != 0

/-- TFMT of tensor `k`. -/
def grpFmt (g : List Byte) (k : Nat) : Nat := bits (field g 22 3) (4 * k + 3) (4 * k)
/-- WMASK bit `k`. -/
def grpWrites (g : List Byte) (k : Nat) : Bool := (field g 21 1).testBit k
/-- ROUT. -/
def grpRout (g : List Byte) : Nat := bits (field g 20 1) 3 0

/-- Reserved bits of a group record that are set. -/
def grpReserved (g : List Byte) : Bool :=
  bits (field g 20 1) 7 4 != 0 || bits (field g 21 1) 7 5 != 0 || grpFmt g 5 != 0 || !allZero (g.drop 25)

/-- Bytes of a tensor element; 0 for a format that TFMT does not allow. -/
def tBytes (f : Nat) : Nat := if f = 0 then 4 else if f = 1 ∨ f = 2 then 2 else 0

/-- The error of a card at its start (R247, R249), given whether its routine slot is empty; 0 for none. -/
def startErr (card g : List Byte) (empty : Bool) : Nat :=
  let clip := fp32.toNum (field g 8 4)
  if grpReserved g then 6
  else if empty then 1
  else if isNan clip || isZero clip || signOf clip then 2
  else if (List.range 5).any fun k => tBytes (grpFmt g k) == 0 then 3
  else if (List.range 5).any fun k => cardT card k % tBytes (grpFmt g k) != 0 then 5
  else 0

/-! ### Banks (R251) -/

/-- A free bank. -/
def Bank.free : Bank := { holder := none, slots := [] }

/-- The bank that the launch of core `c` holds on its die. -/
def bankOf (st : State) (c : Nat) : Option Nat :=
  match (coreOf st c).launch with
  | none => none
  | some l => (List.range 8).find? fun b => (tget Bank.free (dieOf st (dieIx c)).banks b).holder == some l

/-- Word `k` of a routine image. -/
def imageWord (b : List Byte) (k : Nat) : FullerWord := BitVec.ofNat 32 (field b (4 * k) 4)

/-- Whether an image passes the checks of R250. -/
def routineOk (b : List Byte) : Bool :=
  (List.range 16).all fun k => match decodeFuller (imageWord b k) with
    | .ok _ => true
    | .error _ => false

/-- Loading a slot of a bank: an image that fails its checks empties the slot. -/
def loadSlot (x : Bank) (s : Nat) (b : List Byte) : Bank :=
  { x with slots := tset none x.slots s (if routineOk b then some b else none) }

/-- Changing a bank of a die. -/
def modBank (st : State) (d b : Nat) (f : Bank → Bank) : State :=
  modDie st d fun x => { x with banks := tset Bank.free x.banks b (f (tget Bank.free x.banks b)) }

/-! ### Triggers -/

/-- The Fuller queue of a core's die is full (R246). -/
def flqCheck (st : State) (a : Args) : Check :=
  if 64 ≤ (dieOf st (dieIx a.core)).fq.length then .hold .flqFull 0 else .ok

/-- Captured bytes at a local offset, as the core sees them through the linear view. -/
def localBytes (st : State) (c off n : Nat) : List Byte := viewRead st c (bundleStamp st c) (windowBase c + off) n

/-- The check of the local offset of a 64-byte record in port a. -/
def flLocal (x : Nat) (align : Bool) : Check :=
  illctlIf (!localForm x || (align && localOff x % 64 != 0) || decide (scratchBytes < localOff x + 64)) 0 x

/-- An entry joins the die's Fuller queue. -/
def enqueueFl (st : State) (c : Nat) (i : FlItem) : State :=
  nextStamp (modDie st (dieIx c) fun x => { x with fq := x.fq ++ [i] })

/-- fjob (R246). -/
def trigFjob : Trigger :=
  { unit := 11
    check := fun st a => (flLocal a.a.toNat true).andThen
      ((faultIf (cardBad (localBytes st a.core (localOff a.a.toNat) 64)) 15 0 (localOff a.a.toNat)).andThen (flqCheck st a))
    act := fun st a =>
      let k := coreOf st a.core
      let st := enqueueFl st a.core (.card a.core k.fl.next (localBytes st a.core (localOff a.a.toNat) 64) (bundleStamp st a.core) k.csr.asid
        k.csr.keyid a.lvl (bankOf st a.core))
      modCore st a.core fun k => { k with fl := { k.fl with next := k.fl.next + 1 } } }

/-- fjwait (R247, R248): the writes of the cards that it covers count as the core's own. -/
def trigFjwait : Trigger :=
  { unit := 11
    check := fun st a =>
      let f := (coreOf st a.core).fl
      let t := a.a.toNat % 2 ^ 32
      (illctlIf (decide (0 < serial t (f.next - 1).toNat)) 0 a.a.toNat).andThen
        (if 0 < serial t f.last.toNat then .hold .fjwait (budgetOf a) else .ok)
    act := fun st a =>
      let t := a.a.toNat % 2 ^ 32
      let covered := fun (x : BitVec 32 × Nat) => decide (serial x.1.toNat t ≤ 0)
      let ids := ((coreOf st a.core).fl.cards.filter covered).map (·.2)
      observeCmds (modCore st a.core fun k => { k with fl := { k.fl with cards := k.fl.cards.filter fun x => !covered x } })
        a.core ids }

/-- The word that fjstat selects (R249). -/
def fjWord (f : FullerCore) (a : Nat) : Nat :=
  match a with
  | 0 => f.last.toNat
  | 1 => f.skipped
  | 2 => match f.err with
    | none => 0
    | some (s, code) => 2 ^ 63 + s.toNat * 2 ^ 8 + code
  | _ => f.flags.toNat

/-- fjstat (R249). -/
def trigFjstat : Trigger :=
  { unit := 11
    check := fun _ a => illctlIf (decide (3 < a.a.toNat)) 0 a.a.toNat
    act := fun st a => modCore st a.core fun k =>
      launchResult k 0x101 (some (.s (BitVec.ofNat 64 (fjWord k.fl a.a.toNat)))) 0 2 0 }

/-- fprog (R250). DESIGN CHOICE (log 35): the ILLCTL of an fprog whose launch holds no bank names port a. -/
def trigFprog : Trigger :=
  { unit := 11
    check := fun st a => (flLocal a.a.toNat false).andThen ((illctlIf (decide (16 ≤ a.b.toNat)) 1 a.b.toNat).andThen
      ((illctlIf (bankOf st a.core).isNone 0 a.a.toNat).andThen (flqCheck st a)))
    act := fun st a =>
      enqueueFl st a.core (.prog a.core ((coreOf st a.core).fl.next - 1) a.b.toNat
        (localBytes st a.core (localOff a.a.toNat) 64) (bankOf st a.core)) }

/-! ### The running card -/

/-- Recording an error of a core; the first one stays (R249). -/
def flError (k : Core) (seq : BitVec 32) (code : Nat) : Core :=
  { k with fl := { k.fl with err := k.fl.err.or (some (seq, code)) } }

/-- Changing the running card of a die. -/
def modRun (st : State) (d : Nat) (f : FlRun → FlRun) : State := modDie st d fun x => { x with frun := x.frun.map f }

/-- The running card completes: its number, its flags (R249), and its writes wait for an fjwait that covers it. -/
def finishCard (st : State) (d : Nat) (r : FlRun) (skipped : Bool) (err : Nat) : State :=
  let st := modDie st d fun x => { x with frun := none }
  modCore st r.core fun k =>
    let k := if err = 0 then k else flError k r.seq err
    { k with fl := { k.fl with last := r.seq, skipped := k.fl.skipped + b2n skipped, flags := k.fl.flags ||| r.flags
                               cards := k.fl.cards ++ [(r.seq, r.stamp)] } }

/-- A translation for the running card (R248). -/
def flXlate (st : State) (d : Nat) (r : FlRun) (va : Nat) (write : Bool) : XRes :=
  xlate st r.core (dieOf st d).ftlb r.lvl r.asid r.keyid va write

/-- What the running card finds at places of memory. -/
def flFind (st : State) (d : Nat) (r : FlRun) (places : List (Nat × Bool)) : CpFind :=
  firstFind (places.map fun p => findOne st r.core (flXlate st d r p.1 p.2) p.1 p.2)

/-- A byte as the issuing core saw it at fjob, under the writes of the card itself (R247). -/
def cardByte (st : State) (d : Nat) (r : FlRun) (va : Nat) : Byte :=
  match flXlate st d r va false with
  | .ok pa key _ =>
    let plain := fun (a : Nat) =>
      match st.wlog.find? fun w => recHas w a && w.cmd == some r.stamp with
      | some w => recByte w a
      | none => viewByte st r.core r.stamp a
    keyedByte st key plain pa
  | _ => 0

/-- `n` bytes of a card. -/
def cardRead (st : State) (d : Nat) (r : FlRun) (va n : Nat) : List Byte := (List.range n).map fun i => cardByte st d r (va + i)

/-- A write of the running card performs (R247): the bytes that it has touched. -/
def cardWrite (st : State) (d : Nat) (r : FlRun) (va : Nat) (bytes : List Byte) : State × List Touched :=
  match flXlate st d r va true with
  | .ok pa key _ => (performKeyed st r.core key pa bytes r.stamp [] none .engine (some r.stamp), touchedRange va pa bytes.length)
  | _ => (st, [])

/-- What the writes of a card in a tick strike (R348, R359). -/
def cardStrike (st : State) (r : FlRun) (ts : List Touched) : State := strikeEngine st r.core 3 0 r.lvl ts

/-- The card halts at an address: FLFLT becomes pending at the issuing core (R248, R322). -/
def haltCard (st : State) (d : Nat) (r : FlRun) (va : Nat) : State :=
  let st := modRun st d fun x => { x with halted := some (BitVec.ofNat 64 va) }
  modCore st r.core fun k =>
    let cause := xcauseOf { code := 19, detail := 0, xaddr := va, unit := 11, info := r.seq.toNat % 2 ^ 16, async := true }
    xPend { k with pendEv := k.pendEv ++ [(1, cause, BitVec.ofNat 64 va)], xlFault := k.xlFault.filter fun x => !x.2.1 }

/-- What places that are not ready do to the running card. -/
def cardNotReady (st : State) (d : Nat) (r : FlRun) (f : CpFind) : State :=
  match f with
  | .fault _ va => haltCard st d r va
  | .walk va w =>
    match rootOf st r.core with
    | some root => requestWalk st d root r.asid va w { core := r.core, lvl := r.lvl, key := r.keyid } (.fuller d)
    | none => haltCard st d r va
  | _ => st

/-- The routine that a card's group record names. -/
def routineOf (st : State) (d : Nat) (r : FlRun) : Option (List Byte) :=
  match r.bank with
  | none => none
  | some b => tget none (tget Bank.free (dieOf st d).banks b).slots (grpRout r.grp)

/-- A rounding to FP32. -/
def rne32N (x : Num) : Nat × Flags8 := roundFmt fp32 false 0 0 (.num x)

/-- A card starts (R247). DESIGN CHOICE (log 29): the skip test reads NORM and does not consume it, so a signalling NaN there sets no NV
(R41). -/
def startCard (st : State) (d : Nat) (r : FlRun) : State :=
  let pgr := cardPgr r.card
  let hyp := cardHyp r.card
  match flFind st d r [(pgr, false)] with
  | .ok =>
    let g := cardRead st d r pgr 64
    let r := { r with grp := g }
    let err := startErr r.card g (routineOf st d r).isNone
    if err ≠ 0 then finishCard st d r false err
    else
      match flFind st d r [(hyp, false), (hyp + 31, false)] with
      | .ok =>
        let h := (List.range 8).map fun k => BitVec.ofNat 32 (leNat (cardRead st d r (hyp + 4 * k) 4))
        let pow := fun (off k : Nat) =>
          let (p, f) := mulN (fp32.toNum (field g off 4)) (fp32.toNum (h.getD k 0).toNat)
          let (x, f') := rne32N p
          (BitVec.ofNat 32 x, f ||| f')
        let (b1, f1) := pow 12 0
        let (b2, f2) := pow 16 1
        let norm := fp32.toNum (cardNorm r.card)
        let skip := cardSkipchk r.card && (isNan norm || isInf norm || ltN (fp32.toNum (field g 8 4)) norm)
        let r := { r with b1 := b1, b2 := b2, hyp := h, flags := f1 ||| f2 }
        if skip then finishCard st d r true 0 else modRun st d fun _ => r
      | f => cardNotReady st d r f
  | f => cardNotReady st d r f

/-- The address of element `i` of tensor `k`. -/
def tAddr (r : FlRun) (k : Nat) : Nat := cardT r.card k + r.i * tBytes (grpFmt r.grp k)

/-- The tensors that a card names. -/
def tensors (r : FlRun) : List Nat := (List.range 5).filter fun k => cardT r.card k != 0

/-- The next element of a card is loaded and its routine begins (R247). -/
def loadElement (st : State) (d : Nat) (r : FlRun) : State :=
  match flFind st d r ((tensors r).map fun k => (tAddr r k, false)) with
  | .ok =>
    let ts := (List.range 5).map fun k =>
      if cardT r.card k = 0 then ((0 : Nat), (0 : Flags8))
      else
        let x := numOf (grpFmt r.grp k) (leNat (cardRead st d r (tAddr r k) (tBytes (grpFmt r.grp k))))
        let (v, f) := rne32N x
        (v, f ||| sigFlag x)
    let regs := ts.map (fun x => BitVec.ofNat 32 x.1) ++ [BitVec.ofNat 32 (cardNorm r.card), r.b1, r.b2] ++ r.hyp
    let f := tfrom (0 : Lane) 16 fun j => regs.getD j 0
    let st := modRun st d fun r =>
      { r with f := f, word := 0, inElem := true, finished := false, wrote := 0, flags := ts.foldl (fun a x => a ||| x.2) r.flags }
    { st with turn := .fuller d }
  | f => cardNotReady st d r f

/-- The next write of an element that is still to perform, with the bytes it has touched; the element ends after its last one (R247,
R338). -/
def storeElement (st : State) (d : Nat) (r : FlRun) : State × List Touched :=
  let ks := (tensors r).filter fun k => decide (r.wrote ≤ k) && grpWrites r.grp k
  match ks with
  | [] => (modRun st d fun r => { r with i := r.i + 1, inElem := false, finished := false, wrote := 0 }, [])
  | k :: _ =>
    match flFind st d r [(tAddr r k, true)] with
    | .ok =>
      let n := tBytes (grpFmt r.grp k)
      let x := fp32.toNum (tget 0 r.f k).toNat
      let (v, f) := encodeNum (grpFmt r.grp k) false 0 0 (.num x)
      let (st, ts) := cardWrite st d r (tAddr r k) (leBytes n v)
      (modRun st d fun r => { r with wrote := k + 1, flags := r.flags ||| f ||| sigFlag x }, ts)
    | f => (cardNotReady st d r f, [])

/-- All the writes of an element, as far as their places are ready, and what they strike together. -/
def storeAll : Nat → State → Nat → List Touched → State
  | 0, st, d, ts =>
    match (dieOf st d).frun with
    | some r => cardStrike st r ts
    | none => st
  | n + 1, st, d, ts =>
    match (dieOf st d).frun with
    | some r =>
      if r.inElem && r.finished && r.halted.isNone then
        let (st, more) := storeElement st d r
        storeAll n st d (ts ++ more)
      else cardStrike st r ts
    | none => st

/-! ### Events -/

/-- The core of a queue entry. -/
def flCore : FlItem → Nat
  | .card c _ _ _ _ _ _ _ => c
  | .prog c _ _ _ _ => c

/-- Whether the Fuller takes an entry of a core: the cards of an ended core run also while its slot drains, since its header
could not hold them (R334). -/
def cardMayStart (k : Core) : Bool := cpMayStart k || k.run == .ended

/-- The first entry of a queue whose core still runs, with the others (R246, R335). -/
def pickItem (st : State) : List FlItem → Option (FlItem × List FlItem)
  | [] => none
  | x :: xs =>
    if cardMayStart (coreOf st (flCore x)) then some (x, xs)
    else (pickItem st xs).map fun y => (y.1, x :: y.2)

/-- Whether a running card stops where it is: at once when its core is dead, in a replay before its next element (R339). -/
def cardStops (k : Core) (r : FlRun) : Bool := k.run == .dead || (k.run == .replay && (!r.inElem || r.halted.isSome))

/-- FULLER_CARD_RUN: the Fuller of die `d` takes the next card, starts it, begins its next element, or performs the writes
of an element whose routine has ended (R246, R247). -/
def execFullerCardRun (d : Nat) (st : State) : Host.Outcome State Fault Refusal :=
  if numDies ≤ d then .fault .noSuchAgent
  else
    match (dieOf st d).frun with
    | none =>
      match pickItem st (dieOf st d).fq with
      | some (.card c seq card stamp asid keyid lvl bank, rest) =>
        .next (modDie st d fun x => { x with
          fq := rest
          frun := some { core := c, seq := seq, card := card, grp := [], stamp := stamp, asid := asid, keyid := keyid,
                         lvl := lvl, bank := bank, b1 := 0, b2 := 0, i := 0, word := 0, f := [], flags := 0, wrote := 0,
                         inElem := false, halted := none, finished := false, hyp := [] } })
      | _ => .next st
    | some r =>
      let k := coreOf st r.core
      if cardStops k r then .next (modDie st d fun x => { x with frun := none })
      else if r.halted.isSome ∨ atomsAheadOf k r.stamp = true then .next st
      else if r.grp.isEmpty then .next (startCard st d r)
      else if r.inElem then .next (storeAll 6 st d [])
      else if r.i < cardCount r.card then .next (loadElement st d r)
      else .next st

/-- FULLER_CARD_COMPLETE: a card whose elements are done applies its step and completes (R247). -/
def execFullerCardComplete (d : Nat) (st : State) : Host.Outcome State Fault Refusal :=
  if numDies ≤ d then .fault .noSuchAgent
  else
    match (dieOf st d).frun with
    | none => .next st
    | some r =>
      if cardStops (coreOf st r.core) r then .next (modDie st d fun x => { x with frun := none })
      else if r.halted.isSome ∨ r.inElem ∨ r.grp.isEmpty ∨ r.i < cardCount r.card then .next st
      else if !cardApply r.card then .next (finishCard st d r false 0)
      else
        match flFind st d r [(cardPgr r.card, true)] with
        | .ok =>
          let (st, t1) := cardWrite st d r (cardPgr r.card) (leBytes 8 (field r.grp 0 8 + 1))
          let (st, t2) := cardWrite st d r (cardPgr r.card + 12) (leBytes 4 r.b1.toNat ++ leBytes 4 r.b2.toNat)
          .next (finishCard (cardStrike st r (t1 ++ t2)) d r false 0)
        | f => .next (cardNotReady st d r f)

/-- FULLER_ROUTINE_LOAD: an fprog at the head of die `d`'s queue loads its slot (R250). -/
def execFullerRoutineLoad (d : Nat) (st : State) : Host.Outcome State Fault Refusal :=
  if numDies ≤ d then .fault .noSuchAgent
  else
    match (dieOf st d).frun, pickItem st (dieOf st d).fq with
    | none, some (.prog c last slot image bank, rest) =>
      let st := modDie st d fun x => { x with fq := rest }
      let st := match bank with
        | some b => modBank st d b fun x => loadSlot x slot image
        | none => st
      .next (if routineOk image then st else modCore st c fun k => flError k last 4)
    | _, _ => .next st

/-- Whether the running card waits to write at its halt address. -/
def haltWrites (r : FlRun) : Bool := (r.inElem && r.finished) || (!r.grp.isEmpty && decide (cardCount r.card ≤ r.i))

/-- Whether that write would go through an entry (R276). -/
def haltDirty (st : State) (r : FlRun) (va : Nat) (e : TlbEntry) : Bool :=
  haltWrites r && mayWrite st { core := r.core, lvl := r.lvl, key := r.keyid } va e

/-- FULLER_FAULT_RETRY: the Fuller of die `d` walks the faulting translation of a halted card again (R338). -/
def execFullerFaultRetry (d : Nat) (st : State) : Host.Outcome State Fault Refusal :=
  if numDies ≤ d then .fault .noSuchAgent
  else
    match (dieOf st d).frun with
    | none => .next st
    | some r =>
      match r.halted, rootOf st r.core with
      | some va, some root =>
        match walk st.mem root r.asid va.toNat (haltDirty st r va.toNat) with
        | .error _ => .next st
        | .ok (e, a, pte) =>
          match checkEntry st r.core r.lvl r.keyid e va.toNat (haltWrites r) with
          | .ok _ _ _ =>
            let st := perform st r.core a (leBytes 8 pte) st.stamp [] (some .s) .core none
            .next (modDie st d fun x =>
              { x with ftlb := tlbFill utlbMax x.ftlb e, frun := x.frun.map fun r => { r with halted := none } })
          | _ => .next st
      | _, _ => .next st

/-! ### Micro-instructions (R252, R253) -/

/-- The die whose Fuller runs its routine. -/
def fullerDie (st : State) : Nat :=
  match st.turn with
  | .fuller d => d
  | _ => 0

/-- The routine moves on after a word: to the next one, or to the element's writes after the sixteenth. -/
def afterWord (st : State) (d : Nat) (ends : Bool) : State :=
  match (dieOf st d).frun with
  | none => { st with turn := .agenda }
  | some r =>
    let last := ends || decide (15 ≤ r.word)
    { modRun st d fun r => { r with word := r.word + 1, finished := last } with turn := if last then .agenda else .fuller d }

/-- A micro-instruction: its effect on the registers with its flags, then the next word. -/
def fullerOp (f : Tab Lane → Tab Lane × Flags8) (st : State) : Host.Outcome State Fault Refusal :=
  let d := fullerDie st
  .next (afterWord (modRun st d fun r =>
    let (t, fl) := f r.f
    { r with f := t, flags := r.flags ||| fl }) d false)

/-- Register `n`. -/
def fReg (t : Tab Lane) (n : BitVec 4) : Lane := tget 0 t n.toNat
/-- Its number. -/
def fNum (t : Tab Lane) (n : BitVec 4) : Num := fp32.toNum (fReg t n).toNat
/-- Writing a register. -/
def fSet (t : Tab Lane) (n : BitVec 4) (x : Lane) : Tab Lane := tset 0 t n.toNat x

/-- A micro-instruction that writes one register. -/
def fullerTo (d : BitVec 4) (f : Tab Lane → Lane × Flags8) : State → Host.Outcome State Fault Refusal :=
  fullerOp fun t => let (x, fl) := f t; (fSet t d x, fl)

/-- Rounding an exact number by an RM field. -/
def fullerRound (r : BitVec 3) (x : Num × Flags8) : Lane × Flags8 := toLane (roundFmt fp32 false r.toNat 0 (.num x.1)) x.2

/-- Rounding an exact value by an RM field. -/
def fullerRoundE (r : BitVec 3) (x : Exact × Flags8) : Lane × Flags8 := toLane (roundFmt fp32 false r.toNat 0 x.1) x.2

/-- end. -/
def execFullerEnd (st : State) : Host.Outcome State Fault Refusal := .next (afterWord st (fullerDie st) true)

/-- fadd. -/
def execFullerFadd (d a b : BitVec 4) (r : BitVec 3) (st : State) : Host.Outcome State Fault Refusal :=
  fullerTo d (fun t => fullerRound r (addN (r == 2) (fNum t a) (fNum t b))) st

/-- fsub. -/
def execFullerFsub (d a b : BitVec 4) (r : BitVec 3) (st : State) : Host.Outcome State Fault Refusal :=
  fullerTo d (fun t => fullerRound r (addN (r == 2) (fNum t a) (negN (fNum t b)))) st

/-- fmul. -/
def execFullerFmul (d a b : BitVec 4) (r : BitVec 3) (st : State) : Host.Outcome State Fault Refusal :=
  fullerTo d (fun t => fullerRound r (mulN (fNum t a) (fNum t b))) st

/-- fma. -/
def execFullerFma (d a b c : BitVec 4) (r : BitVec 3) (st : State) : Host.Outcome State Fault Refusal :=
  fullerTo d (fun t => fullerRound r (fmaN (r == 2) (fNum t a) (fNum t b) (fNum t c))) st

/-- fms. -/
def execFullerFms (d a b c : BitVec 4) (r : BitVec 3) (st : State) : Host.Outcome State Fault Refusal :=
  fullerTo d (fun t => fullerRound r (fmaN (r == 2) (fNum t a) (fNum t b) (negN (fNum t c)))) st

/-- fdiv. -/
def execFullerFdiv (d a b : BitVec 4) (r : BitVec 3) (st : State) : Host.Outcome State Fault Refusal :=
  fullerTo d (fun t => fullerRoundE r (divN (fNum t a) (fNum t b))) st

/-- fsqrt. -/
def execFullerFsqrt (d a : BitVec 4) (r : BitVec 3) (st : State) : Host.Outcome State Fault Refusal :=
  fullerTo d (fun t => fullerRoundE r (sqrtN (fNum t a))) st

/-- frsq. -/
def execFullerFrsq (d a : BitVec 4) (st : State) : Host.Outcome State Fault Refusal :=
  fullerTo d (fun t => fullerRoundE 0 (rsqN (fNum t a))) st

/-- frcp. -/
def execFullerFrcp (d a : BitVec 4) (st : State) : Host.Outcome State Fault Refusal :=
  fullerTo d (fun t => fullerRoundE 0 (rcpN (fNum t a))) st

/-- fmin. -/
def execFullerFmin (d a b : BitVec 4) (st : State) : Host.Outcome State Fault Refusal :=
  fullerTo d (fun t => fpMinMax false (fReg t a) (fReg t b)) st

/-- fmax. -/
def execFullerFmax (d a b : BitVec 4) (st : State) : Host.Outcome State Fault Refusal :=
  fullerTo d (fun t => fpMinMax true (fReg t a) (fReg t b)) st

/-- fabs. -/
def execFullerFabs (d a : BitVec 4) (st : State) : Host.Outcome State Fault Refusal :=
  fullerTo d (fun t => fpSign (· &&& 0x7FFFFFFF) (fReg t a)) st

/-- fneg. -/
def execFullerFneg (d a : BitVec 4) (st : State) : Host.Outcome State Fault Refusal :=
  fullerTo d (fun t => fpSign (· ^^^ 0x80000000) (fReg t a)) st

/-- fsel: fa where fc is above zero, else fb. -/
def execFullerFsel (d a b c : BitVec 4) (st : State) : Host.Outcome State Fault Refusal :=
  fullerTo d (fun t => (if ltN (.fin false 0 0) (fNum t c) then fReg t a else fReg t b, 0)) st

/-- kadd (R253): the pair (fd, fc). Where fd and fc are one register, which of the two values it keeps is a free value of its
operands, the same in every run (R307; DESIGN CHOICE, log 42). DESIGN CHOICE (log 42): where s' is not finite fc is not consumed, and
a signalling NaN in it sets no NV (R41). -/
def execKadd (d a c : BitVec 4) (r : BitVec 3) (st : State) : Host.Outcome State Fault Refusal :=
  fullerOp (fun t =>
    let second := decide (d = c) && Config.kaddKeep (fReg t d) (fReg t a) r.toNat % 2 == 1
    let (x, f0) := addN (r == 2) (fNum t d) (fNum t a)
    let (s, f1) := roundFmt fp32 false r.toNat 0 (.num x)
    let sn := fp32.toNum s
    let (e, f2) := if isNan sn || isInf sn then (0, 0)
      else
        let (y, g0) := addN false (fNum t c) (addN false x (negN sn)).1
        let (v, g1) := rne32N y
        (v, g0 ||| g1)
    (if d = c && !second then fSet t d (BitVec.ofNat 32 s) else fSet (fSet t d (BitVec.ofNat 32 s)) c (BitVec.ofNat 32 e),
      f0 ||| f1 ||| f2)) st

/-- cvi. -/
def execCvi (d : BitVec 4) (i : BitVec 7) (st : State) : Host.Outcome State Fault Refusal :=
  fullerTo d (fun _ => (BitVec.ofNat 32 (rne32N (ofInt i.toInt)).1, 0)) st

/-- fcvt: through the format and back (R252). DESIGN CHOICE (log 29): to E5M2 it has no saturate bit, so an overflow takes R43's row
of saturate bit 0. -/
def execFcvt (d a : BitVec 4) (r : BitVec 3) (i : BitVec 4) (st : State) : Host.Outcome State Fault Refusal :=
  fullerTo d (fun t =>
    let (v, f) := encodeNum i.toNat false r.toNat 0 (.num (fNum t a))
    let (w, f') := rne32N (numOf i.toNat v)
    (BitVec.ofNat 32 w, sigFlag (fNum t a) ||| f ||| f')) st

/-- fmov. -/
def execFmov (d a : BitVec 4) (st : State) : Host.Outcome State Fault Refusal :=
  fullerTo d (fun t => (fReg t a, 0)) st

/-- fclamp. -/
def execFclamp (d a b : BitVec 4) (st : State) : Host.Outcome State Fault Refusal :=
  fullerTo d (fun t =>
    let (x, f) := fpMinMax false (fReg t b) (fReg t a)
    let (y, f') := fpMinMax true (fReg t b ^^^ 0x80000000) x
    (y, f ||| f')) st

/-! ### The meanings of the slots that trigger them (R96) -/

/-- FJOB (R246). -/
def execFjob (n : BitVec 1) (g : BitVec 4) (s : BitVec 9) (st : State) :
    Host.Outcome State Fault Refusal := runTrigger trigFjob 0x04 n g s st
/-- FJWAIT (R248). -/
def execFjwait (n : BitVec 1) (g : BitVec 4) (s : BitVec 9) (st : State) :
    Host.Outcome State Fault Refusal := runTrigger trigFjwait 0x05 n g s st
/-- FJSTAT (R249). -/
def execFjstat (n : BitVec 1) (g : BitVec 4) (s : BitVec 9) (st : State) :
    Host.Outcome State Fault Refusal := runTrigger trigFjstat 0x06 n g s st
/-- FPROG (R250). -/
def execFprog (n : BitVec 1) (g : BitVec 4) (s : BitVec 9) (st : State) :
    Host.Outcome State Fault Refusal := runTrigger trigFprog 0x07 n g s st

end Sys2Proof.Machine
end

