-- ==== Sys2Proof/Machine/Issue.lean ====
section
/-! DEFINITION. The issue of bundles (R63 to R68, R84, R101, R105, R113): opening a bundle once its stalls are settled,
closing it with the effect of its CU operation, and the delivery of asynchronous events (R322, R349). -/

namespace Sys2Proof.Machine

/-- The operation that a slot triggers. -/
def triggerOf : Instr → Option Trigger
  | .jmp _ _ _ => some trigJmp
  | .jmpi _ _ _ => some trigJmpi
  | .call _ _ _ => some trigCall
  | .calli _ _ _ => some trigCalli
  | .ret _ _ _ => some trigRet
  | .loop _ _ _ => some trigLoop
  | .leave _ _ _ => some trigLeave
  | .waitc _ _ _ => some trigWaitc
  | .nextt _ _ _ => some trigNextt
  | .donet _ _ _ => some trigDonet
  | .sysc _ _ _ => some trigSysc
  | .eret _ _ _ => some trigEret
  | .brk _ _ _ => some trigBrk
  | .csrr _ _ _ => some trigCsrr
  | .csrw _ _ _ => some trigCsrw
  | .csrs _ _ _ => some trigCsrs
  | .csrc _ _ _ => some trigCsrc
  | .ifence _ _ _ => some trigIfence
  | .pmark _ _ _ => some trigPmark
  | .add _ _ _ u => some (trigAdd u)
  | .sub _ _ _ u => some (trigSub u)
  | .mul _ _ _ u => some (trigMul u)
  | .mulh _ _ _ u => some (trigMulh u)
  | .mulhu _ _ _ u => some (trigMulhu u)
  | .div _ _ _ u => some (trigDiv u)
  | .divu _ _ _ u => some (trigDivu u)
  | .rem _ _ _ u => some (trigRem u)
  | .remu _ _ _ u => some (trigRemu u)
  | .iaAnd _ _ _ u => some (trigIaAnd u)
  | .iaOr _ _ _ u => some (trigIaOr u)
  | .iaXor _ _ _ u => some (trigIaXor u)
  | .andn _ _ _ u => some (trigAndn u)
  | .shl _ _ _ u => some (trigShl u)
  | .shr _ _ _ u => some (trigShr u)
  | .sar _ _ _ u => some (trigSar u)
  | .rol _ _ _ u => some (trigRol u)
  | .clz _ _ _ u => some (trigClz u)
  | .ctz _ _ _ u => some (trigCtz u)
  | .popc _ _ _ u => some (trigPopc u)
  | .iaMin _ _ _ u => some (trigIaMin u)
  | .iaMax _ _ _ u => some (trigIaMax u)
  | .minu _ _ _ u => some (trigMinu u)
  | .maxu _ _ _ u => some (trigMaxu u)
  | .sext _ _ _ u => some (trigSext u)
  | .zext _ _ _ u => some (trigZext u)
  | .cmpeq _ _ _ u => some (trigCmpeq u)
  | .cmpne _ _ _ u => some (trigCmpne u)
  | .cmplt _ _ _ u => some (trigCmplt u)
  | .cmpltu _ _ _ u => some (trigCmpltu u)
  | .cmple _ _ _ u => some (trigCmple u)
  | .cmpleu _ _ _ u => some (trigCmpleu u)
  | .sel _ _ _ u => some (trigSel u)
  | .bfx _ _ _ u => some (trigBfx u)
  | .bfi _ _ _ u => some (trigBfi u)
  | .madd _ _ _ u => some (trigMadd u)
  | .lea _ _ _ u => some (trigLea u)
  | .abs _ _ _ u => some (trigAbs u)
  | .ldB _ _ _ => some trigLdB
  | .ldBu _ _ _ => some trigLdBu
  | .ldH _ _ _ => some trigLdH
  | .ldHu _ _ _ => some trigLdHu
  | .ldW _ _ _ => some trigLdW
  | .ldWu _ _ _ => some trigLdWu
  | .ldD _ _ _ => some trigLdD
  | .stB _ _ _ => some trigStB
  | .stH _ _ _ => some trigStH
  | .stW _ _ _ => some trigStW
  | .stD _ _ _ => some trigStD
  | .ldv _ _ _ => some trigLdv
  | .ldvs _ _ _ => some trigLdvs
  | .ldvg _ _ _ => some trigLdvg
  | .stv _ _ _ => some trigStv
  | .stvs _ _ _ => some trigStvs
  | .stvg _ _ _ => some trigStvg
  | .aadd _ _ _ => some trigAadd
  | .amin _ _ _ => some trigAmin
  | .amax _ _ _ => some trigAmax
  | .aand _ _ _ => some trigAand
  | .aor _ _ _ => some trigAor
  | .axor _ _ _ => some trigAxor
  | .aswp _ _ _ => some trigAswp
  | .acas _ _ _ => some trigAcas
  | .pubD _ _ _ => some trigPubD
  | .pubP _ _ _ => some trigPubP
  | .pubS _ _ _ => some trigPubS
  | .acqD _ _ _ => some trigAcqD
  | .acqP _ _ _ => some trigAcqP
  | .acqS _ _ _ => some trigAcqS
  | .vjoin _ _ _ => some trigVjoin
  | .xlpre _ _ _ => some trigXlpre
  | .fadd _ _ _ u => some (trigFadd u)
  | .fsub _ _ _ u => some (trigFsub u)
  | .fmul _ _ _ u => some (trigFmul u)
  | .fma _ _ _ u => some (trigFma u)
  | .fms _ _ _ u => some (trigFms u)
  | .fmin _ _ _ u => some (trigFmin u)
  | .fmax _ _ _ u => some (trigFmax u)
  | .fabs _ _ _ u => some (trigFabs u)
  | .fneg _ _ _ u => some (trigFneg u)
  | .fcmpEq _ _ _ u => some (trigFcmpEq u)
  | .fcmpLt _ _ _ u => some (trigFcmpLt u)
  | .fcmpLe _ _ _ u => some (trigFcmpLe u)
  | .fcmpUn _ _ _ u => some (trigFcmpUn u)
  | .fsel _ _ _ u => some (trigFsel u)
  | .iadd _ _ _ u => some (trigIadd u)
  | .isub _ _ _ u => some (trigIsub u)
  | .imul _ _ _ u => some (trigImul u)
  | .imulh _ _ _ u => some (trigImulh u)
  | .iand _ _ _ u => some (trigIand u)
  | .ior _ _ _ u => some (trigIor u)
  | .ixor _ _ _ u => some (trigIxor u)
  | .ishl _ _ _ u => some (trigIshl u)
  | .ishr _ _ _ u => some (trigIshr u)
  | .isar _ _ _ u => some (trigIsar u)
  | .imin _ _ _ u => some (trigImin u)
  | .imax _ _ _ u => some (trigImax u)
  | .iminu _ _ _ u => some (trigIminu u)
  | .imaxu _ _ _ u => some (trigImaxu u)
  | .icmpEq _ _ _ u => some (trigIcmpEq u)
  | .icmpLt _ _ _ u => some (trigIcmpLt u)
  | .icmpLtu _ _ _ u => some (trigIcmpLtu u)
  | .cvt _ _ _ u => some (trigCvt u)
  | .pack _ _ _ u => some (trigPack u)
  | .unpack _ _ _ u => some (trigUnpack u)
  | .bcast _ _ _ u => some (trigBcast u)
  | .lane _ _ _ u => some (trigLane u)
  | .mand _ _ _ u => some (trigMand u)
  | .mor _ _ _ u => some (trigMor u)
  | .mnot _ _ _ u => some (trigMnot u)
  | .rcp _ _ _ => some trigRcp
  | .rsq _ _ _ => some trigRsq
  | .sqrt _ _ _ => some trigSqrt
  | .exp2 _ _ _ => some trigExp2
  | .log2 _ _ _ => some trigLog2
  | .tanh _ _ _ => some trigTanh
  | .sigm _ _ _ => some trigSigm
  | .silu _ _ _ => some trigSilu
  | .gelut _ _ _ => some trigGelut
  | .rmax _ _ _ => some trigRmax
  | .rmin _ _ _ => some trigRmin
  | .rsum _ _ _ => some trigRsum
  | .twosum _ _ _ => some trigTwosum
  | .perm _ _ _ => some trigPerm
  | .shuf _ _ _ => some trigShuf
  | .rng _ _ _ => some trigRng
  | .dropm _ _ _ => some trigDropm
  | .wld _ _ _ => some trigWld
  | .wfmt _ _ _ => some trigWfmt
  | .mode _ _ _ => some trigMode
  | .scale _ _ _ => some trigScale
  | .strm _ _ _ => some trigStrm
  | .accz _ _ _ => some trigAccz
  | .drain _ _ _ => some trigDrain
  | .dfn _ _ _ => some trigDfn
  | .spar _ _ _ => some trigSpar
  | .mxAdmit _ _ _ => some trigMxAdmit
  | .mxst _ _ _ => some trigMxst
  | .wgstep _ _ _ => some trigWgstep
  | .salloc _ _ _ => some trigSalloc
  | .sadd _ _ _ => some trigSadd
  | .ssub _ _ _ => some trigSsub
  | .srdn _ _ _ => some trigSrdn
  | .srho _ _ _ => some trigSrho
  | .sfenceL _ _ _ => some trigSfenceL
  | .sfenceD _ _ _ => some trigSfenceD
  | .sfenceP _ _ _ => some trigSfenceP
  | .sevict _ _ _ => some trigSevict
  | .srestore _ _ _ => some trigSrestore
  | .swrap _ _ _ => some trigSwrap
  | .sgain _ _ _ => some trigSgain
  | .seps _ _ _ => some trigSeps
  | .sview _ _ _ => some trigSview
  | .cpy _ _ _ => some trigCpy
  | .cpymx _ _ _ => some trigCpymx
  | .seq _ _ _ => some trigSeq
  | .seqgo _ _ _ => some trigSeqgo
  | .wpr _ _ _ => some trigWpr
  | .wpwait _ _ _ => some trigWpwait
  | .cpadd _ _ _ => some trigCpadd
  | .cpred _ _ _ => some trigCpred
  | .cpbc _ _ _ => some trigCpbc
  | .cqstat _ _ _ => some trigCqstat
  | .tbinit _ _ _ => some trigTbinit
  | .tbarr _ _ _ => some trigTbarr
  | .tbexp _ _ _ => some trigTbexp
  | .tbwait _ _ _ => some trigTbwait
  | .tbtest _ _ _ => some trigTbtest
  | .tkaln _ _ _ => some trigTkaln
  | .tkrd _ _ _ => some trigTkrd
  | .phsend _ _ _ => some trigPhsend
  | .phrecv _ _ _ => some trigPhrecv
  | .fjob _ _ _ => some trigFjob
  | .fjwait _ _ _ => some trigFjwait
  | .fjstat _ _ _ => some trigFjstat
  | .fprog _ _ _ => some trigFprog  | _ => none

/-! ### The slots of a bundle at issue -/

/-- The enable bits of a fresh issue (R64, R65). -/
def enableBits (k : Core) (w : Bundle) : BitVec 8 :=
  (realSlots w).foldl (fun b s =>
    if predVal k.files.p (physP k.csr.prb (slotG (slotWordOf w s)).toNat) != (slotN (slotWordOf w s) == 1) then b ||| BitVec.ofNat 8 (2 ^ s) else b) 0

/-- The register classes that R67 counts together: 1 for g, p and m, 2 for v, 0 for none, by physical code. -/
def portClass (p : Nat) : Nat :=
  if p < 0x80 then 1 else if p < 0xA0 ∨ (0xA0 ≤ p ∧ p < 0xC0) then 2 else if p < 0xD0 then 1 else if 0xE8 ≤ p ∧ p < 0xF0 then 1 else 0

/-- The distinct physical registers among codes. -/
def physDistinct (k : Core) (codes : List Nat) : List Nat := (codes.filterMap (physCode k)).eraseDups

/-- ILLBND (R62, R67, R68): its detail, if the bundle breaks a limit. Of several, the model reports 2, then 0, then 1: the spec
gives no order (log 44). -/
def bundleFault (k : Core) (w : Bundle) (en : BitVec 8) : Option Nat :=
  let live := (realSlots w).filter fun s => en.toNat.testBit s
  let reads := (physDistinct k (live.map (slotSrc w))).filter (· != 0)
  let writes := (physDistinct k ((live.map (slotDst w)).filter (· < 0x100))).filter fun p => p != 0 && p != 0xC0
  let cnt := fun (l : List Nat) (c : Nat) => (l.filter fun p => portClass p == c).length
  let trigs := (live.map (slotDst w)).filter fun d => 0x100 ≤ d && 4 ≤ (d - 0x100) % 64
  let units := trigs.map fun d => (d - 0x100) / 64
  if (realSlots w).contains 7 && litSource (slotSrc w 7) then some 2
  else if decide (8 < cnt reads 1) || decide (4 < cnt writes 1) || decide (4 < cnt reads 2) || decide (2 < cnt writes 2) then some 0
  else if decide (units.eraseDups.length < units.length) then some 1
  else none

/-- The pops of an issue (R12): the slots in order that take an arrived entry, and the queue after them. -/
def takePops (slots : List Nat) (q : List LdEntry) : List (Nat × Val) × List LdEntry :=
  match slots, q with
  | s :: ss, e :: es =>
    if e.arrived then
      let (ps, rest) := takePops ss es
      ((s, ldVal e) :: ps, rest)
    else ([], e :: es)
  | _, _ => ([], q)

/-- What slots leave in ports (R10, R66): a trigger's value in port a before any move, that of a trigger which committed in an
earlier issue of the bundle among them, and moves from the rightmost slot. A pop that finds no entry gives no value. -/
def portWrites (k : Core) (i : Issue) (slots : List Nat) : List (Nat × Val) :=
  let val := fun (s : Nat) => readSource k { i with slot := s } (slotSrc i.words s)
  let low := fun (s : Nat) => (slotDst i.words s - 0x100) % 64
  let port := slots.filter fun s => 0x100 ≤ slotDst i.words s && !(duePops i).contains s
  let ran := (realSlots i.words).filter fun s =>
    i.en.toNat.testBit s && i.done.toNat.testBit s && decide (0x100 ≤ slotDst i.words s) && decide (4 ≤ low s)
  let kept := ran.map fun s =>
    let u := (slotDst i.words s - 0x100) / 64
    (0x100 + 64 * u, if vectorUnit u then Val.v (portV k u 0) else .s (portS k (lvlOf k) u 0))
  let trigs := (port.filter fun s => 4 ≤ low s).map fun s => (slotDst i.words s - low s, val s)
  let moves := (port.filter fun s => low s < 4).map fun s => (slotDst i.words s, val s)
  kept ++ trigs ++ moves.reverse

/-! ### The scan (R63) -/

/-- What one slot finds at issue. -/
def slotCheck (st : State) (c : Nat) (i : Issue) (s : Nat) : Check :=
  let i := { i with slot := s }
  let st := modCore st c fun k => { k with issue := some i }
  let k := coreOf st c
  match decodeSlot (slotWordOf i.words s) with
  | .error e => let x := illmov (slotDst i.words s) e; .fault 1 x.1 x.2
  | .ok ins =>
    if !i.en.toNat.testBit s then .ok
    else
      ((sourceCheck k i (slotSrc i.words s)).andThen
        (if needsPop k i (slotDst i.words s) then .hold .earlyPop 0 else .ok)).andThen
        (match triggerOf ins with
         | some t => t.check st (argsOf c k i t.unit (readSource k i (slotSrc i.words s)))
         | none => .ok)

/-- The first slot that does not pass, with what it finds. -/
def scanSlots (st : State) (c : Nat) (i : Issue) : List Nat → Option (Nat × Check)
  | [] => none
  | s :: ss =>
    match slotCheck st c i s with
    | .ok => scanSlots st c i ss
    | x => some (s, x)

/-- Whether a finding waits. -/
def waits : Check → Bool
  | .hold _ _ => true
  | .walk _ _ => true
  | _ => false

/-! ### Opening a bundle -/

/-- One issue tick of the core (R84, R193). -/
def issueTick (k : Core) : Core := advanceRows (advanceFlights k)

/-- The words of the bundle at the program counter: as fetched, if that was before the host wrote the location (R116). -/
def bundleHere (k : Core) : Bundle :=
  match k.fetched.find? (·.1 == k.pc.toNat) with
  | some x => x.2
  | none => tget 0 k.code k.pc.toNat

/-- The bundle at the program counter, before its pops and moves: afresh, or re-entered (R113, R345); the selectors of a
re-entered one read what they read at its original issue (R143). -/
def startIssue (k : Core) (stamp : Nat) : Issue :=
  let w := bundleHere k
  let i := { freshIssue k with words := w, stamp := stamp }
  match k.reenter with
  | some (done, noWatch) =>
    { i with sel := k.stopSel.getD i.files, en := k.enmask, done := done, pend := k.pend, reissue := true, shadows := k.shadows,
             loopIn := k.loopIn.getD (loopNow k), noWatch := noWatch }
  | none => { i with en := enableBits k w }

/-- An issue after its pops, with the core that it leaves. -/
def withPops (k : Core) (i : Issue) : Core × Issue :=
  let (ps, q) := takePops (popSlots i) (ldqOf k)
  (setLdq k q, { i with pops := ps })

/-- The fault of a program counter (R102): past the store, or T level in the protected partition. -/
def pcFault (k : Core) : Option Cause :=
  let x := k.pc.toNat
  if 10921 < x then some { code := 3, detail := 0, xaddr := x, unit := 15, info := 0, async := false }
  else if lvlOf k = .t ∧ 9898 ≤ x then some { code := 4, detail := 3, xaddr := x, unit := 15, info := 0, async := false }
  else none

/-- Whether an SS operation of a drain has still to act before the core issues (R321). -/
def drainWaits (k : Core) : Bool := k.flight.any fun f => decide (f.rem = 0) && f.val.isNone

/-- A single step counts the bundle that a core re-enters, also one that traps before it opens (R345). -/
def countStep (st : State) (c : Nat) : State :=
  modCore st c fun k => { k with dbg := if k.dbg.step = 1 then { k.dbg with step := 2 } else k.dbg }

/-- A fault between bundles of a program counter (R102): at S level XPC takes the index past the store and the core stops as a
double fault does (R326; log 45). -/
def pcStops (st : State) (c : Nat) (f : Cause) : State :=
  let st := if lvlOf (coreOf st c) = .s then modCore st c fun k => { k with csr := { k.csr with xpc := k.pc.setWidth 64 } } else st
  faultBetween (countStep st c) c f 0

/-- The bundle opens: its hold is charged, and its slots follow. Fetched bundles that no longer stand within four of it are
forgotten (R116). -/
def openSlots (st : State) (c : Nat) (k : Core) (i : Issue) : State :=
  let was := k.held.map (·.cause)
  let st := countStep (chargeHold (setCore st c k) c) c
  let st := modCore st c fun k => { k with
    issue := some { i with scanned := true, heldFor := was }, reenter := none
    fetched := k.fetched.filter fun x => decide (k.pc.toNat ≤ x.1) && decide (x.1 < k.pc.toNat + 4) }
  nextStamp { st with turn := .bundle, cur := c }

/-- A bundle whose scan found that it stops at slot `s`: the slots below it commit, and its triggers see every move of the bundle
(R65, R84). At S level none commits (R326). -/
def openUpTo (st : State) (c : Nat) (k : Core) (i : Issue) (s : Nat) (x : Check) : State :=
  match x with
  | .fault code detail xaddr =>
    if lvlOf k = .s ∧ replayCode code = false then
      stubFault st c { code := code, detail := detail, xaddr := xaddr, unit := 15, info := 0, async := false }
    else openSlots st c k { i with puts := portWrites k i ((liveSlots i).filter (· < s)), stop := some (s, x) }
  | x => openSlots st c k { i with puts := portWrites k i ((liveSlots i).filter (· < s)), stop := some (s, x) }

/-- The core after its issue tick, which a bundle that eret re-enters has had (R97, R193). -/
def tickedCore (k : Core) : Core := if k.reenter.isSome then k else issueTick k

/-- The next bundle of a ticked core as its triggers see it, with its pops and moves, and the core that the pops leave. -/
def seenIssue (k : Core) (stamp : Nat) : Core × Issue :=
  let (k, i) := withPops k (startIssue k stamp)
  (k, { i with moves := portWrites k i (liveSlots i), puts := portWrites k i (liveSlots i) })

/-- Core `c` opens its next bundle, or is held or stopped before it (R63, R65): ILLBND is taken at once. -/
def openBundle (st : State) (c : Nat) : State :=
  let k := coreOf st c
  match pcFault k with
  | some f => pcStops st c f
  | none =>
    if drainWaits k then holdBundle st c 0 .drain 0
    else
      let again := k.reenter.isSome
      let k0 := tickedCore k
      let i0 := startIssue k0 st.stamp
      match (if again then none else bundleFault k i0.words i0.en : Option Nat) with
      | some d => faultBetween (countStep st c) c { code := 2, detail := d, xaddr := 0, unit := 15, info := 0, async := false } i0.en
      | none =>
        if !again && regRowWaits k then holdBundle st c 0 .mxDrain 0
        else
          let (k1, seen) := seenIssue k0 st.stamp
          match scanSlots (setCore st c k1) c seen ((realSlots seen.words).filter fun s => !seen.done.toNat.testBit s) with
          | some (s, x) =>
            if waits x then refuseSlot st c { seen with slot := s } (slotSrc seen.words s) (slotDst seen.words s) x
            else openUpTo st c k1 seen s x
          | none => openSlots st c k1 seen

/-! ### Closing a bundle (R101) -/

/-- The slot of a bundle's CU operation. -/
def cuSlot (i : Issue) : Nat :=
  ((realSlots i.words).find? fun s =>
    i.en.toNat.testBit s && decide (0x104 ≤ slotDst i.words s) && decide (slotDst i.words s < 0x140)).getD 0

/-- A core without its open bundle: what a stopped bundle has left goes when that bundle completes; a bundle that a stub
issues meanwhile leaves it alone (R101, R113, R323). -/
def leaveBundle (i : Issue) (k : Core) : Core :=
  if lvlOf k = .s ∧ i.reissue = false then { k with issue := none }
  else { k with issue := none, pend := none, loopIn := none, shadows := [], stopSel := none, enmask := i.en }

/-- The last slot has committed: the CU operation takes effect, or the next bundle follows. -/
def closeBundle (st : State) (c : Nat) (i : Issue) : State :=
  let st := modCore { st with turn := .agenda } c (leaveBundle i)
  let st := match i.pend with
    | some p => completeCu st c p i.loopIn i.idx (cuSlot i) i.en
    | none => modCore st c fun k => { k with pc := BitVec.ofNat 14 (i.idx + 1) }
  modCore st c keepNewFlags

/-! ### Stops between bundles -/

/-- Core `c` halts between bundles, or at a bundle that it re-enters, whose DONE and shadow entries stay (R344; log 45). -/
def haltBetween (st : State) (c hcause : Nat) : State :=
  let k := coreOf st c
  let (k', s) := match k.reenter with
    | some x => stopReentered k x.1
    | none => stopBetween k k.pc
  haltCore { st with turn := .agenda } c { k' with dbg := { k'.dbg with step := 0 } } s hcause

/-- Core `c` stops for a pre-emption or a yield (R334). -/
def settleCore (st : State) (c : Nat) : State :=
  let st := chargeHold { st with turn := .agenda } c
  modCore st c settleHere

/-- BUNDLE_ISSUE: core `c` closes the bundle whose slots have all committed, or opens the next one; a debug halt, a step
and a pre-emption come first, between bundles (R65, R334, R344). -/
def execBundleIssue (c : Nat) (st : State) : Host.Outcome State Fault Refusal :=
  if numCores ≤ c then .fault .noSuchAgent
  else
    let k := coreOf st c
    match k.issue with
    | some i => .next (if 8 ≤ i.slot then closeBundle st c i else { st with turn := .bundle, cur := c })
    | none =>
      if k.run ≠ .run then .next st
      else if (k.reenter.isNone ∨ k.held.isSome) ∧ k.dbg.haltreq = true then .next (haltBetween st c 1)
      else if k.reenter.isNone ∧ k.dbg.step = 2 then .next (haltBetween st c 5)
      else if k.reenter.isNone ∧ k.stopNow = true ∧ lvlOf k = .t then .next (settleCore st c)
      else if (dieOf st (dieIx c)).dtick < waitOf k then .next st
      else .next (openBundle st c)

/-! ### PHLATE (R244, R376) -/

/-- What the slot at which core `c` is held finds in this tick. -/
def heldCheck (st : State) (c : Nat) : Check :=
  match (coreOf st c).held with
  | none => .ok
  | some h =>
    let (k, i) := seenIssue (tickedCore (coreOf st c)) st.stamp
    slotCheck (setCore st c k) c i h.slot

/-- PHLATE: a phrecv that samples its positions after the hold of ALN_OVR and finds a tag that is not its own leads to the replay of
the phase (R244, R376). -/
def execPhlate (c : Nat) (st : State) : Host.Outcome State Fault Refusal :=
  if numCores ≤ c then .fault .noSuchAgent
  else if !heldBy (coreOf st c) .phrecv then .next st
  else
    match heldCheck st c with
    | .fault 26 detail xaddr => .next (raiseReplay st c 26 detail xaddr)
    | _ => .next st

/-! ### Asynchronous events (R322, R349) -/

/-- The cause that an event's words describe. -/
def causeFrom (w x : Word) : Cause :=
  { code := w.toNat % 32, detail := bits w.toNat 15 8, xaddr := x.toNat, unit := bits w.toNat 23 20, info := bits w.toNat 47 32,
    async := true }

/-- The imprecise hits of core `c` whose skid has passed (R349): reported, counted, or a halt. -/
def raiseHits (st : State) (c : Nat) : State :=
  let k := coreOf st c
  let due := k.wx.filter fun x => decide (x.1 ≤ k.now)
  let st := setCore st c { k with wx := k.wx.filter fun x => !decide (x.1 ≤ k.now) }
  due.foldl (fun st x =>
    let k := coreOf st c
    if x.2.1 = 2 then modCore st c fun k => { k with dbg := { k.dbg with haltAt := some 0 } }
    else if k.pendEv.any (·.1 == 2) || (lvlOf k == .s && k.wxStub) then
      modDie st (dieIx c) fun d => { d with dbg := { d.dbg with wxdrop := d.dbg.wxdrop + 1 } }
    else modCore st c fun k => xPend { k with pendEv := k.pendEv ++ [(2, x.2.2.1, x.2.2.2)] }) st

/-- The event that is delivered first: the lowest bit of PEND. -/
def firstEvent (l : List (Nat × Word × Word)) : Option (Nat × Word × Word) :=
  l.foldl (fun o e => match o with
    | none => some e
    | some f => if e.1 < f.1 then some e else some f) none

/-- ASYNC_EVENT_DELIVERY: the imprecise hits of core `c` become pending or halt it before its next bundle, a re-entered one too (R344,
R349), and at T level, between bundles, the first pending event traps (R322). -/
def execAsyncEventDelivery (c : Nat) (st : State) : Host.Outcome State Fault Refusal :=
  if numCores ≤ c then .fault .noSuchAgent
  else
    let st := raiseHits st c
    let k := coreOf st c
    if k.run ≠ .run ∨ k.issue.isSome then .next st
    else if k.dbg.haltAt = some 0 then .next (haltBetween st c 4)
    else if k.reenter.isSome ∨ lvlOf k = .s ∨ k.dbg.step ≠ 0 then .next st
    else
      match firstEvent k.pendEv with
      | none => .next st
      | some e =>
        let st := setCore st c (xPend { k with pendEv := k.pendEv.erase e })
        .next (faultBetween st c (causeFrom e.2.1 e.2.2) 0)

end Sys2Proof.Machine
end

