-- ==== Sys2Proof/Machine/Events.lean ====
section
/-! DEFINITION. Events of a core's engines and of the die's translation service: results that fall due, correctable-error
freezes (R266), walks that finish (R278). -/

namespace Sys2Proof.Machine

/-- Operations whose issue ticks have run out and that have their values by now, those that a stop has drained among them. -/
def resultDue (f : Flight) : Bool := decide (f.rem = 0) && f.val.isSome

/-- RESULT_DELIVERY: operations of core `c` whose issue ticks have run out and that have their values by now deliver to
their ports (R84, R202); what a drain delivers after its stop leaves shadow entries (R323). -/
def execResultDelivery (c : Nat) (st : State) : Host.Outcome State Fault Refusal :=
  if numCores ≤ c then .fault .noSuchAgent
  else .next (modCore st c fun k =>
    (k.flight.filter resultDue).foldl (fun k f => lateShadows k (deliver k f))
      { k with flight := k.flight.filter fun f => !resultDue f })

/-! ### The correctable-error freeze (R266) -/

/-- The ticks of one freeze. -/
def freezeTicks : Nat := 48

/-- A freeze count after a detection: the count stands at 1 in the last frozen tick. -/
def addFreeze (n : Nat) : Nat := (if n = 0 then 1 else n) + freezeTicks

/-- Whether an access has a byte in the scratchpad of core `c`. -/
def homedAt (c : Nat) (x : Access) : Bool :=
  x.chunks.any fun ch => match target ch.1 with
    | .scratch o _ => o == c
    | _ => false

/-- The accesses of every core that are homed at core `c` and in their padded interval have met one more freeze (R266). -/
def countFreeze (st : State) (c : Nat) : State :=
  let hit := fun (now : Nat) (e : LdEntry) => if e.homes.contains c ∧ now < e.due then { e with frz := e.frz + 1 } else e
  { st with cores := st.cores.map fun x => (x.1, { x.2 with
      accs := x.2.accs.map fun a => if homedAt c a ∧ x.2.now < a.due then { a with frz := a.frz + 1 } else a
      ldq := x.2.ldq.map (hit x.2.now)
      sbank := { x.2.sbank with ldq := x.2.sbank.ldq.map (hit x.2.now) } }) }

/-- A core freezes with its engines; a detection during a freeze adds one that starts, and is met, when the freeze ends (R266). -/
def freezeCore (st : State) (c : Nat) : State :=
  modCore (if (coreOf st c).freeze = 0 then countFreeze st c else st) c fun k => { k with freeze := addFreeze k.freeze }

/-- CORRECTABLE_ERROR_FREEZE: a corrected error in a core's storage, a die courier or a Fuller freezes it (R266). -/
def execCorrectableErrorFreeze (a : Freezable) (st : State) : Host.Outcome State Fault Refusal :=
  match a with
  | .core c => if numCores ≤ c then .fault .noSuchAgent else .next (freezeCore st c)
  | .dieCourier d k =>
    if numDies ≤ d ∨ dieCouriers ≤ k then .fault .noSuchAgent
    else .next (modDie st d fun x => { x with dcfreeze := tset 0 x.dcfreeze k (addFreeze (tget 0 x.dcfreeze k)) })
  | .fuller d =>
    if numDies ≤ d then .fault .noSuchAgent else .next (modDie st d fun x => { x with ffreeze := addFreeze x.ffreeze })

/-- A freeze count at the end of a tick: it ends when its last frozen tick has passed. -/
def thaw (n : Nat) : Nat := if n = 1 then 0 else n

/-- FREEZE_END: the 48-tick count of an agent expires; a core's freeze writes its postmark CEFRZ, and a further one starts (R266,
R357). -/
def execFreezeEnd (a : Freezable) (st : State) : Host.Outcome State Fault Refusal :=
  match a with
  | .core c => if numCores ≤ c then .fault .noSuchAgent
    else
      let st := if 1 < (coreOf st c).freeze then countFreeze st c else st
      .next (postmark (modCore st c fun k => { k with freeze := thaw k.freeze }) c (coreOf st c).pc.toNat 0 17 freezeTicks)
  | .dieCourier d k =>
    if numDies ≤ d ∨ dieCouriers ≤ k then .fault .noSuchAgent
    else .next (modDie st d fun x => { x with dcfreeze := tset 0 x.dcfreeze k (thaw (tget 0 x.dcfreeze k)) })
  | .fuller d =>
    if numDies ≤ d then .fault .noSuchAgent else .next (modDie st d fun x => { x with ffreeze := thaw x.ffreeze })

/-! ### Walks (R275 to R278) -/

/-- The agent number of writes that no core issues: the walkers, the Postmaster, the host complex. -/
def noCore : Nat := numCores

/-- A write of a system agent: it performs at once, published at system scope (R290). -/
def sysStore (st : State) (pa : Nat) (bytes : List Byte) : State :=
  perform st noCore pa bytes st.stamp [] (some .s) .core none

/-- A walker sets A and D by an atomic OR at the entry's home (R276). -/
def setPteBits (st : State) (a pte : Nat) : State := if memNat st.mem a 8 = pte then st else sysStore st a (leBytes 8 pte)

/-- The micro-TLB of a requester takes an entry (R278). -/
def fillRequester (st : State) (e : TlbEntry) (r : Requester) : State :=
  match r with
  | .core c => modCore st c fun k => { k with utlb := tlbFill utlbMax k.utlb e }
  | .courier c => modCore st c fun k => { k with ctlb := tlbFill utlbMax k.ctlb e }
  | .dieCourier c q => modDie st (dieIx c) fun x =>
      { x with dctlb := tmod [] x.dctlb (courierIx c q) fun t => tlbFill utlbMax t e }
  | .fuller d => modDie st d fun x => { x with ftlb := tlbFill utlbMax x.ftlb e }
  | .none => st

/-- A failed walk leaves its detail for a requester (R277). -/
def failRequester (st : State) (va detail : Nat) (r : Requester) : State :=
  let note := fun (c : Nat) (eng : Bool) => modCore st c fun k => { k with xlFault := k.xlFault ++ [(va, eng, detail)] }
  match r with
  | .core c => note c false
  | .courier c => note c true
  | .dieCourier c _ => note c true
  | .fuller d =>
    match (dieOf st d).frun with
    | some x => note x.core true
    | none => st
  | .none => st

/-- Whether a write that waits for a walk goes through its entry (R276). -/
def walkDirty (st : State) (w : Walk) (e : TlbEntry) : Bool := w.writers.any fun x => mayWrite st x w.va e

/-- One walk of die `d` finishes: the TLBs take its entry, or those who wait find its fault; a preload that fails raises
nothing (R135, R277, R278). -/
def finishWalk (st : State) (d : Nat) (w : Walk) : State :=
  match walk st.mem w.root w.asid w.va (walkDirty st w) with
  | .ok (e, a, pte) =>
    let st := setPteBits st a pte
    let st := modDie st d fun x => { x with tlb := tlbFill tlbMax x.tlb e }
    (addNew w.req w.fill).foldl (fun st r => fillRequester st e r) st
  | .error f => w.req.foldl (fun st r => failRequester st w.va f r) st

/-- The cores of die `d` with pages still to preload. -/
def preloaders (st : State) (d : Nat) : List Nat :=
  (st.cores.filter fun x => dieIx x.1 == d && !x.2.preloads.isEmpty).map (·.1)

/-- TRANSLATION_WALK_COMPLETE: the walks of die `d` that are done finish, in the order in which they started; preloads go on as far as
the table has room, and the walkers that are free take the walks asked for before this tick (R135, R278). -/
def execTranslationWalkComplete (d : Nat) (st : State) : Host.Outcome State Fault Refusal :=
  if numDies ≤ d then .fault .noSuchAgent
  else
    let x := dieOf st d
    let done := doneWalks x.dtick x.walks
    let st := setDie st d { x with walks := x.walks.drop done.length }
    let st := done.foldl (fun st w => finishWalk st d w) st
    let st := (preloaders st d).foldl (fun st c => runPreload c true walksMax st) st
    .next (startWalks d (walkersMax - ((dieOf st d).walks.filter fun w => w.due.isSome).length) st)

end Sys2Proof.Machine
end

