-- ==== Sys2Proof/Machine/Satchel.lean ====
section
/-! DEFINITION. The Satchel (R30, R31, R327 to R333): the frame's header and regions, the order of a save, the checks and the
loads of a restore. -/

namespace Sys2Proof.Machine

/-! ### Bytes of a frame -/

/-- A list padded with zeros to a multiple of `n`. -/
def padTo (n : Nat) (l : List Byte) : List Byte := l ++ List.replicate ((n - l.length % n) % n) 0

/-- A list cut or padded with zeros to `n` bytes. -/
def fillTo (n : Nat) (l : List Byte) : List Byte := (l ++ List.replicate (n - l.length) 0).take n

/-- Bytes of a Boolean. -/
def boolByte (b : Bool) : List Byte := leBytes 1 (b2n b)

/-- Bytes of a value of either class in a 256-byte slot (R331). -/
def valBytes : Val → List Byte
  | .s x => fillTo 256 (leBytes 8 x.toNat)
  | .v x => leBytes 256 x.toNat

/-- Whether a value is a vector. -/
def isVec : Val → Bool
  | .s _ => false
  | .v _ => true

/-- A value from its slot. -/
def valFrom (vec : Bool) (b : List Byte) : Val :=
  if vec then .v (BitVec.ofNat 2048 (leNat b)) else .s (BitVec.ofNat 64 (field b 0 8))

/-- A 64-bit word of a record. -/
def wordAt (b : List Byte) (i : Nat) : Word := BitVec.ofNat 64 (field b i 8)

/-! ### The Satchel's own accesses (R328) -/

/-- A translation of the Satchel for core `c`, at S level under the context's ASID: address and key slot. -/
def satXlate (st : State) (c va : Nat) (write : Bool) : Option (Nat × Nat) × State :=
  let k := coreOf st c
  match rootOf st c with
  | none => (none, st)
  | some root =>
    if 2 ^ 52 ≤ va then (none, st)
    else
      match walk st.mem root k.csr.asid va (fun e => write && mayWrite st { core := c, lvl := .s, key := k.csr.keyid } va e) with
      | .error _ => (none, st)
      | .ok (e, a, pte) =>
        let st := setPteBits st a pte
        match checkEntry st c .s k.csr.keyid e va write with
        | .ok pa key _ => (some (pa, key), st)
        | _ => (none, st)

/-- Whole lines of a frame take a key (R281). -/
def keyLines (st : State) (key pa n : Nat) : State :=
  match keyMat st key with
  | some m =>
    if pa < globalBytes then
      let lo := pa / 64
      let cnt := (n + 63) / 64
      { st with host := { st.host with
          lineKey := tsplice st.host.lineKey lo cnt ((List.range cnt).map fun i => (lo + i, some m)) } }
    else st
  | none => st

/-- The Satchel writes a run of bytes, page by page; the result is the address of the access that failed, if any. -/
def satWrite (c : Nat) : Nat → State → Nat → List Byte → Option Nat × State
  | 0, st, _, _ => (none, st)
  | fuel + 1, st, va, l =>
    if l.isEmpty then (none, st)
    else
      let n := 4096 - va % 4096
      match satXlate st c va true with
      | (none, st) => (some va, st)
      | (some (pa, key), st) =>
        let part := l.take n
        let st := keyLines { st with mem := memBlit st.mem pa part } key pa part.length
        satWrite c fuel st (va + n) (l.drop n)

/-- The pages that a run of bytes can touch. -/
def pagesOf (n : Nat) : Nat := n / 4096 + 2

/-- Writing a run of bytes. -/
def frameWrite (st : State) (c va : Nat) (l : List Byte) : Option Nat × State := satWrite c (pagesOf l.length) st va l

/-- The Satchel reads a run of bytes, page by page: the bytes, or the address of the access that failed. -/
def satRead (c : Nat) : Nat → State → Nat → Nat → List (List Byte) → Except Nat (List Byte) × State
  | 0, st, _, _, acc => (.ok acc.reverse.flatten, st)
  | fuel + 1, st, va, len, acc =>
    if len = 0 then (.ok acc.reverse.flatten, st)
    else
      let n := min len (4096 - va % 4096)
      match satXlate st c va false with
      | (none, st) => (.error va, st)
      | (some (pa, key), st) =>
        let plain := memSlice st.mem pa n
        let bs := if pa < globalBytes ∧ (tslice st.host.lineKey (pa / 64) (n / 64 + 2)).any (fun x => x.2 != keyMat st key)
            ∨ (st.host.dumpKey.isSome ∧ (inDump pa ∨ inDump (pa + n)))
          then (List.range n).map fun i => keyedByte st key (memByte st.mem) (pa + i)
          else plain
        satRead c fuel st (va + n) (len - n) (bs :: acc)

/-- Reading a run of bytes. -/
def frameRead (st : State) (c va n : Nat) : Except Nat (List Byte) × State := satRead c (pagesOf n) st va n []

/-! ### The liveness table (R77, R78) -/

/-- The live general and vector registers, by architectural number, as bits. -/
structure Live where
  g : Nat
  v : Nat
  deriving DecidableEq, Repr

/-- Every register live. -/
def liveAll : Live := { g := 2 ^ 128 - 2, v := 2 ^ 64 - 1 }

/-- The entry of a bundle index; beyond the table every register counts as live (R78). DESIGN CHOICE (log 44): the same in a table whose VER
is not 1, of which R77 says nothing. -/
def liveEntry (st : State) (c idx : Nat) : Except Nat Live × State :=
  let base := (coreOf st c).csr.lrtbase.toNat
  match frameRead st c base 64 with
  | (.error a, st) => (.error a, st)
  | (.ok h, st) =>
    if field h 0 4 ≠ 1 ∨ field h 4 4 ≤ idx then (.ok liveAll, st)
    else
      match frameRead st c (base + 64 + 24 * idx) 24 with
      | (.error a, st) => (.error a, st)
      | (.ok e, st) => (.ok { g := field e 0 16 - field e 0 16 % 2, v := field e 16 8 }, st)

/-- The marked registers, ascending. -/
def liveG (l : Live) : List Nat := (List.range 128).filter l.g.testBit
/-- The marked vector registers. -/
def liveV (l : Live) : List Nat := (List.range 64).filter l.v.testBit

/-- The physical number of `gn` and of `vn` under the bases of a core (R9). -/
def physG (r : Csrs) (n : Nat) : Nat := if n < 64 then n else 64 + (n - 64 + r.grb.toNat) % 64
/-- `vn`. -/
def physV (r : Csrs) (n : Nat) : Nat := if n < 32 then n else 32 + (n - 32 + r.vrb.toNat) % 32

/-! ### Regions (R330, R331; the layouts that R331 leaves open: log 21) -/

/-- Region 1: the shadow entries. -/
def region1 (k : Core) : List Byte :=
  padTo 64 (k.shadows.flatMap fun e => leBytes 1 e.slot ++ boolByte (isVec e.val) ++ List.replicate 14 0 ++ valBytes e.val)

/-- Predicates as bits, p0 as 1. -/
def predBits (t : Tab Bool) : Nat := (List.range 16).foldl (fun a n => if predVal t n then a + 2 ^ n else a) 0

/-- Predicates from bits. -/
def predFrom (x : Nat) : Tab Bool := tfrom false 16 fun n => n != 0 && x.testBit n

/-- WREM: the ticks of a waitc still to run at a save, those of a restored core that has not started among them (R108). -/
def ticksLeft (k : Core) (now : Nat) : Nat := if k.waitLeft ≠ 0 then k.waitLeft else k.waitUntil - now

/-- The wait of a restored core counts from tick `t`; one whose state stayed in place keeps its deadline (R108, R333). -/
def resumeWait (t : Nat) (k : Core) : Core :=
  { k with waitUntil := if k.waitLeft ≠ 0 then t + k.waitLeft else k.waitUntil, waitLeft := 0 }

/-- Region 2: the pending record, WREM, the cursor, the interval tag, the loop inputs. -/
def region2 (k : Core) (now : Nat) : List Byte :=
  let p := k.pend.getD { op := 0, a := 0, b := 0 }
  let l := k.loopIn.getD { trip := 0, stgw := 0, prb := 0, preds := [] }
  fillTo 64 (leBytes 1 (b2n k.pend.isSome + 2 * b2n k.loopIn.isSome) ++ leBytes 7 p.op ++ leBytes 8 p.a.toNat
    ++ leBytes 8 p.b.toNat ++ leBytes 4 (ticksLeft k now) ++ leBytes 4 k.cursor ++ leBytes 4 k.itag.toNat
    ++ leBytes 4 l.trip.toNat ++ leBytes 1 l.stgw.toNat ++ leBytes 1 l.prb.toNat
    ++ leBytes 2 (if k.loopIn.isSome then predBits l.preds else 0))

/-- Region 3: the control registers. -/
def region3 (r : Csrs) : List Byte :=
  let w := fun (x : Nat) => leBytes 8 x
  fillTo 256 (w r.grb.toNat ++ w r.vrb.toNat ++ w r.prb.toNat ++ w r.trip.toNat ++ w r.stgw.toNat ++ w r.vstat.toNat
    ++ w r.mxstat.toNat ++ w r.ssstat.toNat ++ w r.devctl.toNat
    ++ ((List.range 4).flatMap fun i => w (tget 0 r.wpb i).toNat) ++ ((List.range 4).flatMap fun i => w (tget 0 r.wpm i).toNat)
    ++ w r.savebase.toNat ++ w r.savelim.toNat ++ w r.lrtbase.toNat ++ w r.asid.toNat ++ w r.keyid.toNat ++ w r.seed.toNat)

/-- Region 4: o, m and the predicates. -/
def region4 (f : Files) : List Byte :=
  fillTo 256 (((List.range 16).flatMap fun i => leBytes 8 (tget 0 f.o i).toNat)
    ++ ((List.range 8).flatMap fun i => leBytes 8 (tget 0 f.m i).toNat) ++ leBytes 2 (predBits f.p))

/-- Region 5: w0 to w7. -/
def region5 (f : Files) : List Byte := (List.range 8).flatMap fun i => leBytes 256 (tget 0 f.w i).toNat

/-- Region 6: live g. -/
def region6 (k : Core) (l : Live) : List Byte :=
  padTo 64 ((liveG l).flatMap fun n => leBytes 8 (tget 0 k.files.g (physG k.csr n)).toNat)

/-- Region 7: live v. -/
def region7 (k : Core) (l : Live) : List Byte :=
  (liveV l).flatMap fun n => leBytes 256 (tget 0 k.files.v (physV k.csr n)).toNat

/-- The scalar units in the order of region 8. -/
def portUnits : List Nat := [0, 1, 2, 3, 7, 8, 9, 10, 11]

/-- The codes, less 0x0F0, of the scalar result ports. -/
def scalarRes : List Nat := [0, 1, 2, 4, 6, 9, 10, 14, 15, 16, 17]

/-- The codes, less 0x0F0, of the vector result ports. -/
def vectorRes : List Nat := [3, 5, 7, 8, 11, 12, 13]

/-- Region 8: the ports. -/
def region8 (p : Ports) : List Byte :=
  fillTo 5248 ((portUnits.flatMap fun u => (List.range 4).flatMap fun i => leBytes 8 (tget 0 p.sOp (4 * u + i)).toNat)
    ++ ((List.range 12).flatMap fun i => leBytes 256 (tget 0 p.vOp i).toNat)
    ++ (scalarRes.flatMap fun i => leBytes 8 (tget 0 p.sRes i).toNat)
    ++ (vectorRes.flatMap fun i => leBytes 256 (tget 0 p.vRes i).toNat))

/-- Region 9: the load-data queue; bit `i` of bytes 8 to 15 marks entry `i` as a vector. -/
def region9 (q : List LdEntry) : List Byte :=
  let kinds := (q.zipIdx).foldl (fun a x => if isVec (ldVal x.1) then a + 2 ^ x.2 else a) 0
  fillTo 64 (leBytes 8 q.length ++ leBytes 8 kinds) ++ q.flatMap fun e => valBytes (ldVal e)

/-- The unstarted cards of a core in the Fuller queue of its die (R335). -/
def cardsOf (q : List FlItem) (c : Nat) : List FlItem := q.filter fun x => flCore x == c

/-- The card that stands before the image of a routine load in region 10: its slot and 63 bytes of 0xFF, which no card has
(R245; log 21). -/
def progMark (slot : Nat) : List Byte := leBytes 1 slot ++ List.replicate 63 0xFF

/-- A card of region 10. A routine load that has not started travels among them as two cards with the last number given before it:
its mark and its image (R250; log 21). -/
def cardBytes : FlItem → List Byte
  | .card _ seq card _ _ _ _ _ => leBytes 8 seq.toNat ++ fillTo 64 card
  | .prog _ last slot image _ => leBytes 8 last.toNat ++ progMark slot ++ leBytes 8 last.toNat ++ fillTo 64 image

/-- How many cards of region 10 an entry takes. -/
def cardPlaces : FlItem → Nat
  | .card _ _ _ _ _ _ _ _ => 1
  | .prog _ _ _ _ _ => 2

/-- The slot images of a bank; an empty slot is 64 bytes of 0xFF. -/
def bankBytes (b : Bank) : List Byte :=
  (List.range 16).flatMap fun i => match tget none b.slots i with
    | some im => fillTo 64 im
    | none => List.replicate 64 0xFF

/-- Region 10: courier, Sorter and Fuller. -/
def region10 (k : Core) (cards : List FlItem) (bank : Option Bank) : List Byte :=
  padTo 64 (fillTo 120 (((List.range 4).flatMap fun i => leBytes 8 (tget 0 k.cp.wp i).toNat) ++ leBytes 8 k.cp.sbase.toNat
      ++ (List.range 6).flatMap fun i =>
        let l := tget SortLevel.reset k.cp.levels i
        leBytes 3 l.cnt.toNat ++ leBytes 5 l.sstr.toNat ++ leBytes 5 l.dstr.toNat)
    ++ leBytes 4 k.fl.next.toNat ++ leBytes 2 (cards.map cardPlaces).sum ++ boolByte bank.isSome ++ [0]
    ++ cards.flatMap cardBytes ++ (match bank with
      | some b => bankBytes b
      | none => []))

/-- A weight latch as FP32 or INT32. -/
def latchBytes (w : WFmt) (x : Num) : List Byte :=
  leBytes 4 (if fmtInt w.fmt.toNat then (roundToInt 32 0 0 (.num x)).1 else (encodeNum 0 false 0 0 (.num x)).1)

/-- A weight latch from its bytes. -/
def latchFrom (w : WFmt) (b : List Byte) : Num :=
  if fmtInt w.fmt.toNat then ofInt (sint 32 (leNat b)) else numOf 0 (leNat b)

/-- A weight format with its smoothing flag. -/
def wfmtByte (w : WFmt) : List Byte := leBytes 1 (w.fmt.toNat + 16 * b2n w.smooth)

/-- Smoothing factors. -/
def facBytes (w : WFmt) : List Byte := (List.range 128).flatMap fun i => leBytes 4 (tget 0 w.fac i).toNat

/-- The mode as a byte. -/
def modeByte : MxMode → List Byte
  | .fwd => [0]
  | .bwd => [1]
  | .wgrad => [2]

/-- An entry of the order queue or of the follow-on buffer; of a register drain it holds the issue count that its first row has
left (R193, R199). -/
def mxCmdBytes (rows : List RegRow) (m : MxCmd) : List Byte :=
  leBytes 1 m.op ++ leBytes 1 m.tag.toNat ++ leBytes 1 (lvlBit m.lvl)
    ++ leBytes 1 (((rows.find? fun r => r.trig == m.id && r.i == 0).map (·.cnt)).getD 0) ++ leBytes 4 m.tidx.toNat
    ++ leBytes 8 m.a.toNat ++ leBytes 8 m.b.toNat ++ leBytes 8 m.seed.toNat

/-- An entry from its bytes; an entry of zeros is none. -/
def mxCmdFrom (i : Nat) (b : List Byte) : Option MxCmd :=
  if allZero b then none
  else some { id := i, op := field b 0 1, tag := BitVec.ofNat 8 (field b 1 1), lvl := if field b 2 1 = 1 then .s else .t,
              trig := 0, tidx := BitVec.ofNat 32 (field b 4 4), a := wordAt b 8, b := wordAt b 16, scaleMin := 0,
              seed := wordAt b 24 }

/-- The rows that a queued entry of the order queue has still to deliver to mx.dl and mx.dh, from its bytes (R193, R199). -/
def rowsFrom (m : MxCmd) (b : List Byte) : List RegRow :=
  if m.op = 0x0A ∧ drDst m.b.toNat = 0 then
    (List.range (drNr m.b.toNat + 1)).map fun i =>
      { cnt := field b 3 1 + i, lvl := m.lvl, trig := m.id, i := i, data := none, flags := 0 }
  else []

/-- The undelivered rows that a frame carries with their data: NDR counts at most 255 of them. -/
def readyRows (m : Mx) : List RegRow := (m.regRows.filter fun r => r.data.isSome).take 255

/-- The remaining issue count of a row (bits 8:0) with its flags (bits 13:9) and its level (bit 14); log 21. -/
def rowCount (r : RegRow) : List Byte := leBytes 2 (r.cnt % 2 ^ 9 + r.flags.toNat % 32 * 2 ^ 9 + lvlBit r.lvl * 2 ^ 14)

/-- A follow-on that waits for a full buffer, in 56 bits (R195; log 21): a mark, its operation, level, queue and tag, and ports a and
b. -/
def waitBits (m : MxCmd) : Nat :=
  1 + 2 * b2n (m.op == 0x08) + 4 * lvlBit m.lvl + 8 * (m.trig % 8) + 2 ^ 6 * m.tag.toNat + 2 ^ 14 * (m.a.toNat % 2 ^ 22)
    + 2 ^ 36 * (m.b.toNat % 2 ^ 20)

/-- A waiting follow-on from its bits. -/
def waitFrom (i x : Nat) : Option MxCmd :=
  if x % 2 = 0 then none
  else some { id := i, op := if x.testBit 1 then 0x08 else 0x04, lvl := if x.testBit 2 then .s else .t, trig := bits x 5 3,
              tag := BitVec.ofNat 8 (bits x 13 6), a := BitVec.ofNat 64 (bits x 35 14), b := BitVec.ofNat 64 (bits x 55 36),
              scaleMin := 0, seed := 0, tidx := 0 }

/-- The words of fjstat that no other region names, 32 bits each (R249; log 21): the cards skipped, the number of the first error, its
code with its mark and the flags. -/
def flWord (f : FullerCore) (i : Nat) : Nat :=
  match i with
  | 0 => f.skipped
  | 1 => (f.err.map (·.1.toNat)).getD 0
  | 2 => (f.err.map (·.2)).getD 0 + 2 ^ 8 * f.flags.toNat + 2 ^ 16 * b2n f.err.isSome
  | _ => 0

/-- The follow-on buffer of region 11. A follow-on has no TILEIDX and no SEED: in their places entry i holds word i of the Fuller's and
the i-th follow-on that waits (log 21). -/
def followBytes (m : Mx) (f : FullerCore) : List Byte :=
  (List.range 8).flatMap fun i =>
    let e := ((m.follow[i]?).map (mxCmdBytes [])).getD (List.replicate 32 0)
    e.take 4 ++ leBytes 4 (flWord f i) ++ (e.drop 8).take 16 ++ leBytes 8 ((m.arriving[i]?.map waitBits).getD 0)

/-- The Fuller's words from region 11. -/
def flFrom (f : FullerCore) (b : List Byte) : FullerCore :=
  let w := fun (i : Nat) => field b (212992 + 960 + 32 * i + 4) 4
  { f with skipped := w 0, flags := BitVec.ofNat 8 (w 2 / 2 ^ 8)
           err := if (w 2).testBit 16 then some (BitVec.ofNat 32 (w 1), w 2 % 2 ^ 8) else none }

/-- Region 11: the matrix array. -/
def region11 (m : Mx) (f : FullerCore) : List Byte :=
  let ctl := wfmtByte m.latched ++ modeByte m.mode ++ boolByte m.sparse ++ leBytes 1 (readyRows m).length ++ leBytes 4 m.count.toNat
    ++ leBytes 8 m.dfn.toNat ++ fillTo 16 (leBytes 8 m.gradOff ++ leBytes 1 m.gradFmt.toNat ++ leBytes 1 m.gradScale.toNat)
  (List.range 16384).flatMap (fun i => latchBytes m.latched (tget (.fin false 0 0) m.latch i))
    ++ (List.range 16384).flatMap (fun i =>
      let p := tget (0, 0) m.pairs i
      leBytes 9 (p.1.toNat + p.2.toNat * 2 ^ 36))
    ++ fillTo 64 ctl ++ facBytes m.latched ++ ((List.range 128).map fun i => tget 0x7F m.edge i)
    ++ fillTo 256 (m.queue.flatMap (mxCmdBytes m.regRows)) ++ followBytes m f
    ++ ((List.range 4096).map fun i => tget 0 m.meta2 i)
    ++ fillTo 512 ((readyRows m).flatMap rowCount)
    ++ fillTo 64 (wfmtByte m.pendFmt) ++ fillTo 2304 (facBytes m.pendFmt)
    ++ (readyRows m).flatMap fun r => match r.data with
      | some (x, y) => leBytes 256 x.toNat ++ leBytes 256 y.toNat
      | none => List.replicate 512 0

/-- The rows of the valid descriptors, in order: descriptor and row. -/
def rowsOf (s : Store) : List (Nat × Desc × Nat) :=
  (List.range 16).flatMap fun sid => match descOf s sid with
    | some d => (List.range d.rows).map fun r => (sid, d, r)
    | none => []

/-- A descriptor. -/
def descBytes : Option Desc → List Byte
  | none => List.replicate 32 0
  | some d => fillTo 32 (leBytes 4 d.first ++ leBytes 4 d.rows ++ leBytes 4 d.n ++ leBytes 1 d.f ++ leBytes 1 (1 + 2 * b2n d.unit)
      ++ leBytes 2 0 ++ leBytes 8 d.gain ++ leBytes 4 d.eps.toNat)

/-- A descriptor from its bytes. -/
def descFrom (b : List Byte) : Option Desc :=
  let v := field b 13 1
  if v % 2 = 0 then none
  else some { first := field b 0 4, rows := field b 4 4, n := field b 8 4, f := field b 12 1, unit := v.testBit 1,
              gain := field b 16 8, eps := BitVec.ofNat 32 (field b 24 4) }

/-- Region 12: stream descriptors and the row table, rows in descriptor and row order. -/
def region12 (s : Store) : List Byte :=
  (List.range 16).flatMap (fun i => descBytes (descOf s i))
    ++ fillTo 65536 ((rowsOf s).flatMap fun x =>
      let m := rowMeta s x.1 x.2.2
      leBytes 14 m.ssq.toNat ++ leBytes 2 m.wrapc.toNat)

/-- Region 13: one E48 envelope per row. -/
def region13 (s : Store) : List Byte := (rowsOf s).flatMap fun x => padTo 64 (e48 s x.2.1 x.1 x.2.2)

/-- Region 14: the scratchpad, linear view. -/
def region14 (st : State) (c : Nat) : List Byte := memSlice st.mem (windowBase c) scratchBytes

/-! ### The header (R329) -/

/-- Fields of a header. -/
structure Header where
  kind : Nat
  valid : Bool
  ended : Bool
  size : Nat
  crc : Nat
  deriving DecidableEq, Repr

/-- The header of a core's frame. -/
def headerBytes (k : Core) (h : Header) : List Byte :=
  leBytes 2 1 ++ leBytes 1 h.kind ++ leBytes 1 (b2n h.valid + 2 * b2n h.ended) ++ leBytes 4 h.size ++ leBytes 8 k.csr.xstat.toNat
    ++ leBytes 8 k.csr.xpc.toNat ++ leBytes 8 k.csr.xcause.toNat ++ leBytes 8 k.csr.xaddr.toNat ++ leBytes 8 k.csr.phaseid.toNat
    ++ leBytes 4 h.crc ++ leBytes 1 k.enmask.toNat ++ leBytes 1 k.shadows.length ++ leBytes 2 0 ++ leBytes 4 k.csr.xpc.toNat
    ++ leBytes 4 0

/-- The bits of XSTAT and of XCAUSE that are not reserved (R17, R320). -/
def xstatMask : Word := 0xFF7F00FF
/-- The same of XCAUSE. -/
def xcauseMask : Word := 0x0000FFFF00F0FF9F

/-- Whether a header's reserved bytes, and the reserved bits of its XSTAT and XCAUSE, are zero (R5, R329, R333). -/
def headerReserved (b : List Byte) : Bool :=
  decide (field b 3 1 < 4) && field b 54 2 == 0 && field b 60 4 == 0 && wordAt b 8 &&& ~~~xstatMask == 0 && wordAt b 24 &&& ~~~xcauseMask == 0

/-! ### Saving (R328, R332) -/

/-- The virtual address of a core's frame (R328). -/
def frameVa (k : Core) (c : Nat) : Nat := k.csr.savebase.toNat + c * 2 ^ 23

/-- The bank that the frame of core `c` carries: that of its launch, when `c` is the launch's lowest core on its die (R251) among
those that have not ended, whose frame is more than its header (log 21). -/
def bankFor (st : State) (c : Nat) : Option Bank :=
  match (coreOf st c).launch, launchOf st c with
  | some h, some l =>
    if l.cores.any fun o => dieIx o == dieIx c && decide (o < c) && (coreOf st o).run != .ended then none
    else ((dieOf st (dieIx c)).banks.find? fun b => b.2.holder == some h).map (·.2)
  | _, _ => none

/-- The body of a frame. -/
def frameBody (st : State) (c kind : Nat) (l : Live) (bank : Option Bank) : List Byte :=
  let k := coreOf st c
  region1 k ++ region2 k (dieOf st (dieIx c)).dtick ++ region3 k.csr ++ region4 k.files ++ region5 k.files ++ region6 k l
    ++ region7 k l ++ region8 k.ports ++ region9 k.ldq ++ region10 k (cardsOf (dieOf st (dieIx c)).fq c) bank ++ region11 k.mx k.fl
    ++ region12 k.ss ++ (if kind = 2 then region13 k.ss ++ region14 st c else [])

/-- Why a save failed: detail and address (R320, code 30). -/
abbrev SaveFail := Option (Nat × Nat)

/-- The three writes of R332. -/
def writeFrame (st : State) (c va : Nat) (h : Header) (body : List Byte) : SaveFail × State :=
  match frameWrite st c va (headerBytes (coreOf st c) { h with valid := false }) with
  | (some a, st) => (some (0, a), st)
  | (none, st) =>
    match frameWrite st c (va + 64) body with
    | (some a, st) => (some (0, a), st)
    | (none, st) =>
      match frameWrite st c va (headerBytes (coreOf st c) { h with valid := true }) with
      | (some a, st) => (some (0, a), st)
      | (none, st) => (none, st)

/-- The places and the levels of the unstarted cards are kept beside the frame (log 21). -/
def noteCards (st : State) (c : Nat) : State :=
  modCore st c fun k => { k with fl := { k.fl with saved := (cardsOf (dieOf st (dieIx c)).fq c).filterMap fun
    | .card _ seq _ stamp _ _ lvl _ => some (seq, stamp, lvl)
    | .prog _ _ _ _ _ => none } }

/-- A SAVE of core `c` (R328, R332), a stop at which the write pointers go to the queue records (R222): the checks of SAVEBASE and SAVELIM, then the frame. An ended core's frame is its
header. -/
def saveFrame (st : State) (c kind : Nat) (ended : Bool) (bank : Option Bank) : SaveFail × State :=
  let st := noteCards (mirrorStops (if kind = 2 ∧ ended = false then vjoinMerge st c else st) c) c
  let k := coreOf st c
  let va := frameVa k c
  match (if ended then (.ok liveAll, st) else liveEntry st c k.csr.xpc.toNat : Except Nat Live × State) with
  | (.error a, st) => (some (0, a), st)
  | (.ok l, st) =>
    let body := if ended then [] else frameBody st c kind l bank
    let size := 64 + body.length
    if k.csr.savebase.toNat % 64 ≠ 0 then (some (2, va), st)
    else if k.csr.savelim.toNat < va + size then (some (1, va + size), st)
    else writeFrame st c va { kind := kind, valid := true, ended := ended, size := size, crc := crc32c body } body

/-! ### Restoring (R333) -/

/-- The values of a block of registers. -/
def tabFrom (n w : Nat) (b : List Byte) (f : Nat → List Byte → Nat × BitVec w) : Tab (BitVec w) :=
  (piecesOf (w / 8) n b).zipIdx.foldl (fun t x => let (i, v) := f x.2 x.1; tset 0 t i v) []

/-- Consecutive registers. -/
def regsFrom (n w : Nat) (b : List Byte) : Tab (BitVec w) := tabFrom n w b fun i x => (i, BitVec.ofNat w (leNat x))

/-- Region 1. -/
def load1 (k : Core) (n : Nat) (b : List Byte) : Core :=
  { k with shadows := (piecesOf 272 n b).map fun e => { slot := field e 0 1, val := valFrom (field e 1 1 == 1) (e.drop 16) } }

/-- Region 2: WREM counts from the first issue tick (R333). -/
def load2 (k : Core) (b : List Byte) : Core :=
  let x := field b 0 1
  { k with
    pend := if x.testBit 0 then some { op := field b 1 1, a := wordAt b 8, b := wordAt b 16 } else none
    waitUntil := 0, waitLeft := field b 24 4
    cursor := field b 28 4
    itag := BitVec.ofNat 32 (field b 32 4)
    loopIn := if x.testBit 1 then
        some { trip := BitVec.ofNat 32 (field b 36 4), stgw := BitVec.ofNat 4 (field b 40 1), prb := BitVec.ofNat 3 (field b 41 1),
               preds := predFrom (field b 42 2) }
      else none }

/-- The control registers of region 3, in its order. -/
def frameCsrs : List Nat :=
  [0x010, 0x011, 0x012, 0x013, 0x014, 0x020, 0x021, 0x022, 0x030, 0x040, 0x041, 0x042, 0x043, 0x048, 0x049, 0x04A, 0x04B, 0x050,
   0x051, 0x052, 0x070, 0x071, 0x072]

/-- Region 3: each register takes the bits that it has (R5). -/
def load3 (k : Core) (b : List Byte) : Core :=
  frameCsrs.zipIdx.foldl (fun k x => csrPut k x.1 (wordAt b (8 * x.2))) k

/-- Region 4. -/
def load4 (k : Core) (b : List Byte) : Core :=
  { k with files := { k.files with
      o := regsFrom 16 64 b, m := regsFrom 8 64 (b.drop 128), p := predFrom (field b 192 2) } }

/-- Region 5. -/
def load5 (k : Core) (b : List Byte) : Core := { k with files := { k.files with w := regsFrom 8 2048 b } }

/-- Regions 6 and 7: registers that are not live become zero (R30). -/
def load67 (k : Core) (l : Live) (b6 b7 : List Byte) : Core :=
  { k with files := { k.files with
      g := tabFrom (liveG l).length 64 b6 fun i x => (physG k.csr ((liveG l).getD i 0), BitVec.ofNat 64 (leNat x))
      v := tabFrom (liveV l).length 2048 b7 fun i x => (physV k.csr ((liveV l).getD i 0), BitVec.ofNat 2048 (leNat x)) } }

/-- Region 8. -/
def load8 (k : Core) (b : List Byte) : Core :=
  { k with ports := {
      sOp := tabFrom 36 64 b fun i x => (4 * portUnits.getD (i / 4) 0 + i % 4, BitVec.ofNat 64 (leNat x))
      vOp := regsFrom 12 2048 (b.drop 288)
      sRes := tabFrom 11 64 (b.drop 3360) fun i x => (scalarRes.getD i 0, BitVec.ofNat 64 (leNat x))
      vRes := tabFrom 7 2048 (b.drop 3448) fun i x => (vectorRes.getD i 0, BitVec.ofNat 2048 (leNat x)) } }

/-- Region 9: the entries have arrived. -/
def load9 (k : Core) (b : List Byte) : Core :=
  let n := field b 0 4
  let kinds := field b 8 8
  { k with ldq := (piecesOf 256 n (b.drop 64)).zipIdx.map fun x =>
      let vec := kinds.testBit x.2
      { id := x.2, vec := vec, signed := false, bytes := x.1.take (if vec then 256 else 8), due := 0, issued := 0, done := true, arrived := true,
        padded := false, homes := [], frz := 0, deps := [], places := [] } }

/-- The slot that a routine load of region 10 names. -/
def progSlot (x : List Byte) : Option Nat := if x.drop 9 = List.replicate 63 0xFF then some (field x 8 1) else none

/-- The number of the last completed card that the unstarted entries of region 10 tell: a card comes after it, the mark of a routine
load holds it, and where there is none it is the last number given (R248, R249). -/
def lastDone (next : BitVec 32) : List (List Byte) → BitVec 32
  | [] => next - 1
  | x :: _ => let q := BitVec.ofNat 32 (field x 0 4)
              if (progSlot x).isSome then q else q - 1

/-- Region 10, the courier's, the Sorter's and the Fuller's numbers. -/
def load10 (k : Core) (b : List Byte) : Core :=
  let n := field b 124 2
  let next := BitVec.ofNat 32 (field b 120 4)
  { k with
    cp := { k.cp with
      wp := regsFrom 4 64 b, sbase := wordAt b 32
      levels := tfrom SortLevel.reset 6 fun i =>
        { cnt := BitVec.ofNat 24 (field b (40 + 13 * i) 3), sstr := BitVec.ofNat 40 (field b (43 + 13 * i) 5)
          dstr := BitVec.ofNat 40 (field b (48 + 13 * i) 5) } }
    fl := { k.fl with next := next, last := lastDone next (piecesOf 72 n (b.drop 128)) } }

/-- A card of region 10 as a queue entry. It keeps the place and the level of its issue, where the core still holds them; else it
stands at place `n` of the core's order (R247; log 21). -/
def cardOn (k : Core) (c : Nat) (bank : Option Nat) (n : Nat) (x : List Byte) : FlItem :=
  let seq := BitVec.ofNat 32 (field x 0 4)
  let (stamp, lvl) := ((k.fl.saved.find? fun o => o.1 == seq).map (·.2)).getD (n, .t)
  .card c seq (x.drop 8) stamp k.csr.asid k.csr.keyid lvl bank

/-- The Fuller queue entries that cards of region 10 stand for, each card at a place of its own. -/
def cardsOn (k : Core) (c : Nat) (bank : Option Nat) : Nat → List (List Byte) → List FlItem
  | n, x :: y :: ys =>
    match progSlot x with
    | some s => .prog c (BitVec.ofNat 32 (field x 0 4)) s (y.drop 8) bank :: cardsOn k c bank n ys
    | none => cardOn k c bank n x :: cardsOn k c bank (n + 1) (y :: ys)
  | n, [x] => [cardOn k c bank n x]
  | _, [] => []

/-- The entries of core `c` in a Fuller queue become the given ones, in the places of the old ones and then at the end. -/
def putCards (c : Nat) : List FlItem → List FlItem → List FlItem
  | [], new => new
  | x :: xs, new =>
    if flCore x = c then
      match new with
      | [] => putCards c xs []
      | y :: ys => y :: putCards c xs ys
    else x :: putCards c xs new

/-- The unstarted cards of region 10 return to the queue in order (R248, R333). -/
def loadCards (st : State) (c : Nat) (b : List Byte) : State :=
  let n := field b 124 2
  let cards := cardsOn (coreOf st c) c (bankOf st c) st.stamp (piecesOf 72 n (b.drop 128))
  { modDie st (dieIx c) fun x => { x with fq := putCards c x.fq cards } with stamp := st.stamp + n }

/-- A card of core `c` under the context that its launch now has (R336). -/
def ownCard (asid : BitVec 16) (keyid : BitVec 10) (c : Nat) : FlItem → FlItem
  | .card o seq card stamp a key lvl bank => if o = c then .card o seq card stamp asid keyid lvl bank else .card o seq card stamp a key lvl bank
  | .prog o last slot image bank => .prog o last slot image bank

/-- The bank of region 10. -/
def bankFrom (b : List Byte) : Option (Tab (Option (List Byte))) :=
  if field b 126 1 = 1 then
    some (tfrom none 16 fun i =>
      let im := (b.drop (128 + 72 * field b 124 2 + 64 * i)).take 64
      if im.all (· == 0xFF) then none else some im)
  else none

/-- A weight format from its byte and its factors. -/
def wfmtFrom (x : Nat) (fac : List Byte) : WFmt :=
  { fmt := BitVec.ofNat 4 x, smooth := x.testBit 4, fac := regsFrom 128 32 fac }

/-- Region 11. -/
def load11 (m : Mx) (f : FullerCore) (b : List Byte) : Mx :=
  if region11 m f = b then m
  else
    let ctl := b.drop 212992
    let lat := wfmtFrom (field ctl 0 1) (ctl.drop 64)
    let ndr := field ctl 3 1
    let entries := fun (l : List Byte) => (piecesOf 32 8 l).zipIdx.filterMap fun x => (mxCmdFrom (x.2 + 1) x.1).map fun m => (m, x.1)
    let queue := entries (ctl.drop 704)
    let follow := (piecesOf 32 8 (ctl.drop 960)).zipIdx
    let rows := piecesOf 512 ndr (b.drop 221184)
    { m with
      latch := ((piecesOf 4 16384 b).zipIdx.filterMap fun x =>
        let v := latchFrom lat x.1
        if v = .fin false 0 0 then none else some (x.2, v))
      pairs := ((piecesOf 9 16384 (b.drop 65536)).zipIdx.filterMap fun x =>
        let v := leNat x.1
        if v % 2 ^ 72 = 0 then none else some (x.2, (BitVec.ofNat 36 v, BitVec.ofNat 36 (v / 2 ^ 36))))
      latched := lat
      mode := match field ctl 1 1 with
        | 0 => .fwd
        | 1 => .bwd
        | _ => .wgrad
      sparse := field ctl 2 1 == 1
      count := BitVec.ofNat 32 (field ctl 4 4)
      dfn := wordAt ctl 8
      gradOff := field ctl 16 8, gradFmt := BitVec.ofNat 4 (field ctl 24 1), gradScale := BitVec.ofNat 8 (field ctl 25 1)
      edge := tfrom 0x7F 128 fun i => ctl.getD (576 + i) 0
      queue := queue.map (·.1), follow := (entries (follow.flatMap fun x => x.1.take 4 ++ List.replicate 4 0 ++ (x.1.drop 8).take 16 ++ List.replicate 8 0)).map (·.1)
      meta2 := ((ctl.drop 1216).take 4096).zipIdx.filterMap fun x => if x.1 = 0 then none else some (x.2, x.1)
      pendFmt := wfmtFrom (field ctl 5824 1) (ctl.drop 5888)
      running := none, scales := [], arriving := follow.filterMap (fun x => waitFrom (x.2 + 1) (field x.1 24 8)), rows := []
      regRows := (rows.zipIdx.map fun x =>
        let w := field ctl (5312 + 2 * x.2) 2
        { cnt := w % 2 ^ 9, lvl := if w.testBit 14 then .s else .t, trig := 0, i := x.2
          data := some (BitVec.ofNat 2048 (leNat (x.1.take 256)), BitVec.ofNat 2048 (leNat (x.1.drop 256)))
          flags := BitVec.ofNat 8 (w / 2 ^ 9 % 32) }) ++ queue.flatMap fun x => rowsFrom x.1 x.2 }

/-- The drains to the stream store that an order queue holds, for the fences (R212). -/
def queuedDrains (m : Mx) : List (Nat × Nat) :=
  (m.queue.filter fun q => q.op == 0x0A && decide (2 ≤ drDst q.b.toNat)).map fun q => (q.id, sidOf (q.a.toNat % 2 ^ 32))

/-- Region 12. -/
def load12 (s : Store) (b : List Byte) : Store :=
  let s := { s with desc := tfrom none 16 fun i => descFrom ((b.drop (32 * i)).take 32), ops := [], dieQ := [], pkgQ := [], eng := [] }
  { s with rows := ((rowsOf s).zip (piecesOf 16 4096 (b.drop 512))).foldl (fun t x =>
      tset rowZero t (rowKey x.1.1 x.1.2.2) { ssq := BitVec.ofNat 112 (field x.2 0 14), wrapc := BitVec.ofNat 16 (field x.2 14 2) }) [] }

/-- One row of region 13 is restored. -/
def loadRow (s : Store) (d : Desc) (sid row : Nat) (b : List Byte) : Store :=
  let xs := (piecesOf 6 d.n (b.drop 64)).zipIdx
  { s with
    elems := tsplice s.elems (elemIx d row 0) d.n (xs.filterMap fun x =>
      let v := BitVec.ofNat 48 (leNat x.1)
      if v = 0 then none else some (elemIx d row x.2, v))
    rows := tset rowZero s.rows (rowKey sid row) { ssq := BitVec.ofNat 112 (field b 16 14), wrapc := BitVec.ofNat 16 (field b 12 2) } }

/-- Region 13: the store, or the row whose envelope fails. -/
def load13 : List (Nat × Desc × Nat) → Store → List Byte → Except Nat Store
  | [], s, _ => .ok s
  | (sid, d, r) :: xs, s, b =>
    let n := (64 + 6 * d.n + 63) / 64 * 64
    if envBad b d.n d.f then .error (sid * 2 ^ 28 + r * 2 ^ 16) else load13 xs (loadRow s d sid r b) (b.drop n)

/-- The lengths of regions 1 to 12, in order, as far as the bytes before each fix them. -/
def regionLens (b : List Byte) (nshd : Nat) (l : Live) : List Nat :=
  let r1 := (272 * nshd + 63) / 64 * 64
  let before9 := r1 + 64 + 256 + 256 + 2048 + (8 * (liveG l).length + 63) / 64 * 64 + 256 * (liveV l).length + 5248
  let b9 := b.drop before9
  let r9 := 64 + 256 * field b9 0 4
  let b10 := b9.drop r9
  let r10 := (128 + 72 * field b10 124 2 + 1024 * field b10 126 1 + 63) / 64 * 64
  let r11 := 221184 + 512 * field (b10.drop r10) 212995 1
  [r1, 64, 256, 256, 2048, (8 * (liveG l).length + 63) / 64 * 64, 256 * (liveV l).length, 5248, r9, r10, r11, 66048]

/-- A body cut into its regions; the rest stands last. -/
def cutBody : List Nat → List Byte → List (List Byte)
  | [], b => [b]
  | n :: ns, b => b.take n :: cutBody ns (b.drop n)

/-- The liveness entry that governs a frame: that of LIVEIDX in the table at the frame's LRTBASE (R329). -/
def frameLive (st : State) (c : Nat) (h : List Byte) (lrt : Word) : Except Nat Live × State :=
  let old := (coreOf st c).csr
  let st := modCore st c fun k => { k with csr := { old with lrtbase := lrt } }
  let (r, st) := liveEntry st c (field h 56 4)
  (r, modCore st c fun k => { k with csr := old })

/-- Regions 1 to 12 of a frame loaded into a core. -/
def loadRegions (k : Core) (h : List Byte) (l : Live) (rs : List (List Byte)) : Core :=
  let r := fun (i : Nat) => rs.getD (i - 1) []
  let k := load3 (load2 (load1 k (field h 53 1) (r 1)) (r 2)) (r 3)
  let k := load8 (load67 (load5 (load4 k (r 4)) (r 5)) l (r 6) (r 7)) (r 8)
  let k := load10 (load9 k (r 9)) (r 10)
  let mx := load11 k.mx k.fl (r 11)
  { k with mx := mx, ss := { load12 k.ss (r 12) with drains := queuedDrains mx }, enmask := BitVec.ofNat 8 (field h 52 1)
           fl := flFrom k.fl (r 11)
           csr := { k.csr with xstat := wordAt h 8 &&& xstatMask, xpc := wordAt h 16, xcause := wordAt h 24 &&& xcauseMask
                               xaddr := wordAt h 32 }
           flight := [], issue := none, held := none }

/-- The reserved bytes of regions 2 to 12: region, first byte and number; what pads a region to a line is reserved to its end. The
control block of region 11 stands at 212,992 (R331, and the layouts of log 21). -/
def frameGaps (n6 n7 cards n10 : Nat) : List (Nat × Nat × Nat) :=
  [(2, 2, 6), (2, 44, 20), (3, 184, 72), (4, 194, 62), (6, 8 * n6, 64), (7, 256 * n7, 64), (8, 5240, 8), (9, 4, 4), (9, 16, 48),
   (10, 118, 2), (10, 127, 1), (10, n10, 64), (11, 213018, 38), (11, 218817, 63), (11, 219392, 1792)]
    ++ ((List.range cards).map fun i => (10, 132 + 72 * i, 4))
    ++ (List.range 16).flatMap fun i => [(12, 32 * i + 14, 2), (12, 32 * i + 28, 4)]

/-- Whether a reserved byte of the header or of a region is set, or a reserved bit of region 2's first two bytes. -/
def frameReserved (h : List Byte) (k : Core) (l : Live) (rs : List (List Byte)) : Bool :=
  let r := fun (i : Nat) => rs.getD (i - 1) []
  let n10 := 128 + 72 * field (r 10) 124 2 + 1024 * field (r 10) 126 1
  !headerReserved h || region1 k != r 1 || decide (4 ≤ field (r 2) 0 1) || decide (64 ≤ field (r 2) 1 1) ||
    (frameGaps (liveG l).length (liveV l).length (field (r 10) 124 2) n10).any fun x => !allZero (((r x.1).drop x.2.1).take x.2.2)

/-- What a restore finds. -/
inductive Restored where
  /-- The frame is loaded. -/
  | ok
  /-- The core had ended its launch. -/
  | ended
  /-- FRMERR with a detail at the frame's address. -/
  | frmerr (detail va : Nat)
  /-- SSQERR at a row address. -/
  | ssqerr (row : Nat)
  deriving DecidableEq, Repr

/-- The header's checks (R333). -/
def headerFault (k : Core) (kind : Nat) (h : List Byte) : Option Nat :=
  if field h 3 1 % 2 = 0 then some 0
  else if field h 0 2 ≠ 1 then some 1
  else if field h 2 1 ≠ kind then some 2
  else if wordAt h 40 ≠ k.csr.phaseid then some 3
  else none

/-- A RESTORE of core `c` from its frame (R333); an access that fails counts as a frame that is not there (detail 0). -/
def restoreFrame (st : State) (c kind : Nat) : Restored × State :=
  let k := coreOf st c
  let va := frameVa k c
  match frameRead st c va 64 with
  | (.error _, st) => (.frmerr 0 va, st)
  | (.ok h, st) =>
    match headerFault k kind h with
    | some d => (.frmerr d va, st)
    | none =>
      match frameRead st c (va + 64) (field h 4 4 - 64) with
      | (.error _, st) => (.frmerr 0 va, st)
      | (.ok b, st) =>
          if crc32c b ≠ field h 48 4 then (.frmerr 4 va, st)
          else if bit (field h 3 1) 1 then (if headerReserved h then .ended else .frmerr 5 va, st)
          else
            let r1 := (272 * field h 53 1 + 63) / 64 * 64
            match frameLive st c h (wordAt (b.drop (r1 + 64)) 152) with
            | (.error _, st) => (.frmerr 0 va, st)
            | (.ok l, st) =>
              let rs := cutBody (regionLens b (field h 53 1) l) b
              let k := loadRegions (coreOf st c) h l rs
              if frameReserved h k l rs then (.frmerr 5 va, st)
              else if kind = 1 then (.ok, loadCards (setCore st c k) c (rs.getD 9 []))
              else
                let rest := rs.getD 12 []
                let n13 := (rowsOf k.ss).foldl (fun a x => a + (64 + 6 * x.2.1.n + 63) / 64 * 64) 0
                match load13 (rowsOf k.ss) { k.ss with elems := [] } rest with
                | .error row =>
                  let sid := sidOf row
                  let s := { k.ss with elems := [] }
                  (.ssqerr row, setCore st c (ssEvent { k with ss := match descOf s sid with
                    | some d => clearRow s d sid (rowOf row)
                    | none => s } 4 sid))
                | .ok s =>
                  let st := setCore st c { k with ss := s, views := { k.views with swz := bytesTab 0 (rest.drop n13)
                                                                                   linDirty := [], swzDirty := [], linOwn := [] } }
                  let st := loadCards st c (rs.getD 9 [])
                  (.ok, { st with mem := memBlit st.mem (windowBase c) ((rest.drop n13).take scratchBytes) })

/-- How many entries of its schedule a core's frame has come to: to its cursor, or to the end of an ended launch; none when the
frame cannot be read. -/
def frameReached (st : State) (c : Nat) : Nat :=
  let va := frameVa (coreOf st c) c
  match (frameRead st c va 64).1 with
  | .ok h =>
    if bit (field h 3 1) 1 then 2 ^ 32
    else
      match (frameRead st c (va + 64 + (272 * field h 53 1 + 63) / 64 * 64 + 28) 4).1 with
      | .ok b => leNat b + 1
      | .error _ => 0
  | .error _ => 0

/-- The cards and the bank that a frame of core `c` carries: region 10 as it stands in memory. -/
def frameRegion10 (st : State) (c : Nat) : List Byte :=
  let k := coreOf st c
  let va := frameVa k c
  match frameRead st c va 64 with
  | (.ok h, st) =>
    match frameRead st c (va + 64) (field h 4 4 - 64) with
    | (.ok b, st) =>
      match frameLive st c h (wordAt (b.drop ((272 * field h 53 1 + 63) / 64 * 64 + 64)) 152) with
      | (.ok l, _) => (cutBody (regionLens b (field h 53 1) l) b).getD 9 []
      | _ => []
    | _ => []
  | _ => []

end Sys2Proof.Machine
end

