-- ==== Sys2Proof/Machine/Records.lean ====
section
/-! DEFINITION. The Postmaster's records in memory (R285 to R289, R302, R336): their fields, their checks, and the launches
that they describe. -/

namespace Sys2Proof.Machine

/-- A field of a record at physical address `a`. -/
def fld (st : State) (a off n : Nat) : Nat := memNat st.mem (a + off) n

/-- Whether bytes of a record are zero. -/
def fldZero (st : State) (a off n : Nat) : Bool := fld st a off n == 0

/-- A counter of a record becomes `v`, as an 8-byte write at system scope (R290). -/
def putCounter (st : State) (a off v : Nat) : State := sysStore st (a + off) (leBytes 8 v)

/-- A counter of a record advances by one. -/
def addCounter (st : State) (a off : Nat) : State := putCounter st a off (fld st a off 8 + 1)

/-! ### Context descriptor, queue record, queue entry (R285 to R287) -/

/-- The checks of a context descriptor. -/
def ctxOk (st : State) (a : Nat) : Bool :=
  a % 64 == 0 && fld st a 0 8 % 65536 == 0 && decide (fld st a 10 2 < 1024) && fldZero st a 12 4 && fldZero st a 72 56

/-- The checks of a queue record. -/
def queueRecOk (st : State) (a : Nat) : Bool :=
  a % 64 == 0 && fld st a 0 8 % 64 == 0 && decide (1 ≤ fld st a 16 1) && decide (fld st a 16 1 ≤ 12)
    && decide (fld st a 17 1 < 16) && decide (fld st a 18 1 < 4) && fldZero st a 19 5 && fldZero st a 40 24

/-- The context of a queue record. -/
def recCtx (st : State) (a : Nat) : Nat := fld st a 8 8

/-- The number of entries of a queue's ring. -/
def ringSize (st : State) (a : Nat) : Nat := 2 ^ (fld st a 16 1 % 16)

/-- The address of queue entry `h` (R287). -/
def entryAt (st : State) (a h : Nat) : Nat := fld st a 0 8 + 64 * (h % ringSize st a)

/-- The checks of a queue entry. -/
def entryOk (st : State) (e : Nat) : Bool :=
  (fld st e 0 1 == 1 && fldZero st e 22 2 || fld st e 0 1 == 2) && fldZero st e 1 7 && fldZero st e 32 32

/-- The result of an entry, with its done bit (R287). -/
def putResult (st : State) (e res : Nat) : State := putCounter st e 24 (256 + res)

/-! ### Graph records (R288) -/

/-- Phases of a graph. -/
def graphNph (st : State) (g : Nat) : Nat := fld st g 0 2

/-- The marked cores. -/
def graphCores (st : State) (g : Nat) : List Nat := let m := fld st g 32 96; (List.range numCores).filter m.testBit

/-- The phase entry. -/
def phaseEntry (g p : Nat) : Nat := g + 128 + 16 * p

/-- The launch records of a phase. -/
def phaseLaunches (st : State) (g p : Nat) : List Nat :=
  (List.range (fld st (phaseEntry g p) 8 2)).map fun j => fld st (phaseEntry g p) 0 8 + 256 * j

/-! ### Launch records (R289) -/

/-- NBUN. -/
def lrNbun (st : State) (l : Nat) : Nat := fld st l 8 4
/-- FLAGS. -/
def lrFlags (st : State) (l : Nat) : Nat := fld st l 12 2
/-- NUNIT. -/
def lrNunit (st : State) (l : Nat) : Nat := fld st l 72 4

/-- The grid's cores in directory order: die, row, column. -/
def lrCores (st : State) (l : Nat) : List Nat :=
  let b := fun (i : Nat) => fld st l (48 + i) 1
  (List.range 4).flatMap fun d =>
    if (b 4).testBit d then
      (List.range (b 3)).flatMap fun r => (List.range (b 2)).map fun c => 192 * d + 16 * (b 1 + r) + b 0 + c
    else []

/-- The grid lies on the die's rows and columns. -/
def lrGridOk (st : State) (l : Nat) : Bool :=
  let b := fun (i : Nat) => fld st l (48 + i) 1
  decide (1 ≤ b 2) && decide (1 ≤ b 3) && decide (b 0 + b 2 ≤ 16) && decide (b 1 + b 3 ≤ 12) && decide (1 ≤ b 4) && decide (b 4 < 16)

/-- The schedule table of the core at position `i`: address and entry count. -/
def lrTable (st : State) (l i : Nat) : Nat × Nat :=
  let s := fld st l 40 8
  (s + fld st s (8 * i) 4, fld st s (8 * i + 4) 4)

/-- The scratchpad image of the core at position `i`: address and length. -/
def lrImage (st : State) (l i : Nat) : Nat × Nat :=
  let s := fld st l 104 8
  (fld st s (16 * i) 8, fld st s (16 * i + 8) 8)

/-- A schedule entry (R302). -/
def schedAt (st : State) (a : Nat) : SchedEntry :=
  { tidx := fld st a 0 4, tx := BitVec.ofNat 24 (fld st a 4 3), ty := BitVec.ofNat 24 (fld st a 7 3)
    tz := BitVec.ofNat 24 (fld st a 10 3), entry := fld st a 13 2 }

/-- The schedule of the core at position `i`; a table longer than the launch has units is cut, and fails its check. -/
def lrSched (st : State) (l i : Nat) : List SchedEntry :=
  let (a, n) := lrTable st l i
  (List.range (min n (lrNunit st l + 1))).map fun k => schedAt st (a + 16 * k)

/-- Whether the reserved bits of a core's schedule table are zero. -/
def schedReserved (st : State) (l i : Nat) : Bool :=
  let (a, n) := lrTable st l i
  (List.range (min n (lrNunit st l + 1))).all fun k => decide (fld st a (16 * k + 13) 2 < 2 ^ 14) && fldZero st a (16 * k + 15) 1

/-- The checks of a launch record on its own fields, and that the graph marks its cores (R288, R289). -/
def launchOk (st : State) (marked : List Nat) (l : Nat) : Bool :=
  l % 64 == 0 && decide (1 ≤ lrNbun st l) && decide (lrNbun st l ≤ 9898) && decide (lrFlags st l < 32) && fldZero st l 53 3
    && decide (1 ≤ lrNunit st l) && decide (lrNunit st l ≤ 2 ^ 24) && decide (fld st l 76 2 ≤ 16) && fldZero st l 78 2
    && fldZero st l 120 8 && lrGridOk st l && (lrCores st l).all marked.contains

/-- The checks of a bind on a launch's tables: reserved bits and image lengths. -/
def tablesOk (st : State) (l : Nat) : Bool :=
  (List.range (lrCores st l).length).all fun i => schedReserved st l i && decide ((lrImage st l i).2 ≤ scratchBytes)

/-- Strictly ascending. -/
def ascending : List Nat → Bool
  | a :: b :: t => decide (a < b) && ascending (b :: t)
  | _ => true

/-- The schedule check of R302: every tile index once, ascending on each core, entry bundles within the code. -/
def schedOk (st : State) (l : Nat) : Bool :=
  let ts := (List.range (lrCores st l).length).map (lrSched st l)
  let ids := ts.map fun t => t.map (·.tidx)
  let all := ids.flatten
  ids.all ascending && all.length == lrNunit st l && (all.foldl (fun t x => tset false t x true) []).length == lrNunit st l
    && all.all (fun x => decide (x < lrNunit st l)) && ts.all fun t => t.all fun e => decide (e.entry < lrNbun st l)

/-- TIMED. -/
def lrTimed (st : State) (l : Nat) : Bool := (lrFlags st l).testBit 0
/-- FBANK. -/
def lrFbank (st : State) (l : Nat) : Bool := (lrFlags st l).testBit 4

/-- The checks of a graph record with its launch records (R288): no core twice in a phase, all marked. -/
def graphOk (st : State) (g : Nat) : Bool :=
  let n := graphNph st g
  let marked := graphCores st g
  decide (1 ≤ n) && decide (n ≤ 256) && fldZero st g 2 6 && fldZero st g 16 16 && (List.range n).all fun p =>
    let e := phaseEntry g p
    let nl := fld st e 8 2
    decide (1 ≤ nl) && decide (nl ≤ 64) && fldZero st e 10 6 && (phaseLaunches st g p).all (launchOk st marked) &&
      (let cs := (phaseLaunches st g p).flatMap (lrCores st)
       (cs.foldl (fun t c => tset false t c true) []).length == cs.length)

/-! ### The suspension record (R336) -/

/-- The virtual address of the suspension record. -/
def suspVa (savebase : Nat) : Nat := savebase + 768 * 2 ^ 23

/-- The window of a launch as a suspension record holds it. -/
def windowBytes (l : LaunchRun) : List Byte :=
  let rep := fun (i : Nat) => tget none l.rep (l.base + i)
  let bitsOf := (List.range 256).foldl (fun a i => if (rep i).isSome then a + 2 ^ i else a) 0
  leBytes 4 l.base ++ leBytes 4 0 ++ leBytes 32 bitsOf ++ ((List.range 256).flatMap fun i => leBytes 2 ((rep i).getD 0).toNat)
    ++ List.replicate 24 0

/-- The bytes of a suspension record; at a phase boundary the windows are empty. -/
def suspBytes (st : State) (g : GraphRun) (bnd : Bool) : List Byte :=
  let nl := if bnd then (phaseLaunches st g.graph g.phase).length else g.launches.length
  leBytes 2 1 ++ leBytes 2 g.phase ++ leBytes 2 nl ++ leBytes 1 (b2n bnd) ++ [0] ++ leBytes 8 g.graph ++ leBytes 8 g.gseq.toNat
    ++ leBytes 8 0 ++ leBytes 96 (g.cores.foldl (fun a c => a + 2 ^ c) 0)
    ++ (if bnd then List.replicate (576 * nl) 0 else g.launches.flatMap windowBytes)

/-- The checks of a suspension record's fixed part. -/
def suspOk (st : State) (s : Nat) : Bool :=
  fld st s 0 2 == 1 && decide (fld st s 6 1 < 2) && fldZero st s 7 1 && fldZero st s 24 8
    && decide (fld st s 2 2 < graphNph st (fld st s 8 8))

/-- A launch with the window that bytes of a suspension record give. -/
def withWindow (l : LaunchRun) (b : List Byte) : LaunchRun :=
  let base := field b 0 4
  let rep := field b 8 32
  { l with base := base
           rep := (List.range 256).foldl (fun t i =>
             if rep.testBit i then tset none t (base + i) (some (BitVec.ofNat 16 (field b (40 + 2 * i) 2))) else t) [] }

end Sys2Proof.Machine
end

