-- ==== Sys2Proof/Machine/Bind.lean ====
section
/-! DEFINITION. Binding a phase (R7, R302, R305, R306, R336): launches from their records, cores with their code, image and
state, frames restored, banks taken, the start tick agreed; and the release of a phase. -/

namespace Sys2Proof.Machine

/-! ### A launch (R289, R303) -/

/-- The launch of a record, nothing reported. DESIGN CHOICE (log 25): its counters start at 0 and overwrite UDONE, UFAIL and UCANC, and
nothing resets what an earlier run left there or in PHDONE before (R290). -/
def launchFrom (st : State) (l : Nat) : LaunchRun :=
  { recAddr := l, launchid := BitVec.ofNat 64 (fld st l 16 8), flags := BitVec.ofNat 16 (lrFlags st l), nunit := lrNunit st l,
    cores := lrCores st l, base := 0, rep := [], udone := 0, ufail := 0, ucanc := 0, stata := fld st l 56 8, bal := fld st l 64 8 }

/-- The launch of a record with the counters that it holds. -/
def launchCounted (st : State) (l : Nat) : LaunchRun :=
  { launchFrom st l with udone := fld st l 80 8, ufail := fld st l 88 8, ucanc := fld st l 96 8 }

/-- The cancelled units of a launch record. -/
def cancelsOf (st : State) (l : Nat) : List Nat := (st.pm.cancels.filter fun x => x.1 == l).map (·.2)

/-- The units that a launch starts with as reported: those cancelled before (R291, R299). -/
def withCancels (st : State) (l : LaunchRun) : LaunchRun :=
  { l with rep := ((cancelsOf st l.recAddr).filter (l.base ≤ ·)).foldl (fun t i => tset none t i (some 0x100)) l.rep }

/-- The cores of a graph's current phase. -/
def phaseCores (g : GraphRun) : List Nat := g.launches.flatMap (·.cores)

/-! ### Code store and scratchpad (R305 steps 1 and 2) -/

/-- The code store with the bundles of a launch; the protected partition stays (R14). -/
def fillCode (st : State) (l : Nat) (old : Tab Bundle) : Tab Bundle :=
  let n := lrNbun st l
  tsplice old 0 n ((piecesOf 24 n (memSlice st.mem (fld st l 0 8) (24 * n))).zipIdx.filterMap fun x =>
    let w := BitVec.ofNat 192 (leNat x.1)
    if w = 0 then none else some (x.2, w))

/-- The scratchpad image of the core at position `i` of a launch, zeros after it. -/
def writeImage (st : State) (l i c : Nat) : State :=
  let (a, n) := lrImage st l i
  { st with mem := tsplice st.mem (windowBase c) scratchBytes (bytesTab (windowBase c) (memSlice st.mem a n)) }

/-! ### Courier queues (R222, R305 step 5; log 15) -/

/-- The address of the record of queue `q` of core `c` (log 15). -/
def queueRec (c qrec q : Nat) : Nat := qrec + 512 * c + 64 * q

/-- Courier queue `q` of core `c` as its record holds it. -/
def loadQueue (st : State) (c qrec q : Nat) : Queue :=
  match (frameRead st c (queueRec c qrec q) 64).1 with
  | .error _ => Queue.reset
  | .ok b => queueFrom st c (queueRec c qrec q) b (queueOf (coreOf st c) q)

/-- All eight queues; one whose record has a reserved bit set halts at once (R5; log 15). -/
def loadQueues (st : State) (c qrec : Nat) : State :=
  let qs := (List.range 8).map fun q => (q, loadQueue st c qrec q)
  let bad := (List.range 8).filter fun q => match (frameRead st c (queueRec c qrec q) 64).1 with
    | .ok b => queueBad b
    | .error _ => false
  let st := modCore st c fun k => { k with cp := { k.cp with
    queues := qs.foldl (fun t x => tset Queue.reset t x.1 x.2) []
    landed := k.cp.landed.filter fun x => qs.any fun y => y.1 == x.1 && y.2.cmds.any (·.id == x.2) } }
  bad.foldl (fun st q => haltQueue st c q (queueRec c qrec q)) st

/-! ### A core (R7, R305) -/

/-- DEVCTL from FLAGS and ALNOVR (R289, R305 step 4); without OPENT every launch runs PADDED (R403). -/
def devctlOf (st : State) (l : Nat) : Word :=
  let f := lrFlags st l
  let ovr := if fld st l 14 2 = 0 then 0x100 else fld st l 14 2
  BitVec.ofNat 64 (ovr * 2 ^ 16 + b2n (f.testBit 2) * 8 + b2n (f.testBit 1) * 4 + b2n (!f.testBit 3 || !feature st 16))

/-- The control registers that a bind loads from the records: identity and the four context values (R305 step 4, R336). -/
def csrBind (st : State) (r : Csrs) (ctx l : Nat) (phaseid : Word) : Csrs :=
  { r with launchid := BitVec.ofNat 64 (fld st l 16 8), phaseid := phaseid, jobid := BitVec.ofNat 64 (fld st ctx 16 8)
           asid := BitVec.ofNat 16 (fld st ctx 8 2), keyid := BitVec.ofNat 10 (fld st ctx 10 2)
           savebase := BitVec.ofNat 64 (fld st ctx 32 8), savelim := BitVec.ofNat 64 (fld st ctx 40 8) }

/-- The registers of R7 at launch start, with what a launch loads beside them (R305 steps 3 and 4). -/
def csrStart (st : State) (r : Csrs) (ctx l : Nat) (phaseid : Word) : Csrs :=
  { csrBind st r ctx l phaseid with
    grb := 0, vrb := 0, prb := 0, trip := 0, stgw := 0, vstat := 0, mxstat := 0, ssstat := 0, wpb := [], wpm := []
    seed := BitVec.ofNat 64 (fld st ctx 48 8), lrtbase := BitVec.ofNat 64 (fld st l 32 8), devctl := devctlOf st l
    xstat := xWithLvl r.xstat .t &&& ~~~0xFF }

/-- A core at the start of a launch: the state of R7, the code and the schedule; the S bank, the debug registers and the
tick counts stay (R324). -/
def startCore (st : State) (q j c i : Nat) (ctx l : Nat) (phaseid : Word) : Core :=
  let k := coreOf st c
  let sched := lrSched st l i
  let x := { Core.reset with
    files := { Files.reset with g := tset 0 [] 1 (BitVec.ofNat 64 (fld st l 24 8)) }
    csr := csrStart st k.csr ctx l phaseid
    sbank := k.sbank, code := fillCode st l k.code, stubNew := k.stubNew, now := k.now, freeze := k.freeze, dbg := k.dbg,
    launch := some (q, j), run := .ready, sched := sched, cancelled := cancelsOf st l, resident := k.resident }
  takeEntry x ((firstEntry x).getD 0)

/-- The swizzled view of a core starts as its image. -/
def startViews (st : State) (c : Nat) : State :=
  modCore st c fun k => { k with views := { Views.reset with
    swz := (tslice st.mem (windowBase c) scratchBytes).map fun x => (x.1 - windowBase c, x.2) } }

/-- The preloads of a launch record start for a core (R279, R305 step 7). -/
def startPreloads (st : State) (c ctx l : Nat) : State :=
  (List.range 8).foldl (fun st r => startPreload st c (coreOf st c).csr.asid (fld st ctx 0 8) (fld st l (128 + 16 * r) 8)
    (fld st l (136 + 16 * r) 8)) st

/-- R305 for one core: code, image, state, queues, preloads. -/
def placeCore (st : State) (q j i c ctx l : Nat) (phaseid : Word) : State :=
  let st := setCore st c (startCore st q j c i ctx l phaseid)
  let st := startViews (writeImage st l i c) c
  startPreloads (loadQueues st c (fld st ctx 24 8)) c ctx l

/-- The cores of a launch with their positions. -/
def coresAt (l : LaunchRun) : List (Nat × Nat) := l.cores.zipIdx

/-- The dies of a launch. -/
def launchDies (l : LaunchRun) : List Nat := (l.cores.map dieIx).eraseDups

/-! ### Banks and pigeonholes (R251, R375) -/

/-- Free banks of a die. -/
def freeBanks (st : State) (d : Nat) : List Nat :=
  (List.range 8).filter fun b => (tget Bank.free (dieOf st d).banks b).holder.isNone

/-- A launch takes a bank on each of its dies and loads its routines (R251). -/
def takeBanks (st : State) (q j : Nat) (l : LaunchRun) : State :=
  if !lrFbank st l.recAddr then st
  else
    let n := fld st l.recAddr 76 2
    let images := piecesOf 64 n (memSlice st.mem (fld st l.recAddr 112 8) (64 * n))
    (launchDies l).foldl (fun st d =>
      match freeBanks st d with
      | b :: _ => modBank st d b fun _ => images.zipIdx.foldl (fun x im => loadSlot x im.2 im.1) { holder := some (q, j), slots := [] }
      | [] => st) st

/-- The banks of a slot's launches are released (R251). -/
def dropBanks (st : State) (q : Nat) : State :=
  { st with dies := (List.range numDies).foldl (fun t d =>
      tmod Die.reset t d fun x => { x with banks := x.banks.filter fun b => !(b.2.holder.any fun h => h.1 == q) }) st.dies }

/-- The banks that a phase needs on a die. -/
def banksNeeded (st : State) (ls : List LaunchRun) (d : Nat) : Nat :=
  (ls.filter fun l => lrFbank st l.recAddr && (launchDies l).contains d).length

/-- Every position of a die's pigeonholes loses V (R375). -/
def clearPigeons (st : State) (ls : List LaunchRun) : State :=
  ((ls.flatMap launchDies).eraseDups).foldl (fun st d => modDie st d fun x => { x with pigeon := clearValid (fun _ => true) x.pigeon }) st

/-! ### Time-slicing (R300, R301) -/

/-- The remap entry of a logical core. -/
def remapOf (st : State) (c : Nat) : BitVec 16 := tget 0 (dieOf st (dieIx c)).remap (c % 192)

/-- Every logical core of a die is placed (R300). -/
def diePlaced (st : State) (d : Nat) : Bool := (List.range 192).all fun i => (tget (0 : BitVec 16) (dieOf st d).remap i).getLsbD 15

/-- Which cores of a bind are resident: of a pair that the phase uses twice the first half, beside a resident partner of
another launch none. -/
def settleResidence (st : State) (cs : List Nat) : State :=
  cs.foldl (fun st c =>
    match partnerOf st c with
    | none => modCore st c fun k => { k with resident := true }
    | some p =>
      let pk := coreOf st p
      let mine := if cs.contains p then !(remapOf st c).getLsbD 13 else pk.launch.isNone || !pk.resident
      let st := modCore st c fun k => { k with resident := mine, arriveAt := (dieOf st (dieIx c)).dtick }
      if pk.launch.isNone then modCore st p fun k => { k with resident := !mine } else st) st

/-! ### The clocks (R1, R371, R407) -/

/-- Slots whose graphs hold their core sets. -/
def holding (s : Slot) : Bool := s.state ∈ [.bound, .running, .draining]

/-- Whether a launch with FLAGS.TIMED = 1 is bound. -/
def timedBound (st : State) : Bool :=
  st.pm.slots.any fun x => holding x.2 && (x.2.graph.map fun g => g.launches.any fun l => l.flags.getLsbD 0).getD false

/-- Launches that are about to bind bring every die back into the band of R1 when one of them is TIMED and none is bound yet. -/
def setClocks (st : State) (ls : List LaunchRun) : State :=
  if (ls.any fun l => l.flags.getLsbD 0) && !timedBound st then
    (List.range numDies).foldl (fun st d => modDie st d fun x => { x with clkStep := 0 }) st
  else st

/-! ### The start tick (R305, R306) -/

/-- The start tick: at least 128 after the latest ATICK of the phase's dies, within the bound of R306 (log 8, log 16). -/
def agreeStart (st : State) (g : GraphRun) : Nat × State :=
  let ds := (phaseCores g).map fun c => (dieOf st (dieIx c)).atick
  let code := g.launches.foldl (fun a l => max a (lrNbun st l.recAddr)) 0
  let img := g.launches.foldl (fun a l => (List.range l.cores.length).foldl (fun a i => max a (lrImage st l.recAddr i).2) a) 0
  let (t, st) := draw st 128 (4192 + 900 * ((code - 1) / 2048 + (img - 1) / 65536))
  (ds.foldl max 0 + t, st)

/-- Changing the graph of a slot. -/
def modGraph (st : State) (q : Nat) (f : GraphRun → GraphRun) : State :=
  modSlot st q fun s => { s with graph := s.graph.map f }

/-- PHASEID of a phase (R290). -/
def phaseIdOf (g : GraphRun) : Word := BitVec.ofNat 64 (g.gseq.toNat * 2 ^ 16 + g.phase)

/-- The tail of a bind: residence, banks' dies, snapshot, start tick. -/
def finishBind (st : State) (q : Nat) (fresh : Bool) : State :=
  match (slotOf st q).graph with
  | none => st
  | some g =>
    let st := clearPigeons (settleResidence st (phaseCores g)) g.launches
    let (s, st) := agreeStart st g
    modGraph st q fun g =>
      if fresh then { g with start := s, snap := st.mem, snapSeq := st.wseq, resumed := false, replay := none }
      else { g with start := s, resumed := false }

/-- A PHASE BINDS from its launch records (R305): the slot's graph stands at the phase. -/
def bindFresh (st : State) (q : Nat) (g : GraphRun) : State :=
  let ls := (phaseLaunches st g.graph g.phase).map fun l => withCancels st (launchFrom st l)
  let st := setClocks st ls
  let st := modGraph st q fun g => { g with launches := ls }
  let st := ls.zipIdx.foldl (fun st x => takeBanks st q x.2 x.1) st
  let st := ls.zipIdx.foldl (fun st x =>
    (coresAt x.1).foldl (fun st y => placeCore st q x.2 y.2 y.1 g.ctx x.1.recAddr (phaseIdOf g)) st) st
  finishBind st q true

/-! ### A bind from a suspension record (R336) -/

/-- The key of what is kept of a suspended graph run: its record and its PHASEID, wherever the save area may have gone (log 21). -/
def runKey (g : GraphRun) : Nat := g.graph * 2 ^ 64 + (phaseIdOf g).toNat

/-- The key of a frame's kept part. -/
def keptKey (run c : Nat) : Nat := run * 1024 + c

/-- The coherence order as the cores of a resumed phase knew it: what others wrote in their windows meanwhile is gone, and
the views hold what they held (log 21). -/
def resumeLog (st : State) (kept : KeptRun) (cs : List Nat) : List WriteRec :=
  let inWin := fun (r : WriteRec) => decide (kept.seq ≤ r.seq) && (match target r.addr with
    | .scratch o _ => cs.contains o
    | _ => false)
  (st.wlog.filter fun r => !inWin r).map fun r =>
    let back := match kept.log.find? fun o => o.seq == r.seq with
      | some o => o.seen.filter fun x => cs.contains x.1
      | none => []
    { r with seen := (r.seen.filter fun x => !cs.contains x.1) ++ back }

/-- The windows of a resumed phase as they stood; the frames then write those of the cores that had not ended. -/
def resumeWindows (st : State) (kept : KeptRun) (cs : List Nat) : Memory :=
  cs.foldl (fun m c => tsplice m (windowBase c) scratchBytes (tcanon 0 0 (tslice kept.wins (windowBase c) scratchBytes))) st.mem

/-- Whether the current unit of a core has been reported. -/
def wasReported (l : LaunchRun) (k : Core) : Bool :=
  match k.sched[k.cursor]? with
  | some e => decide (e.tidx < l.base) || (tget none l.rep e.tidx).isSome
  | none => false

/-- The identity of the entry that a restored cursor names (R336). -/
def takeCursor (k : Core) : Core :=
  match k.sched[k.cursor]? with
  | some e => { k with tx := e.tx, ty := e.ty, tz := e.tz, csr := { k.csr with tileidx := BitVec.ofNat 32 e.tidx } }
  | none => k

/-- A core before its frame is loaded: what the frame does not name as it was kept, the records' values, the code. -/
def resumeCore (st : State) (q j c i ctx l run : Nat) (phaseid : Word) : Core :=
  let k := coreOf st c
  let base := (tget none st.pm.frames (keptKey run c)).getD (startCore st q j c i ctx l phaseid)
  { base with
    csr := csrBind st base.csr ctx l phaseid, sbank := k.sbank, code := fillCode st l k.code, stubNew := k.stubNew,
    freeze := k.freeze, dbg := k.dbg, launch := some (q, j), run := .ready, sched := lrSched st l i,
    cancelled := cancelsOf st l, resident := true, utlb := [], ctlb := [], preloads := [], xlFault := [], stopReq := false, stopNow := false,
    endSave := .unsaved }

/-- The frame of one core is restored, or its phase is to be replayed (R333, R336). -/
def resumeFrame (st : State) (q j i c ctx run : Nat) (l : LaunchRun) (phaseid : Word) : State :=
  let st := setCore st c (resumeCore st q j c i ctx l.recAddr run phaseid)
  match restoreFrame st c 2 with
  | (.ok, st) =>
    let st := modCore st c fun k =>
      let k := { k with csr := csrBind st k.csr ctx l.recAddr phaseid }
      takeCursor { k with reported := wasReported l k, pc := k.csr.xpc.setWidth 14 }
    let k := coreOf st c
    let st := modDie st (dieIx c) fun x => { x with fq := x.fq.map (ownCard k.csr.asid k.csr.keyid c) }
    let st := if lvlOf (coreOf st c) = .s then installStubs (modCore st c fun k => reenterCore (drainStub k)) c else st
    startPreloads (loadQueues st c (fld st ctx 24 8)) c ctx l.recAddr
  | (.ended, st) =>
    startPreloads (loadQueues (modCore st c fun k => takeCursor { k with run := .ended }) c (fld st ctx 24 8)) c ctx l.recAddr
  | (.frmerr d va, st) =>
    requestReplay st c { code := 28, detail := d, xaddr := va, unit := 15, info := 0, async := false }
  | (.ssqerr row, st) =>
    requestReplay st c { code := 27, detail := 0, xaddr := row, unit := 15, info := 0, async := false }

/-- The state in which core `c` translates as a core of its launch does, so that its frame can be read (R336). -/
def frameView (st : State) (q j c ctx l : Nat) (phaseid : Word) : State :=
  modCore st c fun k => { k with launch := some (q, j), csr := csrBind st k.csr ctx l phaseid }

/-- The bank of a launch on a die is restored from the frame there that carries it (R251, R331). -/
def resumeBank (st : State) (q j : Nat) (l : LaunchRun) (ctx : Nat) (phaseid : Word) (d : Nat) : State :=
  let carried := fun (c : Nat) => bankFrom (frameRegion10 (frameView st q j c ctx l.recAddr phaseid) c)
  match freeBanks st d with
  | b :: _ =>
    modBank st d b fun _ =>
      { holder := some (q, j), slots := ((l.cores.filter fun c => dieIx c == d).findSome? carried).getD [] }
  | [] => st

/-- A PHASE BINDS from its suspension record (R336): the windows as the record that SUSP names holds them. -/
def bindResumed (st : State) (q susp : Nat) (g : GraphRun) : State :=
  let run := runKey g
  let kept := tget none st.pm.runs run
  let ls := (phaseLaunches st g.graph g.phase).map (launchCounted st)
  let cs := ls.flatMap (·.cores)
  let st := setClocks st ls
  let st := match kept with
    | some x => { st with mem := resumeWindows st x cs, wlog := resumeLog st x cs }
    | none => st
  let st := modGraph st q fun g => { g with launches := ls }
  let phaseid := phaseIdOf g
  let ls := (ls.zipIdx).map fun x => withCancels st (withWindow x.1 (memSlice st.mem (susp + 128 + 576 * x.2) 576))
  let st := modGraph st q fun g => { g with launches := ls }
  let st := ls.zipIdx.foldl (fun st x =>
    if lrFbank st x.1.recAddr then (launchDies x.1).foldl (fun st d => resumeBank st q x.2 x.1 g.ctx phaseid d) st else st) st
  let st := ls.zipIdx.foldl (fun st x =>
    (coresAt x.1).foldl (fun st y => resumeFrame st q x.2 y.2 y.1 g.ctx run x.1 phaseid) st) st
  let st := match kept with
    | some x => modGraph st q fun g => { g with
        snap := x.run.snap, snapSeq := x.run.snapSeq, replays := x.run.replays }
    | none => modGraph st q fun g => { g with snap := st.mem, snapSeq := st.wseq }
  finishBind { st with pm := { st.pm with runs := tset none st.pm.runs run none
                                          frames := cs.foldl (fun t c => tset none t (keptKey run c) none) st.pm.frames } } q false

/-! ### Release -/

/-- The cores of a slot's phase leave it: no launch, nothing running; a card of theirs is gone. -/
def releaseCores (st : State) (q : Nat) : State :=
  let mine := fun (k : Core) => k.launch.any fun x => x.1 == q
  let cs := (st.cores.filter fun x => mine x.2).map (·.1)
  let st := cs.foldl (fun st c => modCore st c fun k =>
    { k with launch := none, run := if k.run = .dead then .dead else .idle, issue := none, held := none, stopReq := false,
             stopNow := false, endSave := .unsaved, reenter := none }) st
  let st := { st with dies := (List.range numDies).foldl (fun t d => tmod Die.reset t d fun x =>
      { x with fq := x.fq.filter fun i => !cs.contains (flCore i)
               frun := x.frun.filter fun r => !cs.contains r.core }) st.dies }
  dropBanks st q

end Sys2Proof.Machine
end

