-- ==== Sys2Proof/Machine/Postmaster.lean ====
section
/-! DEFINITION. The Postmaster (R290 to R299, R303, R304, R334 to R340): slots and their commands, doorbells and scans, rounds,
binds, reports, phase ends, pre-emption, saves, cancels and replays. -/

namespace Sys2Proof.Machine

/-! ### Slots -/

/-- A command that does not fit the slot's state, or names nothing live, is counted (R292). -/
def pmErr (st : State) : State := { st with pm := { st.pm with errs := st.pm.errs + 1 } }

/-- The state number of SLOTST (R293). -/
def slotNum : SlotState → Nat
  | .unmapped => 0
  | .mapped => 1
  | .selected => 2
  | .bound => 3
  | .running => 4
  | .draining => 5
  | .suspended => 6

/-- Whether the entry at HEAD of a mapped slot is a graph's (R287); an unknown kind is no graph. -/
def headIsGraph (st : State) (s : Slot) : Bool :=
  match s.recAddr with
  | some r => fld st (entryAt st r s.head.toNat) 0 1 == 1
  | none => false

/-- Eligibility (R292). -/
def eligible (st : State) (s : Slot) : Bool :=
  match s.state with
  | .mapped => s.head != s.tail && headIsGraph st s
  | .suspended => true
  | _ => false

/-- The eligibility stamp follows the slot's state (R292). -/
def restamp (st : State) (q : Nat) : State :=
  let now := refTick st
  modSlot st q fun s => { s with stamp := if eligible st s then (if s.stamp = 0 then now + 1 else s.stamp) else 0 }

/-- A slot moves to a state. -/
def toState (st : State) (q : Nat) (x : SlotState) : State := restamp (modSlot st q fun s => { s with state := x }) q

/-- The effective priority (R296). -/
def effPrio (st : State) (s : Slot) : Nat := min 15 (s.prio.toNat + s.age.toNat / st.pm.agestep.toNat)

/-- The number of queue slots (R292). -/
def numSlots : Nat := 256

/-- The slots in a state that is not UNMAPPED. -/
def liveSlotIds (st : State) : List Nat := (st.pm.slots.filter fun x => x.2.state != .unmapped).map (·.1)

/-! ### MAP, UNMAP (R292) -/

/-- A record is mapped to a slot. -/
def mapRecord (st : State) (q r : Nat) : State :=
  let flags := fld st r 18 1
  let susp := fld st r 32 8
  let st := modSlot st q fun s =>
    { s with recAddr := some r, lastrec := some r, head := BitVec.ofNat 32 (fld st r 24 4), tail := BitVec.ofNat 32 (fld st r 28 4),
             prio := BitVec.ofNat 4 (fld st r 17 1), age := 0, susp := susp, heldPreempt := false, heldUnmap := false,
             unmapPending := false, graph := none }
  let st := if flags.testBit 1 then sysStore st (r + 18) (leBytes 1 (flags &&& 0xFD)) else st
  toState st q (if susp = 0 then .mapped else .suspended)

/-- MAP: refused before the feature lock and on a module out of service (R292, R403, R404). -/
def execMapQueue (slot : BitVec 8) (addr : BitVec 48) (st : State) : Host.Outcome State Fault Refusal :=
  if st.host.locked = false ∨ st.host.service.isSome then .next (pmErr st)
  else if (slotOf st slot.toNat).state = .unmapped then .next (mapRecord st slot.toNat addr.toNat) else .next (pmErr st)

/-- The slot leaves its queue: HEAD and TAIL go to the record, with PN, or with SUSP (R292). -/
def unmapSlot (st : State) (q : Nat) (withSusp : Bool) : State :=
  let s := slotOf st q
  let st := match s.recAddr with
    | none => st
    | some r =>
      let st := sysStore st (r + 24) (leBytes 4 s.head.toNat ++ leBytes 4 s.tail.toNat)
      if withSusp then sysStore st (r + 32) (leBytes 8 s.susp)
      else if s.head ≠ s.tail then sysStore st (r + 18) (leBytes 1 (fld st r 18 1 ||| 2)) else st
  toState (modSlot st q fun s => { s with recAddr := none, unmapPending := false, susp := 0, graph := none }) q .unmapped

/-! ### Pre-emption (R334) -/

/-- The ticks of a time in nanoseconds (log 16). -/
def nsTicks (ns : Nat) : Nat := ns * 18 / 5

/-- A core of a pre-empted slot: it stops at its next tile boundary; one that has not started and is not resident stops
where it is, and a park or a yield whose save failed is saved again (R332). -/
def askStop (k : Core) : Core :=
  let k := { k with stopReq := true }
  if k.run = .ready ∧ k.resident = false then
    { k with run := .settling, csr := { k.csr with xpc := k.pc.setWidth 64
                                                   xstat := xstatOf 0 0 false false .t .t (k.csr.xstat.toNat % 256) } }
  else if k.run = .saveFailed then { k with run := .settling }
  else k

/-- The Postmaster pre-empts a slot's cores (R334). -/
def preemptSlot (st : State) (q : Nat) (unmap : Bool) : State :=
  match (slotOf st q).graph with
  | none => st
  | some g =>
    let st := modSlot st q fun s => { s with unmapPending := s.unmapPending || unmap }
    let st := modGraph st q fun g => { g with budget := some (refTick st + nsTicks st.pm.pbudget.toNat) }
    let st := (phaseCores g).foldl (fun st c => modCore st c askStop) st
    toState st q .draining

/-- UNMAP (R292). -/
def execUnmap (slot : BitVec 8) (st : State) : Host.Outcome State Fault Refusal :=
  let q := slot.toNat
  match (slotOf st q).state with
  | .mapped => .next (unmapSlot st q false)
  | .suspended => .next (unmapSlot st q true)
  | .selected => .next (modSlot st q fun s => { s with heldUnmap := true })
  | .bound => .next (modSlot st q fun s => { s with heldUnmap := true })
  | .running => .next (preemptSlot st q true)
  | _ => .next (pmErr st)

/-- PRIO: the cached and the recorded priority; a latched one stays (R292, R297). -/
def execPrio (slot : BitVec 8) (val : BitVec 4) (st : State) : Host.Outcome State Fault Refusal :=
  let q := slot.toNat
  match (slotOf st q).state, (slotOf st q).recAddr with
  | .unmapped, _ => .next (pmErr st)
  | _, none => .next (pmErr st)
  | _, some r => .next (sysStore (modSlot st q fun s => { s with prio := val }) (r + 17) (leBytes 1 val.toNat))

/-- CMD_REJECT: a CMD with an unknown OP (R293). DESIGN CHOICE (log 25): it counts in ERRS. -/
def execCmdReject (op : BitVec 4) (st : State) : Host.Outcome State Fault Refusal :=
  .next { pmErr st with pm := { (pmErr st).pm with cmdcode := op.setWidth 8 } }

/-- PREEMPT_BUDGET_EXPIRE: every core of the slot stops before its next bundle (R334). -/
def execPreemptBudgetExpire (slot : BitVec 8) (st : State) : Host.Outcome State Fault Refusal :=
  let q := slot.toNat
  match (slotOf st q).state, (slotOf st q).graph with
  | .draining, some g =>
    if g.budget.all fun b => decide (refTick st < b) then .next st
    else .next ((phaseCores g).foldl (fun st c => modCore st c fun k => { k with stopNow := true })
      (modGraph st q fun g => { g with budget := none }))
  | _, _ => .next st

/-! ### Doorbells and the directory (R294, R295) -/

/-- A doorbell is discarded (R294). -/
def dropBell (st : State) : State := { st with pm := { st.pm with dbdrop := st.pm.dbdrop + 1 } }

/-- Whether a doorbell value fits a ring (R294). -/
def bellFits (head tail : BitVec 32) (ring : Nat) : Bool := decide ((tail - head).toNat ≤ ring)

/-- DOORBELL (R294, R295). -/
def execDoorbell (slot : BitVec 8) (tail : BitVec 32) (st : State) : Host.Outcome State Fault Refusal :=
  let q := slot.toNat
  let s := slotOf st q
  match s.state, s.recAddr, s.lastrec with
  | .unmapped, _, none => .next (dropBell st)
  | .unmapped, _, some r =>
    if bellFits (BitVec.ofNat 32 (fld st r 24 4)) tail (ringSize st r) then
      let st := sysStore st (r + 28) (leBytes 4 tail.toNat)
      .next (sysStore st (r + 18) (leBytes 1 (fld st r 18 1 ||| 2)))
    else .next (dropBell st)
  | _, some r, _ =>
    if bellFits s.head tail (ringSize st r) then .next (restamp (modSlot st q fun s => { s with tail := tail }) q)
    else .next (dropBell st)
  | _, none, _ => .next (dropBell st)

/-- One record of the directory (R295). -/
def scanRecord (st : State) (r : Nat) : State :=
  let flags := fld st r 18 1
  let unmapped := (List.range numSlots).filter fun q => (slotOf st q).state == .unmapped
  if st.host.service.isSome ∨ flags % 4 ≠ 3 ∨ (st.pm.slots.any fun x => x.2.recAddr == some r) = true then st
  else
    match unmapped.find? fun q => (slotOf st q).lastrec == some r with
    | some q => mapRecord st q r
    | none =>
      match unmapped with
      | q :: _ => report (mapRecord st q r) (.remap q)
      | [] => st

/-- DIRECTORY_SCAN (R295). -/
def execDirectoryScan (st : State) : Host.Outcome State Fault Refusal :=
  .next ((List.range st.pm.dirlen.toNat).foldl (fun st i => scanRecord st (memNat st.mem (st.pm.dirbase.toNat + 8 * i) 8)) st)

/-! ### The end of a graph (R290, R292, R299, R340) -/

/-- The launch records of the phases from `p` on count all their units as cancelled (R299). -/
def cancelRecords (st : State) (g p : Nat) : State :=
  ((List.range (graphNph st g)).filter (p ≤ ·)).foldl (fun st p =>
    (phaseLaunches st g p).foldl (fun st l => putCounter st l 96 (lrNunit st l)) st) st

/-- SUSP is cleared when a suspended graph binds or is discarded (R292, R299). -/
def clearSusp (st : State) (q : Nat) : State :=
  let s := slotOf st q
  let st := modSlot st q fun s => { s with susp := 0 }
  match s.recAddr with
  | some r => if fld st r 32 8 = 0 then st else sysStore st (r + 32) (leBytes 8 0)
  | none => st

/-- A graph ends with a result: RES, HEAD, then GDONE or GCANC; its core set is free (R292). DESIGN CHOICE (log 25): a PREEMPT or UNMAP
that is held when the graph ends before RUNNING stays held for the slot's next graph. -/
def endGraph (st : State) (q res : Nat) : State :=
  let s := slotOf st q
  match s.graph, s.recAddr with
  | some g, some r =>
    let st := releaseCores (putResult (clearSusp st q) g.entry res) q
    let st := { st with pm := { st.pm with cancels := st.pm.cancels.filter (fun x => !(phaseLaunches st g.graph g.phase).contains x.1)
                                           runs := tset none st.pm.runs (runKey g) none } }
    let st := modSlot st q fun s => { s with head := g.cut.getD (s.head + 1), graph := none, susp := 0 }
    let st := addCounter st (recCtx st r) (if res = 0 then 56 else 64)
    if s.unmapPending then unmapSlot st q false
    else toState (modSlot st q fun s => { s with stamp := 0 }) q .mapped
  | _, _ => st

/-- QUEUE_SIGNAL: a SIGNAL at HEAD stores its value at system scope and retires; an entry of another kind, or with a reserved
bit set, ends as BADREC (R287, R292). DESIGN CHOICE (log 25): such an entry counts in GCANC. -/
def execQueueSignal (slot : BitVec 8) (st : State) : Host.Outcome State Fault Refusal :=
  let q := slot.toNat
  let s := slotOf st q
  match s.state, s.recAddr with
  | .mapped, some r =>
    let e := entryAt st r s.head.toNat
    if s.head = s.tail ∨ fld st e 0 1 = 1 then .next st
    else
      let st := if queueRecOk st r && entryOk st e then putResult (sysStore st (fld st e 8 8) (leBytes 8 (fld st e 16 8))) e 0
                else addCounter (putResult st e 4) (recCtx st r) 64
      .next (restamp (modSlot st q fun s => { s with head := s.head + 1 }) q)
  | _, _ => .next st

/-! ### Selection (R296) -/

/-- The graph at HEAD of a queue. -/
def graphAtHead (st : State) (s : Slot) (r : Nat) : GraphRun :=
  let e := entryAt st r s.head.toNat
  let g := fld st e 8 8
  { graph := g, ctx := recCtx st r, entry := e, gseq := BitVec.ofNat 48 (fld st e 16 8), nph := graphNph st g, phase := 0,
    cores := graphCores st g, launches := [], snap := [], snapSeq := 0, start := 0, replays := 0, budget := none, replay := none,
    resumed := false, cancelled := false, cut := none, stuck := false }

/-- The graph that a suspension record holds (R336). -/
def graphSuspended (st : State) (s : Slot) (r : Nat) : GraphRun :=
  let x := s.susp
  let g := fld st x 8 8
  let run : GraphRun := { graphAtHead st s r with
    graph := g, gseq := BitVec.ofNat 48 (fld st x 16 8), nph := graphNph st g, phase := fld st x 2 2, cores := graphCores st g
    resumed := fld st x 6 1 % 2 == 0 }
  match tget none st.pm.runs (runKey run) with
  | some x => { run with cancelled := x.run.cancelled, cut := x.run.cut }
  | none => run

/-- The checks of a selected graph's records. -/
def selectedOk (st : State) (s : Slot) (g : GraphRun) : Bool :=
  match s.recAddr with
  | some r => queueRecOk st r && ctxOk st g.ctx && entryOk st g.entry && graphOk st g.graph && (s.susp == 0 || suspOk st s.susp)
  | none => false

/-- Whether slot `a` goes before slot `b` in a round: higher e, then the earlier stamp, then the lower number. -/
def roundBefore (st : State) (a b : Nat) : Bool :=
  let x := slotOf st a
  let y := slotOf st b
  decide (effPrio st y < effPrio st x) || (effPrio st x == effPrio st y &&
    (decide (x.stamp < y.stamp) || (x.stamp == y.stamp && decide (a < b))))

/-- A round over the eligible slots. -/
def selectRound (st : State) (el : List Nat) : State :=
  match el.foldl (fun o q => match o with
    | none => some q
    | some b => if roundBefore st q b then some q else some b) none with
  | none => st
  | some q =>
    let s := slotOf st q
    let e := effPrio st s
    let st := el.foldl (fun st x => modSlot st x fun s =>
      { s with age := if x = q then 0 else if s.age.toNat < 65535 then s.age + 1 else s.age }) st
    match s.recAddr with
    | none => st
    | some r =>
      let g := if s.state = .suspended then graphSuspended st s r else graphAtHead st s r
      let st := toState (modSlot st q fun s => { s with latched := e, graph := some g }) q .selected
      if selectedOk st s g then st else endGraph st q 4

/-- The slot that is SELECTED. -/
def selectedSlot (st : State) : Option Nat := (st.pm.slots.find? fun x => x.2.state == .selected).map (·.1)

/-- The other slots that hold a core of a set. -/
def holders (st : State) (q : Nat) (cs : List Nat) : List Nat :=
  (st.pm.slots.filter fun x => x.1 != q && holding x.2 &&
    (match x.2.graph with
     | some g => g.cores.any cs.contains
     | none => false)).map (·.1)

/-- The pre-emption test for the selected slot (R296). -/
def examine (st : State) (q : Nat) : State :=
  let s := slotOf st q
  match s.graph with
  | none => st
  | some g =>
    let run := (holders st q g.cores).filter fun x => (slotOf st x).state == .running
    if st.pm.prdelta.toNat < 16 ∧ (run.all fun x => decide ((slotOf st x).latched + st.pm.prdelta.toNat ≤ s.latched)) = true then
      run.foldl (fun st x => preemptSlot st x false) st
    else st

/-- SELECTION_ROUND: when no slot is SELECTED a round chooses one; the selected slot is tested against the running ones
(R296). -/
def execSelectionRound (st : State) : Host.Outcome State Fault Refusal :=
  let el := (st.pm.slots.filter fun x => eligible st x.2).map (·.1)
  let st := if (selectedSlot st).isNone then selectRound st el else st
  match selectedSlot st with
  | some q => .next (examine st q)
  | none => .next st

/-! ### Binding (R292, R302, R305) -/

/-- A phase comes to bind: its launch records as they stand, or the result that ends its graph. -/
def bindRefused (st : State) (g : GraphRun) : Option Nat :=
  let ls := phaseLaunches st g.graph g.phase
  let runs := ls.map (launchFrom st)
  if !(graphOk st g.graph && ls.all (tablesOk st)) then some 4
  else if (List.range numDies).any fun d => decide (8 < banksNeeded st runs d) then some 4
  else if ls.any fun l => (lrTimed st l || !feature st 21) && (lrCores st l).any fun c => (remapOf st c).getLsbD 14 then some 3
  else if ls.any fun l => !schedOk st l then some 2
  else none

/-- Whether every die has the routine banks free that phase `p` of a graph needs there; more than a die has are none to wait for
(R251). -/
def banksFit (st : State) (g : GraphRun) (p : Nat) : Bool :=
  let ls := (phaseLaunches st g.graph p).map (launchFrom st)
  (List.range numDies).all fun d => let n := banksNeeded st ls d; decide (8 < n) || decide (n ≤ (freeBanks st d).length)

/-- Whether a slot's core set is free: no other slot holds a core of it, its dies are placed, its banks are free (R251, R296,
R300). -/
def setFree (st : State) (q : Nat) (g : GraphRun) : Bool :=
  (holders st q g.cores).isEmpty && ((List.range g.nph).filter (g.phase ≤ ·)).all fun p =>
    (((phaseLaunches st g.graph p).map (launchFrom st)).flatMap launchDies).all (diePlaced st) && banksFit st g p

/-- The current phase of a slot's graph binds, or its graph ends. -/
def bindPhase (st : State) (q : Nat) : State :=
  match (slotOf st q).graph with
  | none => st
  | some g =>
    match bindRefused st g with
    | some res => endGraph st q res
    | none => if g.resumed then bindResumed st q (slotOf st q).susp g else bindFresh st q g

/-! ### The start (R305) -/

/-- A core starts: WREM counts from here; an empty schedule ends the launch (R302, R333). -/
def startOne (st : State) (c : Nat) : State :=
  let t := (dieOf st (dieIx c)).dtick
  modCore st c fun k =>
    let k := { resumeWait t k with run := .run, busyFrom := if k.busyFrom = 0 then t else k.busyFrom }
    if (firstEntry k).isNone then { k with run := .ended, endedAt := t } else k

/-- Whether a core is to start now: placed, its die's ATICK at the start tick. -/
def startsNow (st : State) (start c : Nat) : Bool :=
  let k := coreOf st c
  k.run == .ready && k.resident && decide (start ≤ (dieOf st (dieIx c)).atick)

/-- A held request is applied once the slot runs (R292). -/
def applyHeld (st : State) (q : Nat) : State :=
  let s := slotOf st q
  let st := modSlot st q fun s => { s with heldPreempt := false, heldUnmap := false }
  if s.heldUnmap then preemptSlot st q true else if s.heldPreempt then preemptSlot st q false else st

/-- LAUNCH_START: cores whose die has reached the start tick issue their first bundles, at T level; a BOUND slot then runs
(R292, R305). -/
def execLaunchStart (slot : BitVec 8) (st : State) : Host.Outcome State Fault Refusal :=
  let q := slot.toNat
  match (slotOf st q).graph with
  | none => .next st
  | some g =>
    if !holding (slotOf st q) ∨ g.replay.isSome then .next st
    else
      let cs := phaseCores g
      let st := (cs.filter (startsNow st g.start)).foldl startOne st
      let waiting := cs.any fun c => (coreOf st c).run == .ready && (coreOf st c).resident
      if (slotOf st q).state = .bound ∧ waiting = false then .next (applyHeld (toState st q .running) q) else .next st

/-! ### The reorder window (R303) -/

/-- One unit is reported outward: status array, counter, window base (R290, R303). -/
def reportOne (st : State) (q j : Nat) (l : LaunchRun) (s : BitVec 16) : State :=
  let st := if l.stata = 0 then st else sysStore st (l.stata + 2 * l.base) (leBytes 2 s.toNat)
  let l' := if s.getLsbD 8 then { l with ucanc := l.ucanc + 1 }
            else if s = 0 then { l with udone := l.udone + 1 } else { l with ufail := l.ufail + 1 }
  let st := if s.getLsbD 8 then putCounter st l.recAddr 96 l'.ucanc
            else if s = 0 then putCounter st l.recAddr 80 l'.udone else putCounter st l.recAddr 88 l'.ufail
  modLaunch st q j fun _ => { l' with base := l.base + 1, rep := tset none l.rep l.base none }

/-- Units are reported outward while the window base has a report. -/
def reportRun : Nat → State → Nat → Nat → State
  | 0, st, _, _ => st
  | n + 1, st, q, j =>
    match (slotOf st q).graph.bind fun g => g.launches[j]? with
    | none => st
    | some l =>
      match tget none l.rep l.base with
      | some s => reportRun n (reportOne st q j l s) q j
      | none => st

/-- The most launches of a phase (R288). -/
def maxLaunches : Nat := 64

/-- REORDER_WINDOW_REPORT: launch `j` of the slot's phase reports outward; a slot without such a launch has nothing to report
(R303). -/
def execReorderWindowReport (slot : BitVec 8) (j : Nat) (st : State) : Host.Outcome State Fault Refusal :=
  if maxLaunches ≤ j then .fault .noSuchAgent
  else
    match (slotOf st slot.toNat).graph.bind fun g => g.launches[j]? with
    | none => .next st
    | some l => .next (reportRun (l.rep.length + 1) st slot.toNat j)

/-! ### The phase boundary (R272, R290, R304) -/

/-- The engines of a core have done what the boundary of R272 waits for. -/
def boundaryReached (st : State) (c : Nat) : Bool :=
  let k := coreOf st c
  let d := dieOf st (dieIx c)
  k.run == .ended && ((List.range 8).all fun q => (queueOf k q).cmds.isEmpty) && !(d.fq.any fun x => flCore x == c)
    && !(d.frun.any fun r => r.core == c) && k.ss.ops.isEmpty && k.ss.eng.isEmpty && k.ss.dieQ.isEmpty && k.ss.pkgQ.isEmpty
    && k.pubs.isEmpty && k.accs.isEmpty && k.bups.isEmpty && k.copies.isEmpty

/-- A launch is complete: every unit counted, every core ended (R290). -/
def launchComplete (l : LaunchRun) : Bool := l.udone + l.ufail + l.ucanc == l.nunit

/-- Whether a slot's phase is over. -/
def phaseOver (st : State) (g : GraphRun) : Bool :=
  g.replay.isNone && !g.stuck && !g.launches.isEmpty && g.launches.all launchComplete && (phaseCores g).all (boundaryReached st)

/-- The balance records of a launch (R304). -/
def writeBalance (st : State) (p : Nat) (l : LaunchRun) : State :=
  if l.bal = 0 then st
  else (coresAt l).foldl (fun st x =>
    let k := coreOf st x.1
    let now := (dieOf st (dieIx x.1)).dtick
    sysStore st (l.bal + 32 * x.2) (leBytes 2 x.1 ++ leBytes 2 p ++ leBytes 4 0 ++ leBytes 8 (k.endedAt - k.busyFrom - k.dev)
      ++ leBytes 8 (now - k.endedAt) ++ leBytes 8 k.dev)) st

/-- Every write of a phase is published at system scope (R272). -/
def publishPhase (st : State) (g : GraphRun) : State :=
  let cs := phaseCores g
  { st with wlog := st.wlog.map fun r => if cs.contains r.core && decide (g.snapSeq ≤ r.seq) then { r with pub := some .s } else r }

/-- The suspension record of a slot is written, or the address at which that failed (R336). -/
def writeSusp (st : State) (q c : Nat) (g : GraphRun) (bnd : Bool) : Option Nat × State :=
  let va := suspVa (fld st g.ctx 32 8)
  let k := coreOf st c
  let back := fun (st : State) => modCore st c fun x => { x with launch := k.launch, csr := k.csr }
  let st := modCore st c fun k => { k with launch := some (q, 0), csr := csrBind st k.csr g.ctx 0 k.csr.phaseid }
  match frameWrite st c va (suspBytes st g bnd) with
  | (some a, st) => (some a, back st)
  | (none, st) =>
    match (satXlate st c va true).1 with
    | none => (some va, back st)
    | some (pa, _) => (none, modSlot (back st) q fun s => { s with susp := pa })

/-- The slot leaves its cores after its suspension record (R292). -/
def leaveSuspended (st : State) (q : Nat) : State :=
  let st := releaseCores st q
  let st := modSlot st q fun s => { s with graph := none, stamp := 0 }
  if (slotOf st q).unmapPending then unmapSlot st q true else toState st q .suspended

/-- A slot that drains suspends at the boundary before phase `p`, with BND; a record that cannot be written is reported, and the slot
stays DRAINING until a PREEMPT (R292, R332, R336). -/
def suspendBefore (st : State) (q : Nat) (g : GraphRun) (p : Nat) : State :=
  match g.cores with
  | [] => st
  | c :: _ =>
    match writeSusp st q c { g with phase := p } true with
    | (none, st) => leaveSuspended st q
    | (some a, st) => report (modGraph st q fun g => { g with phase := p, launches := [], stuck := true }) (.saveflt c 0 (BitVec.ofNat 64 a))

/-- A later phase comes to bind: it waits, with no launches, for the banks that it needs, and while it waits the slot can be
drained (R251, R292). -/
def bindLater (st : State) (q : Nat) (g : GraphRun) : State :=
  if (slotOf st q).state = .draining then suspendBefore st q g g.phase
  else if banksFit st g g.phase then bindPhase st q
  else st

/-- BIND: the selected slot binds once its core set is free, and a later phase that waits for banks once they are (R251, R296,
R305). -/
def execBind (slot : BitVec 8) (st : State) : Host.Outcome State Fault Refusal :=
  let q := slot.toNat
  match (slotOf st q).state, (slotOf st q).graph with
  | .selected, some g =>
    if setFree st q g then .next (clearSusp (bindPhase (toState st q .bound) q) q) else .next st
  | .running, some g => if g.launches.isEmpty then .next (bindLater st q g) else .next st
  | .draining, some g => if g.launches.isEmpty && !g.stuck then .next (bindLater st q g) else .next st
  | _, _ => .next st

/-- What follows a phase: the end of the graph, the next phase, or the suspension at the boundary. -/
def afterPhase (st : State) (q : Nat) (g : GraphRun) : State :=
  if g.cancelled then endGraph (cancelRecords st g.graph (g.phase + 1)) q 1
  else if g.nph ≤ g.phase + 1 then endGraph st q 0
  else
    let st := modGraph (releaseCores st q) q fun g => { g with phase := g.phase + 1, launches := [], replays := 0 }
    match (slotOf st q).graph with
    | some g => bindLater st q g
    | none => st

/-- PHASE_END (R272, R290): the phase's writes are published, the balance is written, PHDONE advances, and the graph goes
on. -/
def execPhaseEnd (slot : BitVec 8) (st : State) : Host.Outcome State Fault Refusal :=
  let q := slot.toNat
  match (slotOf st q).graph with
  | none => .next st
  | some g =>
    if !holding (slotOf st q) ∨ phaseOver st g = false then .next st
    else
      let st := g.launches.foldl (fun st l => writeBalance st g.phase l) (publishPhase st g)
      let st := { st with pm := { st.pm with cancels := st.pm.cancels.filter fun x => !(g.launches.map (·.recAddr)).contains x.1 } }
      .next (afterPhase (addCounter st g.graph 8) q g)

/-! ### Settling and saving (R301, R327, R332, R335) -/

/-- The accesses and results of a core have settled (R335 step 1): of a core that stops to be saved every result is delivered. -/
def settledAg (k : Core) : Bool :=
  k.accs.isEmpty && k.pubs.isEmpty && k.bups.isEmpty && k.copies.isEmpty && k.ldq.all (·.arrived) &&
    (if k.run ∈ [.parking, .settling] then k.flight.isEmpty else k.flight.all fun f => f.val.isSome)

/-- MX has finished its running command, its rows and its scales (R199). -/
def settledMx (m : Mx) : Bool := m.running.isNone && m.scales.isEmpty && m.rows.isEmpty

/-- The stream store has settled (R219). -/
def settledSs (s : Store) : Bool := s.ops.isEmpty && s.eng.isEmpty && s.dieQ.isEmpty && s.pkgQ.isEmpty

/-- A courier queue has no running command, or one of the two exceptions of R231. -/
def settledQueue (st : State) (x : Queue) : Bool :=
  match x.running, x.cmds with
  | some _, m :: _ => x.faulted || (m.op == 0x0A && flitsHeld st (cpaddTarget m.dest.toNat))
  | _, _ => true

/-- A core and its engines have settled (R335). -/
def settledCore (st : State) (c : Nat) : Bool :=
  let k := coreOf st c
  settledAg k && settledMx k.mx && settledSs k.ss && ((List.range 8).all fun q => settledQueue st (queueOf k q))
    && !((dieOf st (dieIx c)).frun.any fun r => r.core == c)

/-- An ended core has nothing left that a header could not carry (R334); its courier entries stay in their rings (R335). -/
def settledEnded (st : State) (c : Nat) : Bool :=
  settledCore st c && (coreOf st c).mx.queue.isEmpty && !((dieOf st (dieIx c)).fq.any fun x => flCore x == c)

/-- Whether an access or a barrier update of another core is in flight to the window of core `c`. -/
def inFlightTo (st : State) (c : Nat) : Bool :=
  let hits := fun (pa : Nat) => match target pa with | .scratch o _ => o == c | _ => false
  st.cores.any fun x => x.2.accs.any (fun a => a.chunks.any fun p => hits p.1) || x.2.bups.any fun b => hits b.addr

/-- Whether nothing more can reach the window of core `c`, so that a frame may hold it (log 21): in a pre-emption every
core of the slot's set has stopped and settled, the Fuller entries of those that had ended too (R251); in a yield no access of another
core is in flight to it. -/
def windowQuiet (st : State) (c : Nat) (stopping : Bool) : Bool :=
  if stopping then
    match (coreOf st c).launch with
    | none => true
    | some (q, _) =>
      match (slotOf st q).graph with
      | none => true
      | some g => (phaseCores g).all fun o =>
        !((coreOf st o).run ∈ [.ready, .run, .halted]) && (if (coreOf st o).run = .ended then settledEnded st o else settledCore st o)
  else !inFlightTo st c

/-- A failed save is reported; the core stays stopped with its state (R332). -/
def saveFails (st : State) (c : Nat) (f : Nat × Nat) : State :=
  report (modCore st c fun k => { k with run := .saveFailed }) (.saveflt c f.1 (BitVec.ofNat 64 f.2))

/-- What a suspension keeps beside the frames (log 21). -/
def keepRun (st : State) (g : GraphRun) : State :=
  let s := runKey g
  let cs := phaseCores g
  let wins := cs.foldl (fun m c => tsplice m (windowBase c) scratchBytes (tslice st.mem (windowBase c) scratchBytes)) []
  let k : KeptRun := { run := g, log := st.wlog, seq := st.wseq, wins := wins }
  { st with pm := { st.pm with
      runs := tset none st.pm.runs s (some k)
      frames := cs.foldl (fun t c => tset none t (keptKey s c) (some { coreOf st c with code := [] })) st.pm.frames } }

/-- The body of a frame from region 10 on, with the bank that the frame now carries: its offset and its bytes (R251, R331). -/
def bankedTail (st : State) (c : Nat) (h b : List Byte) (bank : Bank) : Nat × List Byte :=
  match (frameLive st c h (wordAt (b.drop ((272 * field h 53 1 + 63) / 64 * 64 + 64)) 152)).1 with
  | .error _ => (b.length, [])
  | .ok l =>
    let rs := cutBody (regionLens b (field h 53 1) l) b
    let r := rs.getD 9 []
    ((rs.take 9).foldl (fun n x => n + x.length) 0,
     padTo 64 (r.take 126 ++ [1, 0] ++ (r.drop 128).take (72 * field r 124 2) ++ bankBytes bank) ++ (rs.drop 10).flatten)

/-- A frame whose body stands in memory is written again from byte `o` of its body on, with KIND 2 (R332, R334). -/
def rewriteFrame (st : State) (c va : Nat) (h b : List Byte) (o : Nat) (more : List Byte) : SaveFail × State :=
  let body := b.take o ++ more
  let size := 64 + body.length
  let head := fun (v : Nat) => h.take 2 ++ leBytes 1 2 ++ leBytes 1 v ++ leBytes 4 size ++ (h.drop 8).take 40
    ++ leBytes 4 (crc32c body) ++ h.drop 52
  if (coreOf st c).csr.savelim.toNat < va + size then (some (1, va + size), st)
  else
    match frameWrite st c va (head 0) with
    | (some a, st) => (some (0, a), st)
    | (none, st) =>
      match frameWrite st c (va + 64 + o) more with
      | (some a, st) => (some (0, a), st)
      | (none, st) =>
        match frameWrite st c va (head 1) with
        | (some a, st) => (some (0, a), st)
        | (none, st) => (none, st)

/-- The frame of core `c` as it stands in memory with the bank that it is to carry: its header, its body, and the offset and the bytes
from which the body changes. -/
def frameAndBank (st : State) (c : Nat) : Except Nat (List Byte × List Byte × Nat × List Byte) × State :=
  let va := frameVa (coreOf st c) c
  match frameRead st c va 64 with
  | (.error a, st) => (.error a, st)
  | (.ok h, st) =>
    match frameRead st c (va + 64) (field h 4 4 - 64) with
    | (.error a, st) => (.error a, st)
    | (.ok b, st) =>
      (.ok (h, b, match bankFor st c with
        | some x => bankedTail st c h b x
        | none => (b.length, [])), st)

/-- The frame of a core saved by a yield, or before a lower core of its launch ended, takes the bank that it is to carry (R251, R331). -/
def addBank (st : State) (c : Nat) : SaveFail × State :=
  if (coreOf st c).run ≠ .saved ∨ (bankFor st c).isNone ∨ field (frameRegion10 st c) 126 1 = 1 then (none, st)
  else
    match frameAndBank st c with
    | (.error a, st) => (some (0, a), st)
    | (.ok (h, b, o, tail), st) => rewriteFrame st c (frameVa (coreOf st c) c) h b o tail

/-- The frames of a phase take the banks that they are to carry: the first core whose frame could not be written, and why. -/
def addBanks (st : State) (cs : List Nat) : Option (Nat × Nat × Nat) × State :=
  cs.foldl (fun (x : Option (Nat × Nat × Nat) × State) c =>
    if x.1.isSome then x
    else
      match addBank x.2 c with
      | (some f, s) => (some (c, f), s)
      | (none, s) => (none, s)) (none, st)

/-- Once every core of a draining slot is saved, and not every one had ended, the slot is suspended (R335). -/
def trySuspend (st : State) (q : Nat) : State :=
  match (slotOf st q).state, (slotOf st q).graph with
  | .draining, some g =>
    let cs := phaseCores g
    let done := fun (c : Nat) => (coreOf st c).run == .saved || ((coreOf st c).run == .ended && (coreOf st c).endSave == .saved)
    if cs.all done && cs.any (fun c => (coreOf st c).run == .saved) then
      match addBanks st cs, cs.head? with
      | (some (c, f), st), _ => saveFails st c f
      | (none, st), none => st
      | (none, st), some c =>
        match writeSusp st q c g false with
        | (none, st) => leaveSuspended (keepRun st g) q
        | (some a, st) => report st (.saveflt c 0 (BitVec.ofNat 64 a))
    else st
  | _, _ => st

/-- The slot of a core's launch. -/
def slotOfCore (st : State) (c : Nat) : Nat := ((coreOf st c).launch.map (·.1)).getD 0

/-- The tick in which a core that resumes after the issues of this tick can first issue: a freeze passes first (R108, R266). -/
def firstIssueTick (st : State) (c : Nat) : Nat := (dieOf st (dieIx c)).dtick + 1 + ((coreOf st c).freeze - 1)

/-- A restored core comes back: its code store is filled from its launch's code object, and its wait goes on for WREM ticks after its
first issue tick (R30, R108, R333). -/
def comeBack (st : State) (c : Nat) : State :=
  modCore st c fun k =>
    { resumeWait (firstIssueTick st c) k with code := ((launchOf st c).map fun l => fillCode st l.recAddr k.code).getD k.code }

/-- The resident half of a pair gives way to its partner, whose frame is restored or whose launch starts (R301). -/
def swapIn (st : State) (c p : Nat) : State :=
  let t := (dieOf st (dieIx c)).dtick
  let st := modCore st c fun k => { k with resident := false, arriveAt := t }
  let pk := coreOf st p
  let st := postmark (modCore st p fun k => { k with resident := true }) p pk.pc.toNat 0 20 (t - pk.arriveAt)
  if (coreOf st p).run ≠ .saved ∨ (coreOf st p).stopReq = true then st
  else
    match restoreFrame st p 2 with
    | (.ok, st) => modCore (comeBack st p) p fun k => { k with run := .run, pc := k.csr.xpc.setWidth 14 }
    | (.ended, st) => modCore st p fun k => { k with run := .ended }
    | (.frmerr d va, st) => requestReplay st p { code := 28, detail := d, xaddr := va, unit := 15, info := 0, async := false }
    | (.ssqerr row, st) => requestReplay st p { code := 27, detail := 0, xaddr := row, unit := 15, info := 0, async := false }

/-- After a save for a yield the partner comes in. -/
def afterYield (st : State) (c : Nat) : State :=
  match partnerOf st c with
  | some p => if waitsForTurn st p then swapIn st c p else st
  | none => st

/-- A parked core is converted: regions 13 and 14 follow the frame's body, region 10 takes the bank of the core's launch (R251), and
the header is written again with KIND 2 (R334). -/
def convertFrame (st : State) (c : Nat) : SaveFail × State :=
  let st := vjoinMerge st c
  match frameAndBank st c with
  | (.error a, st) => (some (0, a), st)
  | (.ok (h, b, o, tail), st) =>
    rewriteFrame st c (frameVa (coreOf st c) c) h b o (tail ++ region13 (coreOf st c).ss ++ region14 st c)

/-- The outcome of a save for a pre-emption. -/
def preemptSaved (st : State) (c : Nat) (r : SaveFail × State) : State :=
  match r with
  | (some f, s) => saveFails s c f
  | (none, s) => trySuspend (modCore s c fun k => { k with run := .saved }) (slotOfCore st c)

/-- SATCHEL_SAVE: a core that has settled, with the row that its stop has made due landed (R199), is saved: a park with KIND 1, a pre-emption or a yield with KIND 2, an ended core
with its header only, a parked core of a draining slot by conversion (R327, R332, R334, R335). -/
def execSatchelSave (c : Nat) (st : State) : Host.Outcome State Fault Refusal :=
  if numCores ≤ c then .fault .noSuchAgent
  else
    let k := coreOf st c
    let stopping := k.stopReq || k.stopNow
    match k.run with
    | .parking =>
      if !settledCore st c then .next st
      else match saveFrame (modCore st c landRow) c 1 false none with
        | (some f, s) => .next (saveFails s c f)
        | (none, s) => .next (report (modCore s c fun k => { k with run := .parked }) (.park c k.csr.xcause))
    | .settling =>
      if !settledCore st c || !windowQuiet st c stopping then .next st
      else if stopping then .next (preemptSaved st c (saveFrame (modCore st c landRow) c 2 false (bankFor st c)))
      else match saveFrame (modCore st c landRow) c 2 false none with
        | (some f, s) => .next (saveFails s c f)
        | (none, s) => .next (afterYield (modCore s c fun k => { k with run := .saved }) c)
    | .parked => if stopping && windowQuiet st c true then .next (preemptSaved st c (convertFrame st c)) else .next st
    | .ended =>
      if !stopping || k.endSave != .unsaved || !settledEnded st c then .next st
      else match saveFrame st c 2 true none with
        | (some f, s) => .next (report (modCore s c fun k => { k with endSave := .failed }) (.saveflt c f.1 (BitVec.ofNat 64 f.2)))
        | (none, s) => .next (trySuspend (modCore s c fun k => { k with endSave := .saved }) (slotOfCore st c))
    | _ => .next st

/-- A save of core `k` that failed is to start again (R332). -/
def retrySave (k : Core) : Core :=
  if k.run = .saveFailed then { k with run := .settling }
  else if k.endSave = .failed then { k with endSave := .unsaved }
  else k

/-- Whether a save of a core has failed. -/
def saveFailed (k : Core) : Bool := k.run == .saveFailed || (k.run == .ended && k.endSave == .failed)

/-- PREEMPT of a slot that drains already: the saves and the suspension record that failed are tried again (R332); where nothing
failed it fits no state. -/
def retrySaves (st : State) (q : Nat) (g : GraphRun) : State :=
  if g.stuck then suspendBefore (modGraph st q fun g => { g with stuck := false }) q g g.phase
  else
    let cs := phaseCores g
    if cs.any fun c => saveFailed (coreOf st c) then cs.foldl (fun st c => modCore st c retrySave) st
    else if !cs.isEmpty && cs.all (fun c => (coreOf st c).run == .saved || (coreOf st c).endSave == .saved) then trySuspend st q
    else pmErr st

/-- PREEMPT; on a slot that drains already it restarts what failed (R292, R332). -/
def execPreempt (slot : BitVec 8) (st : State) : Host.Outcome State Fault Refusal :=
  let q := slot.toNat
  match (slotOf st q).state, (slotOf st q).graph with
  | .selected, _ => .next (modSlot st q fun s => { s with heldPreempt := true })
  | .bound, _ => .next (modSlot st q fun s => { s with heldPreempt := true })
  | .running, _ => .next (preemptSlot st q false)
  | .draining, some g => .next (retrySaves st q g)
  | _, _ => .next (pmErr st)

/-- TIME_SLICE_YIELD: the resident half of a time-sliced pair stops for its partner (R301). -/
def execTimeSliceYield (c : Nat) (st : State) : Host.Outcome State Fault Refusal :=
  if numCores ≤ c then .fault .noSuchAgent
  else
    let k := coreOf st c
    match partnerOf st c with
    | none => .next st
    | some p =>
      if !k.resident ∨ waitsForTurn st p = false then .next st
      else if k.run = .run then
        .next (if k.issue.isNone && k.reenter.isNone && lvlOf k == .t then settleCore st c else st)
      else if k.launch.isNone ∨ k.run = .ended then .next (swapIn st c p)
      else .next st

/-! ### RESUME (R327) -/

/-- RESUME: a parked core restores its frame and re-enters as eret does; after a failed save it re-enters from its state, its deadline kept (R108, R327, R332). -/
def execResume (slot : BitVec 8) (carg : Word) (st : State) : Host.Outcome State Fault Refusal :=
  let c := carg.toNat % 1024
  let k := coreOf st c
  let again := fun (st : State) => installStubs (modCore st c fun k => { reenterCore k with run := .run }) c
  if numCores ≤ c ∨ (k.launch.any fun x => x.1 == slot.toNat) = false then .next (pmErr st)
  else
    match k.run with
    | .parked =>
      match restoreFrame st c 1 with
      | (.ok, s) => .next (again (comeBack s c))
      | (.ssqerr row, s) =>
        .next (requestReplay s c { code := 27, detail := 0, xaddr := row, unit := 15, info := 0, async := false })
      | (.frmerr d va, s) =>
        .next (requestReplay s c { code := 28, detail := d, xaddr := va, unit := 15, info := 0, async := false })
      | (.ended, s) => .next (requestReplay s c { code := 28, detail := 2, xaddr := frameVa k c, unit := 15, info := 0, async := false })
    | .saveFailed => if lvlOf k = .s then .next (again st) else .next (pmErr st)
    | _ => .next (pmErr st)

/-! ### Cancel (R299) -/

/-- The entries of launch `j` that no cursor has reached, among those that `p` picks, are cancelled; whether there were
any. -/
def cancelUnits (st : State) (q j : Nat) (l : LaunchRun) (p : Nat → Bool) : State × Bool :=
  l.cores.foldl (fun (x : State × Bool) c =>
    let k := coreOf x.1 c
    let hit := ((k.sched.zipIdx).filter fun e => decide (k.cursor < e.2) && p e.1.tidx && !k.cancelled.contains e.1.tidx).map (·.1.tidx)
    if k.run = .ended ∨ hit.isEmpty then x
    else
      let st := modCore x.1 c fun k => { k with cancelled := hit ++ k.cancelled }
      let st := { st with pm := { st.pm with cancels := hit.map (fun t => (l.recAddr, t)) ++ st.pm.cancels } }
      (hit.foldl (fun st t => reportUnit st q j t 0x100) st, true)) (st, false)

/-- As `cancelUnits` for launch `j` of a phase that has not bound: the entries behind the cursors that its frames hold, or all of
them where it has none; they bind as cancelled. -/
def cancelAhead (st : State) (q j : Nat) (g : GraphRun) (l : LaunchRun) (p : Nat → Bool) : State × Bool :=
  let hit := (coresAt l).flatMap fun x =>
    let n := if g.resumed then frameReached (frameView st q j x.1 g.ctx l.recAddr (phaseIdOf g)) x.1 else 0
    (((lrSched st l.recAddr x.2).drop n).filter fun e => p e.tidx && !(cancelsOf st l.recAddr).contains e.tidx).map (·.tidx)
  ({ st with pm := { st.pm with cancels := hit.map (fun t => (l.recAddr, t)) ++ st.pm.cancels } }, !hit.isEmpty)

/-- The launches of a slot's current phase, as they are bound or as they are to bind. -/
def launchesNow (st : State) (g : GraphRun) : List LaunchRun :=
  if g.launches.isEmpty then (phaseLaunches st g.graph g.phase).map (launchFrom st) else g.launches

/-- The launches of a slot's current phase that `p` picks are cancelled where no cursor has come; whether a launch was
picked and whether a unit was cancelled. -/
def cancelLaunches (st : State) (q : Nat) (p : LaunchRun → Bool) (u : Nat → Bool) : State × Bool × Bool :=
  match (slotOf st q).graph with
  | none => (st, false, false)
  | some g =>
    ((launchesNow st g).zipIdx).foldl (fun (x : State × Bool × Bool) l =>
      if p l.1 then
        let (s, hit) := if g.launches.isEmpty then cancelAhead x.1 q l.2 g l.1 u else cancelUnits x.1 q l.2 l.1 u
        (s, true, x.2.2 || hit)
      else x) (st, false, false)

/-- Counting a cancel that named nothing live. -/
def orErr (st : State) (hit : Bool) : State := if hit then st else pmErr st

/-- CANCEL_UNIT: a unit that a cursor has reached is not interrupted; an index that no schedule of the launches holds names nothing
(R299). -/
def execCancelUnit (slot : BitVec 8) (carg : Word) (st : State) : Host.Outcome State Fault Refusal :=
  let x := carg.toNat
  let holds := fun (l : LaunchRun) => (List.range l.cores.length).any fun i => (lrSched st l.recAddr i).any fun e => e.tidx == x % 2 ^ 24
  let (st, any, _) := cancelLaunches st slot.toNat (fun l => l.launchid.toNat % 2 ^ 40 == x / 2 ^ 24 && holds l)
    fun t => t == x % 2 ^ 24
  .next (orErr st any)

/-- CANCEL_LAUNCH (R299). -/
def execCancelLaunch (slot : BitVec 8) (carg : Word) (st : State) : Host.Outcome State Fault Refusal :=
  let (st, any, _) := cancelLaunches st slot.toNat (fun l => l.launchid == carg) fun _ => true
  .next (orErr st any)

/-- CANCEL_PHASE (R299). -/
def execCancelPhase (slot : BitVec 8) (carg : Word) (st : State) : Host.Outcome State Fault Refusal :=
  let here := ((slotOf st slot.toNat).graph.map fun g => phaseIdOf g == carg).getD false
  let (st, any, _) := cancelLaunches st slot.toNat (fun _ => here) fun _ => true
  .next (orErr st any)

/-- Every unit of a phase that has not bound is reported as cancelled: status entries with C, and UCANC (R290, R299). -/
def cancelPhase (st : State) (g p : Nat) : State :=
  (phaseLaunches st g p).foldl (fun st l =>
    let a := (launchFrom st l).stata
    let st := if a = 0 then st else sysStore st a ((List.range (lrNunit st l)).flatMap fun _ => leBytes 2 0x100)
    putCounter st l 96 (lrNunit st l)) st

/-- A graph is cancelled where its slot stands: the current phase as far as no cursor has come, and every later phase; a
suspended graph is discarded, and of a phase that has not bound every unit is cancelled (R299). DESIGN CHOICE (log 25): a fresh graph
on a SELECTED slot ends at once, without a bind or a phase boundary, and PHDONE stays. -/
def cancelGraphAt (st : State) (q : Nat) : State :=
  let s := slotOf st q
  match s.state, s.graph, s.recAddr with
  | .suspended, _, some r =>
    let g := graphSuspended st s r
    let st := modSlot st q fun s => { s with graph := some g }
    endGraph (cancelRecords st g.graph (if g.resumed then g.phase + 1 else g.phase)) q 1
  | _, some g, _ =>
    if g.launches.isEmpty && !g.resumed then endGraph (cancelRecords (cancelPhase st g.graph g.phase) g.graph (g.phase + 1)) q 1
    else
      let (st, _) := cancelLaunches st q (fun _ => true) fun _ => true
      modGraph st q fun g => { g with cancelled := true }
  | _, _, _ => st

/-- The GSEQ of the graph that a slot has in hand. -/
def slotGseq (st : State) (q : Nat) : Option Nat :=
  let s := slotOf st q
  match s.state, s.graph, s.recAddr with
  | .suspended, _, some r => some (graphSuspended st s r).gseq.toNat
  | _, some g, _ => some g.gseq.toNat
  | _, _, _ => none

/-- CANCEL_GRAPH (R299). -/
def execCancelGraph (slot : BitVec 8) (carg : Word) (st : State) : Host.Outcome State Fault Refusal :=
  if slotGseq st slot.toNat = some carg.toNat then .next (cancelGraphAt st slot.toNat) else .next (pmErr st)

/-- The graphs that stand in a slot's ring behind its first `skip` entries. -/
def ringGraphs (st : State) (s : Slot) (r skip : Nat) : Nat :=
  ((List.range (min (s.tail - s.head).toNat (ringSize st r))).filter fun i =>
    decide (skip ≤ i) && fld st (entryAt st r (s.head.toNat + i)) 0 1 == 1).length

/-- The queue of a slot is emptied behind the graph in hand: each discarded graph counts in GCANC (R299). -/
def emptyQueue (st : State) (q : Nat) : State :=
  let s := slotOf st q
  match s.recAddr with
  | none => st
  | some r =>
    let n := ringGraphs st s r (if s.graph.isSome then 1 else 0)
    let st := (List.range n).foldl (fun st _ => addCounter st (recCtx st r) 64) st
    if s.graph.isSome then modGraph st q fun g => { g with cut := some s.tail }
    else restamp (modSlot st q fun s => { s with head := s.tail }) q

/-- A queue of a cancelled job: the graph in hand is cancelled with the entries behind it gone, so that its end leaves HEAD at TAIL;
of a suspended graph the end comes first (R299). -/
def cancelQueue (st : State) (q : Nat) : State :=
  if (slotOf st q).graph.isSome then cancelGraphAt (emptyQueue st q) q else emptyQueue (cancelGraphAt st q) q

/-- CANCEL_JOB: every queue of the job, in any slot (R299). -/
def execCancelJob (_slot : BitVec 8) (carg : Word) (st : State) : Host.Outcome State Fault Refusal :=
  let qs := (liveSlotIds st).filter fun q => match (slotOf st q).recAddr with
    | some r => fld st (recCtx st r) 16 8 == carg.toNat
    | none => false
  .next (orErr (qs.foldl cancelQueue st) (!qs.isEmpty))

/-! ### Replay (R291, R339, R340) -/

/-- The cores of a slot stop before their next bundle; nothing is saved (R339 step 2). -/
def stopForReplay (st : State) (cs : List Nat) : State :=
  cs.foldl (fun st c => modCore (chargeHold st c) c fun k =>
    if k.run = .dead then k
    else { k with run := .replay, issue := none, held := none, reenter := none, ss := { k.ss with dieQ := [], pkgQ := [] } }) st

/-- What step 3 of R339 lets perform has performed. -/
def replayQuiet (st : State) (cs : List Nat) : Bool :=
  cs.all (fun c => (coreOf st c).accs.isEmpty && (coreOf st c).bups.isEmpty && (coreOf st c).copies.isEmpty) && (List.range numDies).all fun d =>
    (dieOf st d).phFlits.isEmpty && (dieOf st d).frun.all fun r => !cs.contains r.core || cardStops (coreOf st r.core) r

/-- The counters and status arrays of a phase start again (R291). -/
def resetCounters (st : State) (l : LaunchRun) : State := sysStore st (l.recAddr + 80) (List.replicate 24 0)

/-- What a failed attempt left in a core's courier rings is gone, so that the new attempt begins as the first one did (R312;
log 15): HEAD comes to TAIL, and no progress or fault stays. A core whose frame could not be restored has its records at `qrec`
all the same. -/
def emptyRings (st : State) (qrec c : Nat) : State :=
  (List.range 8).foldl (fun st q =>
    let st := modCore st c fun k => modQueue k q fun x =>
      if x.recAddr = 0 then { x with recAddr := BitVec.ofNat 64 (queueRec c qrec q) } else x
    let st := modCore (syncQueue st c q) c fun k => modQueue k q fun x =>
      { x with head := x.tail, prog := 0, faulted := false, faddr := 0, cmds := [], running := none }
    mirrorQueue (writeField st c q 17 (leBytes 1 0)) c q) st

/-- The failed attempt is gone, and the phase rebinds from its records (R339 step 4). -/
def rebind (st : State) (q : Nat) (g : GraphRun) : State :=
  let s := slotOf st q
  let st := (phaseCores g).foldl (fun st c => emptyRings st (fld st g.ctx 24 8) c) st
  let st := releaseCores st q
  let st := modSlot (g.launches.foldl resetCounters st) q fun x => { x with
    heldPreempt := x.heldPreempt || (s.state == .draining && !s.unmapPending)
    heldUnmap := x.heldUnmap || (s.state == .draining && s.unmapPending)
    unmapPending := false }
  let st := modGraph st q fun g => { g with replays := g.replays + 1, replay := none, budget := none, resumed := false }
  bindPhase (toState st q .bound) q

/-- PHASE_REPLAY (R339, R340): the phase stops, its late writes perform, and it rebinds; the fourth failure ends its graph. -/
def execPhaseReplay (slot : BitVec 8) (st : State) : Host.Outcome State Fault Refusal :=
  let q := slot.toNat
  match (slotOf st q).graph with
  | none => .next st
  | some g =>
    if g.replay.isNone ∨ !holding (slotOf st q) then .next st
    else
      let st := stopForReplay st (phaseCores g)
      if !replayQuiet st (phaseCores g) then .next st
      else if 3 ≤ g.replays then .next (endGraph st q 5)
      else .next (rebind st q g)

end Sys2Proof.Machine
end

