-- ==== Sys2Proof/Machine/Debug.lean ====
section
/-! DEFINITION. The debug core of a die (R342 to R345): harts, halts and resumes, abstract commands; and the trace unit's ring
writes and quiesce handshake (R352, R353). -/

namespace Sys2Proof.Machine

/-! ### Harts -/

/-- Whether a logical core is a hart that exists: it has a launch, and the debug feature is on (R342, R403). -/
def hartExists (st : State) (c : Nat) : Bool := feature st 20 && (coreOf st c).launch.isSome

/-- Changing the debug registers of a core. -/
def modDbg (st : State) (c : Nat) (f : Dbg → Dbg) : State := modCore st c fun k => { k with dbg := f k.dbg }

/-- Changing the debug block of a die. -/
def modDieDbg (st : State) (d : Nat) (f : DieDbg → DieDbg) : State := modDie st d fun x => { x with dbg := f x.dbg }

/-- HALTREQ: the hart halts before its next bundle (R344). -/
def execHaltreq (c : Nat) (st : State) : Host.Outcome State Fault Refusal :=
  if numCores ≤ c then .fault .noSuchAgent
  else if hartExists st c then .next (modDbg st c fun x => { x with haltreq := true }) else .next st

/-- The re-entry that DSTAT describes: DONE, and the slot that a precise watchpoint halt exempts (R345), or that the re-entry at which
the core halted exempted. -/
def dstatReenter (x : Word) (old : Option (BitVec 8 × Option Nat)) : Option (BitVec 8 × Option Nat) :=
  if x.getLsbD 19 then
    some (x.extractLsb' 24 8, if bits x.toNat 11 8 = 4 then some (bits x.toNat 22 20) else old.bind (·.2))
  else none

/-- One halted core re-enters at DPC, at level LVL, as eret does (R113, R345). -/
def resumeCoreAt (st : State) (c : Nat) : State :=
  let k := coreOf st c
  if k.run ≠ .halted then st
  else
    let x := k.dbg.dstat
    let k := { k with
      run := .run, pc := k.dbg.dpc, reenter := dstatReenter x k.reenter
      csr := { k.csr with xstat := xWithLvl k.csr.xstat (if x.getLsbD 16 then .s else .t) }
      dbg := { k.dbg with step := if x.getLsbD 17 then 1 else 0, haltAt := none, resumed := true } }
    let k := if x.getLsbD 19 = true ∨ lvlOf k = .s then k else { k with pend := none, loopIn := none, shadows := [] }
    traceRec (setCore st c k) c 11 k.pc.toNat k.pc.toNat (x.toNat % 2 ^ 16)

/-- The other halted members of a core's resume group (R342). -/
def resumeGroup (st : State) (c : Nat) : List Nat :=
  let g := (coreOf st c).dbg.rgroup
  if g = 0 then []
  else ((List.range 192).map (192 * dieIx c + ·)).filter fun o => o != c && (coreOf st o).dbg.rgroup == g

/-- RESUMEREQ (R345): the hart, and with it its resume group, re-enters. -/
def execResumereq (c : Nat) (st : State) : Host.Outcome State Fault Refusal :=
  if numCores ≤ c then .fault .noSuchAgent
  else if hartExists st c && (coreOf st c).run == .halted then
    .next ((c :: resumeGroup st c).foldl resumeCoreAt st)
  else .next st

/-- HALT_GROUP_HALT: a member of a halt group halts once its time has come, before its next bundle, frozen or not (R344). -/
def execHaltGroupHalt (c : Nat) (st : State) : Host.Outcome State Fault Refusal :=
  if numCores ≤ c then .fault .noSuchAgent
  else
    let k := coreOf st c
    match k.dbg.haltAt with
    | none => .next st
    | some t =>
      if 0 < t ∧ t ≤ (dieOf st (dieIx c)).dtick ∧ k.run = .run ∧ k.issue.isNone then
        .next (haltBetween st c 2)
      else .next st

/-! ### Access Register (R342) -/

/-- The registers that R16 marks as read-only. -/
def csrReadOnly (n : Nat) : Bool := (0x060 ≤ n && n ≤ 0x063) || (0x080 ≤ n && n ≤ 0x083)

/-- Word `i` of a vector: lanes 2i and 2i + 1. -/
def vecWord (v : Vec) (i : Nat) : Word := v.extractLsb' (64 * i) 64

/-- A vector with word `i` replaced. -/
def vecPut (v : Vec) (i : Nat) (x : Word) : Vec :=
  (v &&& ~~~((0xFFFFFFFFFFFFFFFF : Vec) <<< (64 * i))) ||| (x.setWidth 2048 <<< (64 * i))

/-- A register of the debug core's space. -/
inductive DbgReg where
  | csr (n : Nat)
  | g (n : Nat)
  | o (n : Nat)
  | m (n : Nat)
  | preds
  | v (n i : Nat)
  | w (n i : Nat)
  | sOp (i : Nat)
  | vOp (i j : Nat)
  | sRes (i : Nat)
  | vRes (i j : Nat)
  | dpc
  | dstat
  deriving DecidableEq, Repr

/-- The register that a regno names; none where the table of R342 assigns none. -/
def dbgReg (r : Nat) : Option DbgReg :=
  if r < 0x1000 then (if csrListed r then some (.csr r) else none)
  else if r < 0x1080 then some (.g (r - 0x1000))
  else if r < 0x1090 then some (.o (r - 0x1080))
  else if r < 0x1098 then some (.m (r - 0x1090))
  else if r = 0x1098 then some .preds
  else if 0x2000 ≤ r ∧ r < 0x2800 then some (.v ((r - 0x2000) / 32) (r % 32))
  else if 0x2800 ≤ r ∧ r < 0x2900 then some (.w ((r - 0x2800) / 32) (r % 32))
  else if 0x3000 ≤ r ∧ r < 0x3030 then (if portUnits.contains ((r - 0x3000) / 4) then some (.sOp (r - 0x3000)) else none)
  else if 0x3100 ≤ r ∧ r < 0x3280 then some (.vOp ((r - 0x3100) / 32) (r % 32))
  else if 0x3800 ≤ r ∧ r < 0x3812 then (if scalarRes.contains (r - 0x3800) then some (.sRes (r - 0x3800)) else none)
  else if 0x3C00 ≤ r ∧ r < 0x3CE0 then some (.vRes (vectorRes.getD ((r - 0x3C00) / 32) 0) (r % 32))
  else if r = 0xC000 then some .dpc
  else if r = 0xC001 then some .dstat
  else none

/-- Reading a register of a halted core. -/
def dbgRead (st : State) (k : Core) : DbgReg → Word
  | .csr n => csrGet st k n
  | .g n => if n = 0 then 0 else tget 0 k.files.g n
  | .o n => tget 0 k.files.o n
  | .m n => tget 0 k.files.m n
  | .preds => BitVec.ofNat 64 (predBits k.files.p)
  | .v n i => vecWord (tget 0 k.files.v n) i
  | .w n i => vecWord (tget 0 k.files.w n) i
  | .sOp i => tget 0 k.ports.sOp i
  | .vOp i j => vecWord (tget 0 k.ports.vOp i) j
  | .sRes i => tget 0 k.ports.sRes i
  | .vRes i j => vecWord (tget 0 k.ports.vRes i) j
  | .dpc => k.dbg.dpc.setWidth 64
  | .dstat => k.dbg.dstat

/-- Whether a register takes no write. -/
def dbgReadOnly : DbgReg → Bool
  | .csr n => csrReadOnly n
  | _ => false

/-- What an abstract write changes in the files that the selectors of a halted bundle read at its re-entry (R143, R345). -/
def reselect (k : Core) (f : Files → Files) : Core :=
  if k.dbg.dstat.getLsbD 19 then { k with stopSel := k.stopSel.map f } else k

/-- Writing a register of a halted core; only csrw, csrs and csrc to XPC clear the pending record (R101). -/
def dbgWrite (k : Core) (r : DbgReg) (x : Word) : Core :=
  let f := k.files
  let p := k.ports
  match r with
  | .csr n => { csrPut k n x with pend := k.pend }
  | .g n => if n = 0 then k else { k with files := { f with g := tset 0 f.g n x } }
  | .o n => { k with files := { f with o := tset 0 f.o n x } }
  | .m n => reselect { k with files := { f with m := tset 0 f.m n x } } fun s => { s with m := tset 0 s.m n x }
  | .preds => { k with files := { f with p := predFrom (x.toNat % 2 ^ 16) } }
  | .v n i => { k with files := { f with v := tset 0 f.v n (vecPut (tget 0 f.v n) i x) } }
  | .w n i =>
    reselect { k with files := { f with w := tset 0 f.w n (vecPut (tget 0 f.w n) i x) } } fun s =>
      { s with w := tset 0 s.w n (vecPut (tget 0 s.w n) i x) }
  | .sOp i => { k with ports := { p with sOp := tset 0 p.sOp i x } }
  | .vOp i j => { k with ports := { p with vOp := tset 0 p.vOp i (vecPut (tget 0 p.vOp i) j x) } }
  | .sRes i => { k with ports := { p with sRes := tset 0 p.sRes i x } }
  | .vRes i j => { k with ports := { p with vRes := tset 0 p.vRes i (vecPut (tget 0 p.vRes i) j x) } }
  | .dpc => { k with dbg := { k.dbg with dpc := x.setWidth 14 } }
  | .dstat => { k with dbg := { k.dbg with dstat := maskedWrite k.dbg.dstat x 0xFF7B0001 } }

/-- A command fails with a cmderr. -/
def cmdFails (st : State) (d e : Nat) : State := modDieDbg st d fun x => { x with cmderr := e }

/-- The transfer of an Access Register command between data and a register, and the increment of its number after it. -/
def transfer (st : State) (d c : Nat) (command : BitVec 32) (r : DbgReg) : State :=
  let write := command.getLsbD 16
  let st := if write then modCore st c fun k => dbgWrite k r (dieOf st d).dbg.data
            else modDieDbg st d fun x => { x with data := dbgRead st (coreOf st c) r }
  if command.getLsbD 19 then
    modDieDbg st d fun x => { x with command := (command &&& 0xFFFF0000) ||| ((command + 1) &&& 0xFFFF) }
  else st

/-- ACCESS_REGISTER: an abstract command of die `d` on its selected hart (R342); while the module is not active or cmderr is set commands are ignored. -/
def execAccessRegister (d : Nat) (command : BitVec 32) (st : State) : Host.Outcome State Fault Refusal :=
  if numDies ≤ d then .fault .noSuchAgent
  else
    let g := (dieOf st d).dbg
    let c := 192 * d + g.hartsel
    let x := command.toNat
    if g.dmactive = false ∨ g.cmderr ≠ 0 then .next st
    else if bits x 31 24 ≠ 0 ∨ bits x 22 20 ≠ 3 ∨ x.testBit 18 = true then .next (cmdFails st d 2)
    else if 192 ≤ g.hartsel ∨ hartExists st c = false ∨ (coreOf st c).run ≠ .halted then .next (cmdFails st d 4)
    else if x.testBit 17 = false then .next st
    else
      match dbgReg (bits x 15 0) with
      | none => .next (cmdFails st d 3)
      | some r => if dbgReadOnly r && x.testBit 16 then .next (cmdFails st d 3) else .next (transfer st d c command r)

/-! ### The trace unit (R352, R353) -/

/-- The translation root of an ASID: that of a queue's context that carries it (log 22). -/
def rootOfAsid (st : State) (asid : BitVec 16) : Option Nat :=
  (st.pm.slots.findSome? fun x => x.2.recAddr.bind fun r =>
    if fld st (recCtx st r) 8 2 = asid.toNat then some (recCtx st r) else none).map (ctxRoot st)

/-- The virtual address at which the next record of a ring is written. -/
def ringNext (g : DieDbg) (postmark : Bool) : Nat :=
  if postmark then g.pkbase.toNat + g.pkwp.toNat % g.pksize.toNat else g.trbase.toNat + g.trwp.toNat % g.trsize.toNat

/-- The physical address and key slot at which a ring writes through an entry; none when its checks fail. -/
def ringPlace (st : State) (e : TlbEntry) (va : Nat) : Option (Nat × Nat) :=
  let x := e.pte.toNat
  let pa := ptePa x + (va - e.vbase)
  if !pteW x then none
  else
    match target pa with
    | .none => none
    | .scratch _ _ => some (pa, 0)
    | .glob => if keyEmptySlot st (pteKey x) then none else some (pa, pteKey x)

/-- The physical address and key slot of a ring's page, with A and D set; none when the walk or its checks fail. -/
def ringXlate (st : State) (d va : Nat) : Option (Nat × Nat × State) :=
  let asid := (dieOf st d).dbg.trasid
  match (rootOfAsid st asid).map fun root => walk st.mem root asid va fun e => (ringPlace st e va).isSome with
  | some (.ok (e, a, pte)) => (ringPlace st e va).map fun x => (x.1, x.2, setPteBits st a pte)
  | _ => none

/-- The translation that a ring page has: the one by which it was written last, else the one that a walk finds. -/
def ringEntry (st : State) (d va : Nat) : Option TlbEntry :=
  let g := (dieOf st d).dbg
  match g.rtlb.find? fun e => tlbHit e g.trasid va with
  | some e => some e
  | none =>
    match (rootOfAsid st g.trasid).map fun root => walk st.mem root g.trasid va fun _ => false with
    | some (.ok (e, _, _)) => some e
    | _ => none

/-- The trace unit has nothing left to write: a quiesce request is acknowledged (R350, R353). -/
def ackQuiesce (g : DieDbg) : DieDbg := if g.buffer.isEmpty && bit g.trctl.toNat 5 then { g with trctl := g.trctl ||| 0x40 } else g

/-- The records of the buffer with the addresses at which they are to be written. -/
def ringPlaces (g : DieDbg) : List (TraceRec × Nat) :=
  g.buffer.zipIdx.map fun x =>
    let n := 16 * ((g.buffer.take x.2).filter fun r => r.postmark == x.1.postmark).length
    (x.1, if x.1.postmark then g.pkbase.toNat + (g.pkwp.toNat + n) % g.pksize.toNat else g.trbase.toNat + (g.trwp.toNat + n) % g.trsize.toNat)

/-- The records that await one of some pages are dropped and counted, with those after them in their ring; TRFAULT is set, both rings
stop (R353). -/
def ringFails (st : State) (d : Nat) (page : Nat → Bool) : State :=
  modDieDbg st d fun g =>
    let ps := ringPlaces g
    let first := fun (p : Bool) => (ps.findIdx? fun x => x.1.postmark == p && page (x.2 / 4096)).getD ps.length
    let gone := fun (x : TraceRec × Nat) => decide (first x.1.postmark ≤ x.2)
    let out := g.buffer.zipIdx.filter gone
    let pk := (out.filter (·.1.postmark)).length
    ackQuiesce { g with
      buffer := (g.buffer.zipIdx.filter fun x => !gone x).map (·.1)
      trdrop := g.trdrop + BitVec.ofNat 64 (out.length - pk), pkdrop := g.pkdrop + BitVec.ofNat 64 pk
      trctl := (g.trctl ||| 0x80) &&& ~~~0xC }

/-- The enabled rings with a size: base and size. -/
def ringsOn (g : DieDbg) : List (Nat × Nat) :=
  (if bit g.trctl.toNat 2 then [(g.trbase.toNat, g.trsize.toNat)] else []) ++
    (if bit g.trctl.toNat 3 then [(g.pkbase.toNat, g.pksize.toNat)] else [])

/-- TRACE_RING_WRITE: the oldest record of the buffer is written at its ring's next address, published at system scope
(R352, R353). -/
def execTraceRingWrite (d : Nat) (st : State) : Host.Outcome State Fault Refusal :=
  if numDies ≤ d then .fault .noSuchAgent
  else
    let g := (dieOf st d).dbg
    match g.buffer with
    | [] => .next st
    | r :: rest =>
      let va := ringNext g r.postmark
      match ringXlate st d va with
      | none => .next (ringFails st d (· == va / 4096))
      | some (pa, key, st) =>
        let st := performKeyed st noCore key pa r.bytes st.stamp [] (some .s) .core none
        .next (modDieDbg st d fun g =>
          let g := { g with buffer := rest, rtlb := (ringEntry st d va).toList.foldl (tlbFill 2) g.rtlb }
          ackQuiesce (if r.postmark then { g with pkwp := g.pkwp + 16 } else { g with trwp := g.trwp + 16 }))

/-- TRQUIESCE: QREQ is written (R353). -/
def execTrquiesce (d : Nat) (req : Bool) (st : State) : Host.Outcome State Fault Refusal :=
  if numDies ≤ d then .fault .noSuchAgent
  else .next (modDieDbg st d fun g =>
    if req then ackQuiesce { g with trctl := g.trctl ||| 0x20 } else { g with trctl := g.trctl &&& ~~~0x60 })

end Sys2Proof.Machine
end

