-- ==== Sys2Proof/Machine/Fabric.lean ====
section
/-! DEFINITION. The package fabric: beacons, estimates and ATICK (R367 to R370), links (R361 to R366), and what a tick of a die
does to its counts (R28). -/

namespace Sys2Proof.Machine

/-! ### Estimates (R369, R370) -/

/-- The estimate of a die's DTICK that no beacon has yet given (log 1). -/
def Estimate.none : Estimate := { val := 0, valid := false, age := 0, stale := false }

/-- The estimate that a die keeps of die `j`. -/
def estOf (x : Die) (j : Nat) : Estimate := tget Estimate.none x.est j

/-- Replacing an estimate. -/
def setEst (x : Die) (j : Nat) (e : Estimate) : Die := { x with est := tset Estimate.none x.est j e }

/-- The other dies. -/
def otherDies (d : Nat) : List Nat := (List.range numDies).filter (· != d)

/-- A fresh estimate. -/
def freshEst (v : Nat) : Estimate := { val := v, valid := true, age := 0, stale := false }

/-- The latency of a beacon in ticks of the receiver (R363). -/
def beaconTicks : Nat := 40

/-- The smallest of a list, if any. -/
def minOf : List Nat → Option Nat
  | [] => none
  | a :: l => some (l.foldl min a)

/-- The estimates of die `d` after the beacons that are due (R369): an edge neighbour's own count, and of the diagonal die
the smaller one that arrives in the tick. -/
def takeBeacons (d : Nat) (x : Die) : Die :=
  let due := x.beacons.filter fun b => decide (b.due ≤ x.dtick) && !b.bad
  let x := due.foldl (fun x b => setEst x (neighbour d b.port) (freshEst (b.dval + beaconTicks))) x
  match minOf (due.filterMap (·.est)) with
  | some v => setEst x (d ^^^ 3) (freshEst (v + beaconTicks))
  | none => x

/-- The smallest of DTICK and the estimates (R369). -/
def estMin (d : Nat) (x : Die) : Nat := (otherDies d).foldl (fun m j => min m (estOf x j).val) x.dtick

/-- ATICK after a tick: never decreasing, by at most one (R369). -/
def nextAtick (d : Nat) (x : Die) : Nat := max x.atick (min (estMin d (takeBeacons d x)) (x.atick + 1))

/-- Extrapolation at the die's own rate (R369). -/
def extrapolate (d : Nat) (x : Die) : Die :=
  (otherDies d).foldl (fun x j => let e := estOf x j; setEst x j { e with val := e.val + 1, age := e.age + 1 }) x

/-- A freeze count in a tick. -/
def tickFreeze (n : Nat) : Nat := if 1 < n then n - 1 else n

/-- The counts of die `d` advance: DTICK, the estimates, ATICK, the freezes of its die couriers and its Fuller (R28, R266,
R369). -/
def tickDie (d : Nat) (x : Die) : Die :=
  let x := extrapolate d { x with dtick := x.dtick + 1, ffreeze := tickFreeze x.ffreeze
                                  dcfreeze := x.dcfreeze.map fun y => (y.1, tickFreeze y.2) }
  { x with atick := nextAtick d x }

/-- The counts of a core advance: its own ticks while it is not frozen, its freeze, the flags of the tick (R21, R266). -/
def tickCore (k : Core) : Core :=
  { k with newFlags := 0, newMx := 0, newSs := 0, mxEvt := none, ssEvt := none, now := if k.freeze = 0 then k.now + 1 else k.now, freeze := tickFreeze k.freeze }

/-- The logical cores of a die of which the state lists anything. -/
def dieCores (st : State) (d : Nat) : List Nat := (st.cores.map (·.1)).filter fun c => dieIx c == d

/-- A core at S level in a stub takes the new protected partition only at its next eret (R397). -/
def stubDeferred (k : Core) : Bool := k.launch.isSome && lvlOf k == .s && (k.run == .run || k.run == .halted)

/-- The tick of one core. -/
def tickOne (st : State) (c : Nat) : State :=
  let st := landCopies (modCore st c tickCore) c
  if stubDeferred (coreOf st c) then st else installStubs st c

/-- The bounds of a die's next period, in millionths of the nominal one: the band of R1, longer by the steps that the governor holds the
clock below nominal (R407). The dies leave reset within half a tick of one another (R367: within one; log 7). -/
def periodBand (x : Die) : Nat × Nat :=
  if x.dtick = 0 then (1, 500000) else (999001 * 400 / (400 - x.clkStep), 1001001 * 400 / (400 - x.clkStep))

/-- The die whose time, in millionths of a nominal period, is the earliest (R1, R371; log 7). -/
def earliestDie (st : State) : Nat :=
  (List.range numDies).foldl (fun b d => if (dieOf st d).nextAt < (dieOf st b).nextAt then d else b) 0

/-- The dies that tick before die `d`, whose tick last advanced REF: the ones that have not ticked since, if a period in their band
ends here. So a die's own ticks pass at least as fast as REF (R367; log 7). -/
def behindRef (st : State) (d : Nat) : List Nat :=
  (otherDies d).filter fun j =>
    let x := dieOf st j
    !x.ticked && decide (x.tickAt + (periodBand x).1 ≤ (dieOf st d).nextAt)

/-- The die whose tick comes next: the earliest, but for a die that ticks before the one that REF counts (R1, R367, R371; log 7). -/
def nextDie (st : State) : Nat :=
  let d := earliestDie st
  if (dieOf st d).isRef then (behindRef st d).headD d else d

/-- The counts of a tick of die `d` at the time of the earliest die, and the time of its next one, a free value within the band
(log 7). -/
def countTick (st : State) (d : Nat) : State :=
  let now := (dieOf st (earliestDie st)).nextAt
  let (t, st) := draw st (periodBand (dieOf st d)).1 (periodBand (dieOf st d)).2
  let t := modDie { st with tickStamp := st.stamp } d fun x => { tickDie d x with nextAt := now + t, tickAt := now, ticked := true }
  if refTick st < refTick t then (List.range numDies).foldl (fun t j => modDie t j fun x => { x with ticked := false, isRef := j == d }) t else t

/-- A tick of die `d`: its counts, and its cores', which a fatal error has stopped (R408). -/
def advanceTick (st : State) (d : Nat) : State :=
  let st := countTick st d
  if st.host.fatal.isSome then st else (dieCores st d).foldl tickOne st

/-! ### Beacons (R368, R369) -/

/-- Whether a link port is up (R366). -/
def portIsUp (st : State) (d p : Nat) : Bool := (dieOf st d).up.getLsbD p

/-- The beacon that die `d` sends on a port: its count, and its estimate of the receiver's diagonal die, which is its own
other neighbour. It arrives after its latency, at the tick of the receiver that is nearest to it from a quarter of a tick before (R363,
R369; log 7). Whether it fails its CRC there is a free value (R365; log 3). -/
def beaconFor (st : State) (d p : Nat) (bad : Bool) : Beacon :=
  let x := dieOf st d
  let r := neighbour d p
  let y := dieOf st r
  let e := estOf x (r ^^^ 3)
  let near := decide (3 * (y.nextAt - y.tickAt) < 4 * (y.nextAt - x.tickAt))
  { port := p, due := y.dtick + beaconTicks + (if near then 0 else 1), dval := x.dtick, est := if e.valid && !e.stale then some e.val else none
    bad := bad }

/-- Whether the beacon that die `d` sends on a port may fail its CRC (R365; log 3): R369 and R370 leave no room for more. Of the two
ports of an edge that are up one carries its beacon; the one port that is up does. -/
def mayFail (st : State) (d p : Nat) : Bool :=
  portIsUp st d (p ^^^ 1) &&
    !((dieOf st (neighbour d p)).beacons.any fun b => b.port == p ^^^ 1 && b.dval == (dieOf st d).dtick && b.bad)

/-- BEACON_SEND: a beacon on each of ports 0 to 3 that is up (R368). -/
def execBeaconSend (d : Nat) (st : State) : Host.Outcome State Fault Refusal :=
  if numDies ≤ d then .fault .noSuchAgent
  else .next (((List.range 4).filter (portIsUp st d)).foldl (fun st p =>
    let (e, st) := draw st 0 1
    let b := beaconFor st d p (e == 1 && mayFail st d p)
    modDie st (neighbour d p) fun x => { x with beacons := x.beacons ++ [b] }) st)

/-- An 8-bit count that grows by `n` and saturates. -/
def addSat8 (x : BitVec 8) (n : Nat) : BitVec 8 := BitVec.ofNat 8 (min 0xFF (x.toNat + n))

/-- BEACON_RECEIVE: the beacons that are due at die `d` refresh its estimates (R369); one that fails its CRC is discarded and counted
(R365, R366). -/
def execBeaconReceive (d : Nat) (st : State) : Host.Outcome State Fault Refusal :=
  if numDies ≤ d then .fault .noSuchAgent
  else .next (modDie st d fun x => { takeBeacons d x with
    beacons := x.beacons.filter fun b => !decide (b.due ≤ x.dtick)
    blost := addSat8 x.blost (x.beacons.filter fun b => decide (b.due ≤ x.dtick) && b.bad).length })

/-- The ticks after which an estimate is stale (R370). -/
def staleTicks : Nat := 256

/-- ESTIMATE_STALE: an estimate that no beacon has refreshed for 256 ticks is marked and reported (R370). -/
def execEstimateStale (d j : Nat) (st : State) : Host.Outcome State Fault Refusal :=
  if numDies ≤ d ∨ numDies ≤ j ∨ d = j then .fault .noSuchAgent
  else
    let e := estOf (dieOf st d) j
    if e.stale ∨ e.age < staleTicks then .next st
    else .next (report (modDie st d fun x => setEst x j { e with stale := true }) (.stale d j))

/-! ### Links (R362, R364, R366) -/

/-- A 16-bit count that saturates. -/
def sat16 (x : BitVec 16) : BitVec 16 := if x = 0xFFFF then x else x + 1

/-- The most REF ticks by which a resend of the model delays a flit (log 8). -/
def resendMax : Nat := 65536

/-- The pigeonhole flits on their way over a port come later, by a free time: they have no deadline (R365; log 8). -/
def delayFlits (st : State) (d port : Nat) : State :=
  if port < 4 then
    let (t, st) := draw st 0 resendMax
    modDie st (neighbour d port) fun x => { x with phFlits := x.phFlits.map fun f => if f.port = port then { f with due := f.due + t } else f }
  else st

/-- LINK_RETRY: a flit is resent on a port: RETRY counts it (R362, R366), and what travels over the port comes later, unchanged
(R365). -/
def execLinkRetry (d port : Nat) (st : State) : Host.Outcome State Fault Refusal :=
  if numDies ≤ d ∨ 5 ≤ port then .fault .noSuchAgent
  else .next (delayFlits (modDie st d fun x => { x with retry := sat16 x.retry }) d port)

/-- The UP bit of a port. -/
def putUp (x : BitVec 5) (p : Nat) (up : Bool) : BitVec 5 :=
  if up then x ||| BitVec.ofNat 5 (2 ^ p) else x &&& ~~~(BitVec.ofNat 5 (2 ^ p))

/-- The twin of a beacon on the other port of its edge: what its sender sent there in the same tick. -/
def Beacon.twinOf (b c : Beacon) : Bool := b.port == (c.port ^^^ 1) && b.dval == c.dval

/-- The beacons on their way to a port that goes down, while the other port of the edge is up: each is missed if it has a twin there,
which then arrives; one without a twin comes by the other port (R364, R366, R370; log 37). -/
def rerouted (p : Nat) (l : List Beacon) : List Beacon :=
  let here := l.filter fun b => b.port == p
  let there := (l.filter fun b => b.port != p).map fun b => if here.any fun c => b.twinOf c && !c.bad then { b with bad := false } else b
  there ++ (here.filter fun b => !there.any fun c => c.twinOf b).map fun b => { b with port := p ^^^ 1 }

/-- One end of a link goes up or down; of the beacons on their way to a port that goes down the missed ones are counted (R366). -/
def endState (st : State) (d p : Nat) (up : Bool) : State :=
  modDie st d fun x =>
    let l := if up then x.beacons else if x.up.getLsbD (p ^^^ 1) then rerouted p x.beacons else x.beacons.filter fun b => b.port != p
    { x with up := putUp x.up p up, beacons := l, blost := addSat8 x.blost (x.beacons.length - l.length) }

/-- LINK_STATE_CHANGE: a port goes up or down at both ends of its link (R361, R364). -/
def execLinkStateChange (d port : Nat) (up : Bool) (st : State) : Host.Outcome State Fault Refusal :=
  if numDies ≤ d ∨ 5 ≤ port then .fault .noSuchAgent
  else
    let st := endState st d port up
    .next (if port < 4 then endState st (neighbour d port) port up else st)

end Sys2Proof.Machine
end

