-- ==== Sys2Proof/Machine/Security.lean ====
section
/-! DEFINITION. Bring-up, keys and the governor: images and the boot sequence (R398, R399, R404, R405), attestation (R400), key
commands (R401, R402), features (R403), power (R407), fatal errors and the dump (R408, R409). -/

namespace Sys2Proof.Machine

/-- Changing the host-facing blocks. -/
def modHost (st : State) (f : HostBlock → HostBlock) : State := { st with host := f st.host }

/-! ### Images (R399) -/

/-- Bytes of the flash. -/
def flashRead (a n : Nat) : List Byte := (List.range n).map fun i => Config.flashByte (a + i)

/-- Bytes `[a, a+n)` of a list. -/
def bytesAt (l : List Byte) (a n : Nat) : List Byte := (l.drop a).take n

/-- SHA-384 of the public key of a header is the fused digest. -/
def imageKeyOk (h : List Byte) (kind : Nat) : Bool := sha384 (bytesAt h 72 96) == (Config.keyDigest kind).toNat

/-- The signature of a header verifies under its key. -/
def imageSigOk (h : List Byte) : Bool :=
  ecdsaVerify (beNat (bytesAt h 72 48), beNat (bytesAt h 120 48)) (sha384 (h.take 168)) (beNat (bytesAt h 168 48)) (beNat (bytesAt h 216 48))

/-- The condition of R399 that an image fails first; 0 when it is accepted. `h` is its header, `body` its body, `svn` the
fused counter for KIND. -/
def imageCond (h body : List Byte) (kind svn : Nat) : Nat :=
  if !(field h 0 4 == 0x57465747 && field h 4 2 == 1 && field h 6 2 == kind && allZero (bytesAt h 264 56)) then 1
  else if !imageKeyOk h kind then 2
  else if !imageSigOk h then 3
  else if beNat (bytesAt h 24 48) ≠ sha384 body then 4
  else if field h 8 4 < svn then 5
  else 0

/-- The header of image `i` of the flash. -/
def flashHeader (i : Nat) : List Byte := flashRead (Config.flashImage i) 320

/-- The fused counter for KIND: what the fuses held at the first power-on, and by how much accepted firmware has raised it (R399). -/
def fusedSvn (st : State) (kind : Nat) : Nat := Config.fuseSvn kind + tget 0 st.host.svn kind

/-- The condition that image `i` of the flash fails. -/
def flashCond (st : State) (i kind : Nat) : Nat :=
  let h := flashHeader i
  imageCond h (flashRead (Config.flashImage i + 320) (field h 12 4)) kind (fusedSvn st kind)

/-! ### Tests, repair and placement (R364, R404, R405) -/

/-- The good physical cores of a die, ascending. -/
def goodCores (d : Nat) : List Nat := (List.range 200).filter fun p => !Config.failedCore d p

/-- A remap entry (R300). -/
def remapEntry (sl half : Bool) (p : Nat) : BitVec 16 :=
  BitVec.ofNat 16 (0x8000 + b2n sl * 0x4000 + b2n half * 0x2000 + p % 256)

/-- The remap table of a die whose good cores are given (R405). -/
def remapFrom (good : List Nat) : Tab (BitVec 16) :=
  let g := good.length
  let pairs := 192 - g
  tfrom (0 : BitVec 16) 192 fun i =>
    if i < g - pairs ∨ 192 ≤ g then remapEntry false false (good.getD i 0)
    else
      let j := (i - (g - pairs)) / 2
      remapEntry true ((i - (g - pairs)) % 2 == 1) (good.getD (g - pairs + j) 0)

/-- Whether a port trains: both ends of a link train together (R361). -/
def trains (d p : Nat) : Bool := if p < 4 then Config.portUp (min d (neighbour d p)) p else Config.portUp d p

/-- The UP bits of a die after training. -/
def upBits (d : Nat) : BitVec 5 := (List.range 5).foldl (fun x p => putUp x p (trains d p)) 0

/-- Why the module goes out of service (R404; log 13): 1 a channel, 2 both ports of an edge, 3 a die with more than 104
failed cores. -/
def serviceReason : Option Nat :=
  if (List.range 32).any fun i => !Config.channelOk i then some 1
  else if (List.range numDies).any fun d => (!trains d 0 && !trains d 1) || (!trains d 2 && !trains d 3) then some 2
  else if (List.range numDies).any fun d => decide ((goodCores d).length < 96) then some 3
  else none

/-- What the firmware does to a die: links, remap table. -/
def bringUpDie (st : State) (d : Nat) : State :=
  modDie st d fun x => { x with up := upBits d, remap := if (goodCores d).length < 96 then [] else remapFrom (goodCores d) }

/-- Step 3 of R398: links, channels and cores tested, remap tables written, global memory cleared; memory slot 0 gets a key
(R401). -/
def bringUp (st : State) : State :=
  let st := (List.range numDies).foldl bringUpDie st
  let st := { st with mem := st.mem.filter fun x => decide (globalBytes ≤ x.1) }
  modHost { st with fresh := st.fresh + 1 } fun h =>
    { h with service := serviceReason, lineKey := [], dumpKey := none, mkeys := [(0, some (Config.freeKey st.fresh))], pkeys := [] }

/-! ### The boot (R398) -/

/-- A step that fails: BOOTSTAT holds the step and the condition. -/
def bootFails (st : State) (step cond : Nat) : State :=
  modHost st fun h => { h with bootStat := BitVec.ofNat 64 (step + 16 * cond) }

/-- The loader is verified, and host core 0 starts at its entry (steps 4 and 5). -/
def bootLoader (st : State) : State :=
  let c := flashCond st 2 2
  if c ≠ 0 then bootFails st 4 c
  else
    let h := flashHeader 2
    modHost st fun x => { x with ldDigest := BitVec.ofNat 384 (beNat (bytesAt h 24 48)), entry := some (wordAt h 16) }

/-- POWER_ON_BOOT: the sequence of the boot ROM (R398). -/
def execPowerOnBoot (st : State) : Host.Outcome State Fault Refusal :=
  let a := if flashCond st 0 1 = 0 then 0 else 1
  let c := flashCond st a 1
  if c ≠ 0 then .next (bootFails st 2 c)
  else
    let h := flashHeader a
    let st := modHost st fun x =>
      { x with fwOn := true, fwSvn := BitVec.ofNat 32 (field h 8 4), fwDigest := BitVec.ofNat 384 (beNat (bytesAt h 24 48)) }
    .next (bootLoader (bringUp st))

/-- The fused counter for KIND after a session of accepted firmware: its authenticated commands raise it by what they choose, a free
value, and nothing lowers it (R399; log 13). A boot alone reads it. -/
def raiseSvn (st : State) (kind : Nat) : State :=
  if st.host.fwOn then
    let (n, st) := draw st 0 (2 ^ 32)
    modHost st fun h => { h with svn := tset 0 h.svn kind (tget 0 h.svn kind + n) }
  else st

/-- MODULE_RESET: the state after reset; what a reset does not reach is global memory, which the boot clears, the fuses (R399) and the
counters of the model (R398, R408). -/
def execModuleReset (st : State) : Host.Outcome State Fault Refusal :=
  let st := raiseSvn (raiseSvn st 1) 2
  .next { State.reset with
    mem := st.mem.filter fun x => decide (x.1 < globalBytes), inbox := st.inbox, fresh := st.fresh, stamp := st.stamp
    host := { HostBlock.reset with lineKey := st.host.lineKey, dumpKey := st.host.dumpKey, svn := st.host.svn } }

/-! ### Keys (R401, R402) -/

/-- A key slot of the memory or of the Post table takes a value. -/
def putKey (st : State) (post : Bool) (slot : BitVec 10) (k : KeySlot) : State :=
  modHost st fun h =>
    if post then { h with pkeys := tset none h.pkeys slot.toNat k } else { h with mkeys := tset none h.mkeys slot.toNat k }

/-- A Post key is the first 32 bytes. -/
def keyFor (post : Bool) (k : BitVec 512) : BitVec 512 := if post then k &&& BitVec.ofNat 512 (2 ^ 256 - 1) else k

/-- A key command runs, for a free time (log 8), and is then to give the slot its value; one that comes while another runs is ignored
(R401). -/
def startKey (st : State) (post : Bool) (slot : BitVec 10) (k : KeySlot) : State :=
  if st.host.keyRun.isSome then st
  else
    let (t, st) := draw st 1 65536
    modHost st fun h => { h with keyRun := some (refTick st + t, post, slot.toNat, k) }

/-- The key command whose time has come takes effect, in one tick at every channel (R402). -/
def endKey (st : State) : State :=
  match st.host.keyRun with
  | none => st
  | some (t, post, slot, k) =>
    if t ≤ refTick st then
      let st := putKey (modHost st fun h => { h with keyRun := none }) post (.ofNat 10 slot) k
      if post then st else rekeyLoads st (slot % 1024)
    else st

/-- KEY_LOAD: the slot is to take the key of the 64 input bytes (R401, R402). -/
def execKeyLoad (post : Bool) (slot : BitVec 10) (st : State) : Host.Outcome State Fault Refusal :=
  .next (startKey st post slot (some (keyFor post st.host.keyIn)))

/-- KEY_GENERATE: the slot is to take a key made inside the device, a free value (log 3). -/
def execKeyGenerate (post : Bool) (slot : BitVec 10) (st : State) : Host.Outcome State Fault Refusal :=
  .next (if st.host.keyRun.isSome then st
    else startKey { st with fresh := st.fresh + 1 } post slot (some (keyFor post (Config.freeKey st.fresh))))

/-- KEY_EMPTY: the slot is to be empty (R401, R402). -/
def execKeyEmpty (post : Bool) (slot : BitVec 10) (st : State) : Host.Outcome State Fault Refusal :=
  .next (startKey st post slot none)

/-! ### Features and attestation (R400, R403) -/

/-- FSUPPk. -/
def fsupp (k : Nat) : Word := if k = 0 then 0x3F0001 else 0

/-- The mandatory features. -/
def fmand (k : Nat) : Word := if k = 0 then 1 else 0

/-- FLOCK: FEATk := FSUPPk & (FWANTk | FMANDk), once. -/
def execFlock (st : State) : Host.Outcome State Fault Refusal :=
  .next (if st.host.locked then st
    else modHost st fun h => { h with locked := true, feat := tfrom (0 : Word) 4 fun k => fsupp k &&& (tget 0 h.fwant k ||| fmand k) })

/-- The bytes of a report that the identity key signs. -/
def reportBody (h : HostBlock) : List Byte :=
  leBytes 2 1 ++ leBytes 2 0 ++ leBytes 4 h.fwSvn.toNat ++ fillTo 48 h.nonce ++ beBytes 48 h.fwDigest.toNat
    ++ beBytes 48 h.ldDigest.toNat ++ ((List.range 4).flatMap fun k => leBytes 8 (tget 0 h.feat k).toNat)
    ++ beBytes 48 (sha384 Config.repairRecord) ++ leBytes 8 Config.serial.toNat ++ List.replicate 16 0

/-- ATTESTATION_REQUEST: the report of the nonce and the features at the request is to appear, after a free time; a request made while
one is under way is ignored (R400; log 8). -/
def execAttestationRequest (st : State) : Host.Outcome State Fault Refusal :=
  if st.host.attReq.isSome then .next st
  else
    let (t, st) := draw st 1 65536
    .next (modHost st fun h => { h with attReq := some (refTick st + t, reportBody h) })

/-- The report of a request whose time has come appears: 352 bytes (R400). -/
def showReport (st : State) : State :=
  match st.host.attReq with
  | none => st
  | some (t, b) =>
    if t ≤ refTick st then
      modHost st fun h => { h with report := b ++ fillTo 96 (Config.identitySign b), reports := h.reports + 1, attReq := none }
    else st

/-- A byte at an offset of SECBASE as the host reads it: boot status, the busy value, the reason for being out of service, the nonce, the
report, the certificate chain (R398, R400, R404). -/
def secByte (h : HostBlock) (off : Nat) : Byte :=
  if off < 0x08 then (leBytes 8 h.bootStat.toNat).getD off 0
  else if off < 0x10 then (leBytes 8 (b2n h.attReq.isSome)).getD (off - 0x08) 0
  else if off < 0x18 then (leBytes 8 (h.service.getD 0)).getD (off - 0x10) 0
  else if 0x100 ≤ off ∧ off < 0x130 then h.nonce.getD (off - 0x100) 0
  else if 0x200 ≤ off ∧ off < 0x360 then h.report.getD (off - 0x200) 0
  else if 0x400 ≤ off then Config.identityCert.getD (off - 0x400) 0
  else 0

/-! ### Fatal errors and the dump (R408, R409) -/

/-- Bytes written as a run of table entries, from an offset of the dump. -/
def dumpRun (m : Memory) (off : Nat) (l : List Byte) : Memory := memBlit m (dumpBase + off) l

/-- A sparse run of `n` bytes from an offset of the dump. -/
def dumpSparse (m : Memory) (off n : Nat) (t : Memory) : Memory :=
  tsplice m (dumpBase + off) n (tcanon 0 0 (t.map fun x => (dumpBase + off + x.1, x.2)))

/-- The header of the dump. -/
def dumpHeader (st : State) (cause : BitVec 32) (valid : Bool) (blocks : Nat) : List Byte :=
  fillTo 4096 (leBytes 2 1 ++ leBytes 2 (b2n valid) ++ leBytes 4 cause.toNat ++ ((List.range 4).flatMap fun d => leBytes 8 (dieOf st d).dtick)
    ++ ((List.range 4).flatMap fun k => leBytes 8 (tget 0 st.host.feat k).toNat) ++ leBytes 4 st.host.fwSvn.toNat ++ leBytes 4 blocks)

/-- SLOTST of a slot (R293). -/
def slotStat (st : State) (q : Nat) : Nat :=
  let s := slotOf st q
  slotNum s.state + s.prio.toNat * 16 + effPrio st s * 256 + s.age.toNat * 65536

/-- CMDSTAT (R293). -/
def cmdStat (st : State) : Nat := st.pm.cmdcode.toNat * 256 + st.pm.errs.toNat * 2 ^ 32

/-- FABSTAT of a die (R366). -/
def fabStat (st : State) (d : Nat) : Nat :=
  let x := dieOf st d
  x.up.toNat + x.blost.toNat * 256 + ((List.range 4).foldl (fun a j => a + b2n (estOf x j).stale * 2 ^ (20 + j)) 0)
    + x.retry.toNat * 2 ^ 48

/-- The Postmaster's part: SLOTST, CMDSTAT, and the suspension-record images of the slots that hold cores (log 23). -/
def dumpPm (st : State) : List Byte :=
  ((List.range numSlots).flatMap fun q => leBytes 8 (slotStat st q)) ++ leBytes 8 (cmdStat st) ++ List.replicate 2040 0
    ++ (st.pm.slots.filter fun x => holding x.2).flatMap fun x => match x.2.graph with
      | some g => suspBytes st g false
      | none => []

/-- A pending walk. -/
def walkBytes (w : Walk) : List Byte :=
  leBytes 8 w.root ++ leBytes 8 w.va ++ leBytes 2 w.asid.toNat ++ leBytes 1 (b2n (!w.writers.isEmpty)) ++ leBytes 5 0

/-- The die couriers' queues of a core: HEAD, TAIL, PROG and FAULT of queues 4 to 7. -/
def dieQueueBytes (k : Core) : List Byte :=
  [4, 5, 6, 7].flatMap fun q =>
    let x := queueOf k q
    leBytes 4 x.head.toNat ++ leBytes 4 x.tail.toNat ++ leBytes 4 x.prog ++ leBytes 4 (b2n x.faulted)

/-- A die's part, in the order in which R409 lists its content (log 23). -/
def dumpDie (st : State) (d : Nat) : List Byte :=
  let x := dieOf st d
  leBytes 8 (fabStat st d) ++ fillTo (24 * 1024) (x.walks.flatMap walkBytes)
    ++ ((List.range 192).flatMap fun i => dieQueueBytes (coreOf st (192 * d + i)))
    ++ leBytes 8 x.fq.length ++ (x.fq.flatMap cardBytes)
    ++ (List.range 512).flatMap fun i =>
      let p := tget phEmpty x.pigeon i
      leBytes 8 (b2n p.valid) ++ leBytes 8 p.tag.toNat ++ leBytes 64 p.data.toNat

/-- The logical core that a physical core of a die holds: of a pair the resident one. -/
def coreAt (st : State) (d p : Nat) : Option Nat :=
  ((List.range 192).find? fun i =>
    let e := remapOf st (192 * d + i)
    e.getLsbD 15 && e.extractLsb' 0 8 == BitVec.ofNat 8 p && (coreOf st (192 * d + i)).resident).map (192 * d + ·)

/-- The raw elements of a stream store as bytes. -/
def elemBytes (s : Store) : Memory :=
  s.elems.flatMap fun x => ((leBytes 6 x.2.toNat).zipIdx.filter (·.1 != 0)).map fun y => (6 * x.1 + y.2, y.1)

/-- A code store as bytes. -/
def codeBytes (t : Tab Bundle) : Memory :=
  t.flatMap fun x => ((leBytes 24 x.2.toNat).zipIdx.filter (·.1 != 0)).map fun y => (24 * x.1 + y.2, y.1)

/-- The block of one physical core: header, regions 1 to 12 with every register written, stream store, code, scratchpad after
the merge of R129. -/
def dumpCore (st : State) (p c : Nat) : State :=
  let st := vjoinMerge st c
  let st := modCore st c fun k => { k with csr := { k.csr with xpc := k.pc.setWidth 64 } }
  let k := coreOf st c
  let off := 0x1000000 + 0x800000 * p
  let body := frameBody st c 3 liveAll (bankFor st c)
  let h := headerBytes k { kind := 3, valid := true, ended := k.run == .ended, size := 64 + body.length, crc := crc32c body }
  let pad := (tslice st.mem (windowBase c) scratchBytes).map fun x => (x.1 - windowBase c, x.2)
  let m := dumpRun st.mem off h
  let m := dumpRun m (off + 0x1000) body
  let m := dumpSparse m (off + 0x100000) 1179648 (elemBytes k.ss)
  let m := dumpSparse m (off + 0x220000) 262144 (codeBytes k.code)
  { st with mem := dumpSparse m (off + 0x280000) scratchBytes pad }

/-- The physical cores with their logical cores. -/
def dumpCores (st : State) : List (Nat × Nat) :=
  (List.range 800).filterMap fun p => (coreAt st (p / 200) (p % 200)).map fun c => (p, c)

/-- The dump is written under memory slot 0, every line of its region (R408; log 12). -/
def keyDump (st : State) : State :=
  match keyMat st 0 with
  | none => st
  | some m => modHost st fun h => { h with lineKey := tsplice h.lineKey (dumpBase / 64) (2 ^ 27) [], dumpKey := some m }

/-- The dump: everything, then the header with VALID (R408, R409). -/
def writeDump (st : State) (cause : BitVec 32) : State :=
  let cs := dumpCores st
  let m := dumpRun st.mem 0 (dumpHeader st cause false cs.length)
  let m := dumpRun m 0x1000 (dumpPm st)
  let m := (List.range numDies).foldl (fun m d => dumpRun m (0x100000 + 0x100000 * d) (fillTo 0x100000 (dumpDie st d))) m
  let st := cs.foldl (fun st x => dumpCore st x.1 x.2) { st with mem := m }
  let st := keyDump { st with mem := dumpRun st.mem 0 (dumpHeader st cause true cs.length) }
  modHost st fun h => { h with dumped := true }

/-- Every device core stops before its next bundle, nothing drained, no engine moves again, and what comes in before a module reset
acts no more (R408). -/
def stopAll (st : State) : State :=
  { st with turn := .agenda, agenda := []
            inbox := st.inbox.dropWhile fun x => x.2 != .moduleReset
            cores := (List.range numCores).foldl (fun t c => tmod Core.reset t c fun k =>
              { k with run := if k.launch.isNone ∨ k.run = .ended then k.run else .dead, issue := none }) st.cores }

/-- FATAL_ERROR: the cores stop, the dump is written, and the module waits for reset (R408). -/
def execFatalError (cause : BitVec 32) (st : State) : Host.Outcome State Fault Refusal :=
  if st.host.fatal.isSome then .next st
  else .next (writeDump (modHost (stopAll st) fun h => { h with fatal := some cause }) cause)

/-! ### The governor (R407) -/

/-- The most steps of 0.25 % below nominal: 2.4 GHz. -/
def clkMax : Nat := 133

/-- The clock of die `d` steps down, or up, between nominal and 2.4 GHz. -/
def stepClock (st : State) (d : Nat) (down : Bool) : State :=
  modDie st d fun x => { x with clkStep := if down then min clkMax (x.clkStep + 1) else x.clkStep - 1 }

/-- Samples in which a limit may be exceeded before THROTTLE: 20 ms at 10 µs. -/
def throttleSamples : Nat := 2000

/-- GOVERNOR_SAMPLE: one sample of input power and die temperatures; while a TIMED launch is bound and no limit is exceeded, every die
is within the band of R371. -/
def execGovernorSample (watts : Nat) (temps : List Nat) (st : State) : Host.Outcome State Fault Refusal :=
  let st := modHost st fun h => { h with watts := watts }
  let hot := fun (lim d : Nat) => decide (lim < temps.getD d 0)
  if (List.range numDies).any fun d => decide (115 ≤ temps.getD d 0) then execFatalError 2 st
  else
    let power := decide (3600 < watts)
    let above := power || (List.range numDies).any (hot 105)
    if timedBound st then
      if !above then
        .next ((List.range numDies).foldl (fun st d => modDie st d fun x => { x with clkStep := 0 }) (modHost st fun h => { h with overFor := 0 }))
      else if st.host.overFor + 1 < throttleSamples then .next (modHost st fun h => { h with overFor := h.overFor + 1 })
      else
        let st := report (modHost st fun h => { h with overFor := 0 }) .throttle
        .next ((List.range numDies).foldl (fun st d => stepClock st d true) st)
    else
      .next ((List.range numDies).foldl (fun st d => stepClock st d (power || hot 105 d)) (modHost st fun h => { h with overFor := 0 }))

end Sys2Proof.Machine
end

