-- ==== Sys2Proof/Machine/Hostside.lean ====
section
/-! DEFINITION. The device register space (R392): the Postmaster's registers (R293), the debug blocks (R341, R342), the
translation services with their shootdowns (R280, R393), the die agents (R397), keys, boot, features and the governor. -/

namespace Sys2Proof.Machine

/-- The state that a meaning gives; a meaning used here always gives one. -/
def nextOr (st : State) : Host.Outcome State Fault Refusal → State
  | .next s => s
  | _ => st

/-- A write that only changes the state. -/
def written (st : State) : Host.Outcome State Fault Refusal := .next st

/-! ### Shootdowns (R280, R393) -/

/-- Whether an address range of a request meets `[base, base + size)`. -/
def rangeMeets (va len base size : Nat) : Bool := len == 0 || (decide (base < va + len) && decide (va < base + size))

/-- Whether a request names a cached translation. -/
def shootHits (s : Shootdown) (e : TlbEntry) : Bool :=
  (if pteG e.pte.toNat then s.g else s.all || e.asid == s.asid) && rangeMeets s.va s.len e.vbase e.size

/-- Whether a request names the page of a walk. -/
def shootWalk (s : Shootdown) (w : Walk) : Bool :=
  (s.all || s.g || w.asid == s.asid) && rangeMeets s.va s.len (w.va - w.va % 4096) 4096

/-- The numbers of the accesses of a core that may use translations of now. -/
def outstanding (k : Core) : List Nat :=
  k.accs.map (·.id) ++ ((k.ldq ++ k.sbank.ldq).filter fun e => !e.done).map (·.id)
    ++ (k.ss.ops.filter fun o => !o.spans.isEmpty).map (·.id) ++ k.ss.eng.map (·.cmd) ++ k.bups.map (·.stamp)

/-- Walks pending for a matching page start again, those that have started (R280 step 3). -/
def restartWalks (st : State) (d : Nat) (s : Shootdown) : State :=
  let (t, st) := draw st 1 65536
  modDie st d fun x => { x with walks := x.walks.map fun w => if shootWalk s w then { w with due := w.due.map fun _ => x.dtick + t } else w }

/-- Whether a request names the page of a ring: by its translation, or where it has none by the rings' ASID. -/
def shootsPage (st : State) (d : Nat) (s : Shootdown) (page : Nat) : Bool :=
  rangeMeets s.va s.len (4096 * page) 4096 &&
    match ringEntry st d (4096 * page) with
    | some e => if pteG e.pte.toNat then s.g else s.all || (dieOf st d).dbg.trasid == s.asid
    | none => s.all || (dieOf st d).dbg.trasid == s.asid

/-- The rings stop when a request invalidates the translation of a page of an enabled ring (the pages written last, and the first
that the request reaches, are asked), or of a page that a record awaits, while QACK is 0; the records that await such a page are
dropped (R353). -/
def shootRing (st : State) (d : Nat) (s : Shootdown) : State :=
  let g := (dieOf st d).dbg
  let hit := shootsPage st d s
  let inRing := fun (r : Nat × Nat) =>
    decide (0 < r.2) && ((max r.1 s.va :: g.rtlb.map fun e => max r.1 e.vbase).any fun va => decide (r.1 ≤ va) && decide (va < r.1 + r.2) && hit (va / 4096))
  let awaits := (ringPlaces g).any fun x => hit (x.2 / 4096)
  let on := (ringsOn g).any inRing
  let st := if bit g.trctl.toNat 6 || !(awaits || on) then st else ringFails st d hit
  modDieDbg st d fun g => { g with rtlb := g.rtlb.filter fun e => !shootHits s e }

/-- XLCMD: a request gets the next generation, the matching entries go, the matching walks start again (R280, R393). -/
def execXlcmd (d : Nat) (val : Word) (st : State) : Host.Outcome State Fault Refusal :=
  if numDies ≤ d then .fault .noSuchAgent
  else
    let (t, st) := draw st 0 4096
    let x := dieOf st d
    let waits := (dieCores st d).flatMap fun c => (outstanding (coreOf st c)).map fun i => (c, i)
    let s : Shootdown := { gen := x.xlgen + 1, asid := val.setWidth 16, all := val.getLsbD 16, g := val.getLsbD 17,
                           va := x.xlva.toNat, len := x.xllen.toNat, waits := waits, due := x.dtick + t }
    let keep := fun (l : List TlbEntry) => l.filter fun e => !shootHits s e
    let st := setDie st d { x with
      xlgen := s.gen, shoots := x.shoots ++ [s], tlb := keep x.tlb, ftlb := keep x.ftlb
      dctlb := (x.dctlb.map fun t => (t.1, keep t.2)).filter fun t => !t.2.isEmpty }
    let st := (dieCores st d).foldl (fun st c => modCore st c fun k => { k with utlb := keep k.utlb, ctlb := keep k.ctlb }) st
    .next (shootRing (restartWalks st d s) d s)

/-- Whether the oldest request of a die can be acknowledged: its accesses have performed. -/
def shootDone (st : State) (s : Shootdown) : Bool := s.waits.all fun w => !(outstanding (coreOf st w.1)).contains w.2

/-- SHOOTDOWN_ACK: the oldest request is acknowledged once its time has come and its accesses have performed (R280, R393). -/
def execShootdownAck (d : Nat) (st : State) : Host.Outcome State Fault Refusal :=
  if numDies ≤ d then .fault .noSuchAgent
  else
    let x := dieOf st d
    match x.shoots with
    | [] => .next st
    | s :: rest =>
      if s.due ≤ x.dtick ∧ shootDone st s = true then .next (setDie st d { x with shoots := rest, xlack := s.gen }) else .next st

/-! ### Stubs (R397) -/

/-- STUBSTAT: some core of the die still holds the old image. -/
def stubBusy (st : State) (d : Nat) : Bool := (dieCores st d).any fun c => (coreOf st c).stubNew.isSome

/-- STUBCMD: the die agent copies the image into the protected partition of every core of the die; a core in a stub takes it
at its next eret. -/
def execStubcmd (d : Nat) (st : State) : Host.Outcome State Fault Refusal :=
  if numDies ≤ d then .fault .noSuchAgent
  else if stubBusy st d then .next st
  else
    let image := (piecesOf 24 1024 (memSlice st.mem (dieOf st d).stubaddr.toNat 24576)).map fun b => BitVec.ofNat 192 (leNat b)
    .next ((List.range 192).foldl (fun st i =>
      let c := 192 * d + i
      let st := modCore st c fun k => { k with stubNew := some image }
      if stubDeferred (coreOf st c) then st else installStubs st c) st)

/-! ### The Postmaster's registers (R293) -/

/-- CANCEL by its level (R299). -/
def cancelAt (slot : BitVec 8) (val : Nat) (st : State) : Host.Outcome State Fault Refusal :=
  match val with
  | 0 => execCancelUnit slot st.pm.carg st
  | 1 => execCancelLaunch slot st.pm.carg st
  | 2 => execCancelPhase slot st.pm.carg st
  | 3 => execCancelGraph slot st.pm.carg st
  | 4 => execCancelJob slot st.pm.carg st
  | _ => .next (pmErr st)

/-- CMD (R293). -/
def cmdWrite (v : Word) (st : State) : Host.Outcome State Fault Refusal :=
  let slot := v.extractLsb' 52 8
  match bits v.toNat 63 60 with
  | 1 => execMapQueue slot (v.setWidth 48) st
  | 2 => execUnmap slot st
  | 3 => execPreempt slot st
  | 4 => execPrio slot (v.extractLsb' 48 4) st
  | 5 => cancelAt slot (bits v.toNat 51 48) st
  | 6 => execResume slot st.pm.carg st
  | op => execCmdReject (BitVec.ofNat 4 op) st

/-- A write at an offset of PMBASE. -/
def pmWrite (off : Nat) (v : Word) (st : State) : Host.Outcome State Fault Refusal :=
  let set := fun (p : Pm) => written { st with pm := p }
  let p := st.pm
  if 0x100000 ≤ off then
    if off % 4096 = 0 then execDoorbell (BitVec.ofNat 8 ((off - 0x100000) / 4096)) (v.setWidth 32) st else .next st
  else
    match off with
    | 0x00 => cmdWrite v st
    | 0x08 => set { p with carg := v }
    | 0x18 => set (if v.setWidth 8 = (0 : BitVec 8) then p else { p with agestep := v.setWidth 8 })
    | 0x20 => set (if bits v.toNat 4 0 = 0 ∨ 16 < bits v.toNat 4 0 then p else { p with prdelta := v.setWidth 5 })
    | 0x28 => set { p with dirbase := v }
    | 0x30 => set (if 4096 < v.toNat then p else { p with dirlen := v.setWidth 13 })
    | 0x40 => set { p with pbudget := v.setWidth 32 }
    | _ => .next st

/-! ### The debug module (R342) -/

/-- The selected harts of a die, as logical cores. -/
def selHarts (d : Nat) (g : DieDbg) : List Nat :=
  (if g.hasel then (g.hartsel :: g.hartMask).eraseDups else [g.hartsel]).filterMap fun i => if i < 192 then some (192 * d + i) else none

/-- dmcontrol: selection, haltreq, resumereq; dmactive 0 resets the module. -/
def dmControl (st : State) (d : Nat) (x : Nat) : State :=
  if !x.testBit 0 then
    modDieDbg st d fun g => { g with dmactive := false, hartsel := 0, hartMask := [], hasel := false, window := 0, cmderr := 0, command := 0, data := 0, grouptype := false }
  else
    let st := modDieDbg st d fun g =>
      { g with dmactive := true, hasel := x.testBit 26, hartsel := bits x 25 16 + bits x 15 6 * 1024 }
    let hs := selHarts d (dieOf st d).dbg
    if x.testBit 31 then hs.foldl (fun st c => nextOr st (execHaltreq c st)) st
    else
      let st := hs.foldl (fun st c => modDbg st c fun y => { y with haltreq := false }) st
      if x.testBit 30 then
        hs.foldl (fun st c => nextOr st (execResumereq c st)) (hs.foldl (fun st c => modDbg st c fun y => { y with resumed := false }) st)
      else st

/-- hawindow: 32 harts of the window. -/
def dmWindow (g : DieDbg) (x : Nat) : DieDbg :=
  let lo := 32 * g.window
  let mine := ((List.range 32).filter x.testBit).map (lo + ·)
  { g with hartMask := (g.hartMask.filter fun i => decide (i < lo) || decide (lo + 32 ≤ i)) ++ mine.filter (· < 192) }

/-- dmcs2: halt and resume groups of the selected harts; grouptype names the kind that is written and read. -/
def dmGroups (st : State) (d x : Nat) : State :=
  let st := modDieDbg st d fun g => { g with grouptype := x.testBit 11 }
  if x.testBit 1 && !x.testBit 0 then
    (selHarts d (dieOf st d).dbg).foldl (fun st c => modDbg st c fun y =>
      if x.testBit 11 then { y with rgroup := bits x 6 2 } else { y with group := bits x 6 2 }) st
  else st

/-- A write of a debug module register by its number; everything but dmcontrol needs dmactive. -/
def dmWrite (d r : Nat) (v : Word) (st : State) : Host.Outcome State Fault Refusal :=
  let x := v.toNat % 2 ^ 32
  let low := v.setWidth 32
  if r = 0x10 then .next (dmControl st d x)
  else if !(dieOf st d).dbg.dmactive then .next st
  else
    match r with
    | 0x04 => .next (modDieDbg st d fun g => { g with data := (g.data &&& 0xFFFFFFFF00000000) ||| BitVec.ofNat 64 x })
    | 0x05 => .next (modDieDbg st d fun g => { g with data := (g.data &&& 0xFFFFFFFF) ||| BitVec.ofNat 64 (x * 2 ^ 32) })
    | 0x14 => .next (modDieDbg st d fun g => { g with window := x % 2 ^ 15 })
    | 0x15 => .next (modDieDbg st d fun g => dmWindow g x)
    | 0x16 => .next (modDieDbg st d fun g => { g with cmderr := (BitVec.ofNat 3 g.cmderr &&& ~~~(BitVec.ofNat 3 (bits x 10 8))).toNat })
    | 0x17 => execAccessRegister d low (modDieDbg st d fun g => { g with command := low })
    | 0x32 => .next (dmGroups st d x)
    | _ => .next st

/-! ### Reading the debug module (R342; the layouts are those of the specification that R342 names) -/

/-- One summary bit for some and one for all of a list, at bits `i` and `i + 1`. -/
def anyAll (i : Nat) (l : List Bool) : Nat := b2n (l.any id) * 2 ^ i + b2n (!l.isEmpty && l.all id) * 2 ^ (i + 1)

/-- dmstatus of the selected harts: version 1.0, no authentication; a hart with no launch reports nonexistent. -/
def dmStatus (st : State) (d : Nat) : Nat :=
  let g := (dieOf st d).dbg
  let hs := (if g.hasel then (g.hartsel :: g.hartMask).eraseDups else [g.hartsel]).map fun i => (decide (i < 192), 192 * d + i)
  let live := fun (x : Bool × Nat) => x.1 && hartExists st x.2
  let halted := fun (x : Bool × Nat) => live x && (coreOf st x.2).run == .halted
  3 + 2 ^ 7 + anyAll 8 (hs.map halted) + anyAll 10 (hs.map fun x => live x && !halted x) + anyAll 14 (hs.map fun x => !live x)
    + anyAll 16 (hs.map fun x => live x && (coreOf st x.2).dbg.resumed)

/-- Whether hart `i` of a die is halted. -/
def hartHalted (st : State) (d i : Nat) : Bool :=
  decide (i < 192) && hartExists st (192 * d + i) && (coreOf st (192 * d + i)).run == .halted

/-- haltsum: bit `i` sums up the `n` harts from `base + n * i` on. -/
def haltSum (st : State) (d base n : Nat) : Nat :=
  (List.range 32).foldl (fun a i =>
    a + b2n ((List.range 192).any fun h => decide (base + n * i ≤ h) && decide (h < base + n * (i + 1)) && hartHalted st d h) * 2 ^ i) 0

/-- The value that a debug module register reads as, by its number; dmcontrol alone while the module is not active. -/
def dmRead (st : State) (d r : Nat) : Nat :=
  let g := (dieOf st d).dbg
  let k := coreOf st (192 * d + g.hartsel)
  match (if g.dmactive then r else if r = 0x10 then r else 0) with
  | 0x10 => b2n g.dmactive + g.hartsel % 1024 * 2 ^ 16 + g.hartsel / 1024 * 2 ^ 6 + b2n g.hasel * 2 ^ 26
  | 0x04 => g.data.toNat % 2 ^ 32
  | 0x05 => g.data.toNat / 2 ^ 32
  | 0x11 => dmStatus st d
  | 0x13 => haltSum st d (g.hartsel / 1024 * 1024) 32
  | 0x14 => g.window
  | 0x15 => g.hartMask.foldl (fun a i => if i / 32 = g.window then a + 2 ^ (i % 32) else a) 0
  | 0x16 => 2 + g.cmderr * 2 ^ 8
  | 0x17 => g.command.toNat
  | 0x32 => if g.grouptype then 2 ^ 11 + k.dbg.rgroup * 4 else k.dbg.group * 4
  | 0x34 => haltSum st d (g.hartsel / 32768 * 32768) 1024
  | 0x35 => haltSum st d 0 32768
  | 0x40 => haltSum st d (g.hartsel / 32 * 32) 1
  | _ => 0

/-- A ring size that is taken: a power of two from 4 KiB to 1 GiB (R341). -/
def ringSizeOk (v : Word) : Bool := (List.range 19).any fun i => v.toNat == 2 ^ (12 + i)

/-- TRCTL: WRAP and the enables, TRFAULT by writing one; QREQ is TRQUIESCE (R350, R353); without TRC the enables stay 0
(R403). -/
def ctlWrite (st : State) (d : Nat) (v : Word) : State :=
  let en : Word := if feature st 17 then v &&& 0xC else 0
  let st := modDieDbg st d fun g => { g with trctl := (g.trctl &&& 0x60) ||| en ||| (v &&& 0x10) |||
    (if v.getLsbD 7 then 0 else g.trctl &&& 0x80) }
  nextOr st (execTrquiesce d (v.getLsbD 5) st)

/-- A write at an offset of a die's debug block (R341). -/
def dbgBlockWrite (d off : Nat) (v : Word) (st : State) : Host.Outcome State Fault Refusal :=
  let ring := fun (f : DieDbg → DieDbg) =>
    written (modDieDbg st d fun g => if bit g.trctl.toNat 6 then f g else g)
  let set := fun (f : DieDbg → DieDbg) => written (modDieDbg st d f)
  if off < 0x200 then dmWrite d (off / 4) v st
  else
    match off with
    | 0x1000 => .next (ctlWrite st d v)
    | 0x1008 => ring fun g => { g with trbase := v &&& ~~~0xFFF }
    | 0x1010 => ring fun g => if ringSizeOk v then { g with trsize := v } else g
    | 0x1018 => ring fun g => { g with pkbase := v &&& ~~~0xFFF }
    | 0x1020 => ring fun g => if ringSizeOk v then { g with pksize := v } else g
    | 0x1028 => ring fun g => { g with trasid := v.setWidth 16 }
    | 0x1030 => set fun g => { g with trwp := v, trset := v }
    | 0x1038 => set fun g => { g with pkwp := v, pkset := v }
    | 0x1040 => set fun g => { g with trdrop := v }
    | 0x1048 => set fun g => { g with pkdrop := v }
    | 0x1050 => set fun g => { g with wxdrop := v }
    | _ => .next st

/-! ### The other blocks -/

/-- FABSTAT: RETRY and BLOST are written (R366). -/
def fabWrite (d off : Nat) (v : Word) (st : State) : State :=
  if off = 0 then modDie st d fun x => { x with retry := v.extractLsb' 48 16, blost := v.extractLsb' 8 8 } else st

/-- The translation service of a die (R393). -/
def xlWrite (d off : Nat) (v : Word) (st : State) : Host.Outcome State Fault Refusal :=
  match off with
  | 0x00 => .next (modDie st d fun x => { x with xlva := v })
  | 0x08 => .next (modDie st d fun x => { x with xllen := v })
  | 0x10 => execXlcmd d v st
  | _ => .next st

/-- The die agent (R397). -/
def agWrite (d off : Nat) (v : Word) (st : State) : Host.Outcome State Fault Refusal :=
  match off with
  | 0x00 => .next (modDie st d fun x => { x with stubaddr := v })
  | 0x08 => if v = 1 then execStubcmd d st else .next st
  | _ => .next st

/-- Key slots (R401). -/
def keyWrite (off : Nat) (v : Word) (st : State) : Host.Outcome State Fault Refusal :=
  if off = 0 then
    let post := v.getLsbD 61
    let slot := v.setWidth 10
    match bits v.toNat 63 62 with
    | 1 => execKeyLoad post slot st
    | 2 => execKeyGenerate post slot st
    | 3 => execKeyEmpty post slot st
    | _ => .next st
  else if 0x40 ≤ off ∧ off < 0x80 ∧ off % 8 = 0 then
    let i := 8 * (off - 0x40)
    .next (modHost st fun h =>
      { h with keyIn := (h.keyIn &&& ~~~((BitVec.ofNat 512 (2 ^ 64 - 1)) <<< i)) ||| (v.setWidth 512 <<< i) })
  else .next st

/-- Boot status, attestation, the request for a fatal error (R400, R408). -/
def secWrite (off : Nat) (v : Word) (st : State) : Host.Outcome State Fault Refusal :=
  if off = 0x08 then (if v = 1 then execAttestationRequest st else .next st)
  else if off = 0x20 then (if v = 1 then execFatalError 4 st else .next st)
  else if 0x100 ≤ off ∧ off < 0x130 ∧ off % 8 = 0 then
    .next (modHost st fun h =>
      let n := fillTo 48 h.nonce
      { h with nonce := n.take (off - 0x100) ++ leBytes 8 v.toNat ++ n.drop (off - 0x100 + 8) })
  else .next st

/-- Feature negotiation (R403): FWANT is fixed by the lock. -/
def featWrite (off : Nat) (v : Word) (st : State) : Host.Outcome State Fault Refusal :=
  if off = 0x40 then (if v.getLsbD 0 then execFlock st else .next st)
  else if 0x20 ≤ off ∧ off < 0x40 ∧ off % 8 = 0 ∧ st.host.locked = false then
    .next (modHost st fun h => { h with fwant := tset 0 h.fwant ((off - 0x20) / 8) v })
  else .next st

/-- REGISTER_WRITE: the host writes a device register (R4, R392); an unassigned address reaches nothing of the device. -/
def execRegisterWrite (addr : BitVec 48) (val : Word) (st : State) : Host.Outcome State Fault Refusal :=
  let a := addr.toNat
  let off := a - 0x800000000000
  if a < 0x800000000000 then .next st
  else if off < 0x200000 then pmWrite off val st
  else if 0x400000 ≤ off ∧ off < 0x440000 then dbgBlockWrite ((off - 0x400000) / 0x10000) (off % 0x10000) val st
  else if 0x500000 ≤ off ∧ off < 0x500400 then .next (fabWrite ((off - 0x500000) / 0x100) (off % 0x100) val st)
  else if 0x600000 ≤ off ∧ off < 0x604000 then xlWrite ((off - 0x600000) / 0x1000) (off % 0x1000) val st
  else if 0x700000 ≤ off ∧ off < 0x704000 then agWrite ((off - 0x700000) / 0x1000) (off % 0x1000) val st
  else if 0x800000 ≤ off ∧ off < 0x801000 then keyWrite (off % 0x1000) val st
  else if 0x900000 ≤ off ∧ off < 0x901000 then secWrite (off % 0x1000) val st
  else if 0xA00000 ≤ off ∧ off < 0xA01000 then featWrite (off % 0x1000) val st
  else if 0x10000000 ≤ off ∧ off < 0x20000000 then .next (modHost st fun h => { h with regs := tset 0 h.regs off val })
  else .next st

/-! ### What the host reads (R4, R392) -/

/-- The registers of PMBASE (R293, R334): CMD and the doorbells are write-only. -/
def pmRead (st : State) (off : Nat) : Nat :=
  let p := st.pm
  if 0x2000 ≤ off ∧ off < 0x2800 then slotStat st ((off - 0x2000) / 8)
  else
    match off with
    | 0x08 => p.carg.toNat
    | 0x10 => cmdStat st
    | 0x18 => p.agestep.toNat
    | 0x20 => p.prdelta.toNat
    | 0x28 => p.dirbase.toNat
    | 0x30 => p.dirlen.toNat
    | 0x38 => p.dbdrop.toNat
    | 0x40 => p.pbudget.toNat
    | _ => 0

/-- The debug block of a die (R341): the debug module, the rings, the lost ticks of its cores. -/
def dbgBlockRead (st : State) (d off : Nat) : Nat :=
  let g := (dieOf st d).dbg
  if off < 0x200 then dmRead st d (off / 4)
  else if 0x1800 ≤ off ∧ off < 0x1E00 then (coreOf st (192 * d + (off - 0x1800) / 8)).devt
  else
    match off with
    | 0x1000 => g.trctl.toNat
    | 0x1008 => g.trbase.toNat
    | 0x1010 => g.trsize.toNat
    | 0x1018 => g.pkbase.toNat
    | 0x1020 => g.pksize.toNat
    | 0x1028 => g.trasid.toNat
    | 0x1030 => g.trwp.toNat
    | 0x1038 => g.pkwp.toNat
    | 0x1040 => g.trdrop.toNat
    | 0x1048 => g.pkdrop.toNat
    | 0x1050 => g.wxdrop.toNat
    | _ => 0

/-- The translation service of a die (R393): XLCMD is write-only. -/
def xlRead (st : State) (d off : Nat) : Nat :=
  let x := dieOf st d
  match off with
  | 0x00 => x.xlva.toNat
  | 0x08 => x.xllen.toNat
  | 0x18 => x.xlack.toNat + x.xlgen.toNat * 2 ^ 32
  | _ => 0

/-- The die agent (R397): STUBSTAT reads 1 until every core of the die holds the new image. -/
def agRead (st : State) (d off : Nat) : Nat :=
  match off with
  | 0x00 => (dieOf st d).stubaddr.toNat
  | 0x10 => b2n (stubBusy st d)
  | _ => 0

/-- Feature negotiation (R403). -/
def featRead (st : State) (off : Nat) : Nat :=
  if off < 0x20 then (fsupp (off / 8)).toNat
  else if off < 0x40 then (tget 0 st.host.fwant ((off - 0x20) / 8)).toNat
  else if off = 0x40 then b2n st.host.locked
  else 0

/-- The governor (R407): the clock steps of the four dies, each at most 15, and the input power. -/
def govRead (st : State) (off : Nat) : Nat :=
  match off with
  | 0x00 => (List.range numDies).foldl (fun a d => a + min 15 (dieOf st d).clkStep * 16 ^ d) 0
  | 0x08 => st.host.watts
  | _ => 0

/-- The value that the host reads at an aligned address of device register space (R4, R392): a write-only register reads as zero. A load
of the host changes nothing and is no event (log 11). -/
def hostRead (st : State) (a : Nat) : Nat :=
  let off := a - 0x800000000000
  if a < 0x800000000000 then 0
  else if off < 0x200000 then pmRead st off
  else if 0x400000 ≤ off ∧ off < 0x440000 then dbgBlockRead st ((off - 0x400000) / 0x10000) (off % 0x10000)
  else if 0x500000 ≤ off ∧ off < 0x500400 then (if off % 0x100 = 0 then fabStat st ((off - 0x500000) / 0x100) else 0)
  else if 0x600000 ≤ off ∧ off < 0x604000 then xlRead st ((off - 0x600000) / 0x1000) (off % 0x1000)
  else if 0x700000 ≤ off ∧ off < 0x704000 then agRead st ((off - 0x700000) / 0x1000) (off % 0x1000)
  else if 0x800000 ≤ off ∧ off < 0x801000 then (if off % 0x1000 = 0x08 then b2n st.host.keyRun.isSome else 0)
  else if 0x900000 ≤ off ∧ off < 0x901000 then leNat ((List.range 8).map fun i => secByte st.host (off % 0x1000 + i))
  else if 0xA00000 ≤ off ∧ off < 0xA01000 then featRead st (off % 0x1000)
  else if 0xB00000 ≤ off ∧ off < 0xB01000 then govRead st (off % 0x1000)
  else if 0x10000000 ≤ off ∧ off < 0x20000000 then (tget 0 st.host.regs off).toNat
  else 0

end Sys2Proof.Machine
end

