-- ==== Sys2Proof/Machine/Postal.lean ====
section
/-! DEFINITION. Gwynsum Post (R381 to R385): packets, authentication, sequence, commands, data, acknowledgements, send rings. -/

namespace Sys2Proof.Machine

/-! ### Packets (R381, R382) -/

/-- LEN of a packet. -/
def pktLen (p : List Byte) : Nat := field p 12 4
/-- PSN. -/
def pktPsn (p : List Byte) : Nat := field p 8 4
/-- TGT. -/
def pktTgt (p : List Byte) : Nat := field p 16 8
/-- The payload. -/
def pktData (p : List Byte) : List Byte := (p.drop 32).take (pktLen p)

/-- A packet of a type with every field as R381 states it. -/
def pktShape (ty : Nat) (p : List Byte) : Bool :=
  field p 0 1 == 1 && field p 1 1 == ty && decide (field p 2 2 < 1024) && decide (pktLen p ≤ 8192) && p.length == 48 + pktLen p

/-- The nonce of R382. -/
def pktNonce (conn psn ty : Nat) : List Byte := leBytes 4 conn ++ leBytes 4 psn ++ leBytes 1 ty ++ [0, 0, 0]

/-- The tag of a header and payload under a key. -/
def pktTag (key : BitVec 512) (conn psn ty : Nat) (l : List Byte) : List Byte :=
  gmac (leBytes 32 key.toNat) (pktNonce conn psn ty) l

/-- A packet to a peer. -/
def makePkt (key : BitVec 512) (ty : Nat) (kslot : BitVec 10) (conn psn tgt aux : Nat) (payload : List Byte) : List Byte :=
  let l := leBytes 1 1 ++ leBytes 1 ty ++ leBytes 2 kslot.toNat ++ leBytes 4 conn ++ leBytes 4 psn ++ leBytes 4 payload.length
    ++ leBytes 8 tgt ++ leBytes 8 aux ++ payload
  l ++ pktTag key conn psn ty l

/-- The Post key of a slot (R382). -/
def postKey (st : State) (slot : BitVec 10) : KeySlot := tget none st.host.pkeys slot.toNat

/-- What becomes of an arriving packet: dropped, dropped and counted, or taken on a connection. -/
inductive Arrival where
  | drop
  | count
  | take (i : Nat) (c : Conn)
  deriving DecidableEq, Repr

/-- The checks of R381 and R382. -/
def arrival (st : State) (ty : Nat) (p : List Byte) : Arrival :=
  if !pktShape ty p then .drop
  else
    let i := field p 4 4
    match tget none st.post.conns i with
    | none => .count
    | some c =>
      if c.kslot.toNat ≠ field p 2 2 then .count
      else
        match postKey st c.kslot with
        | none => .count
        | some key => if p.drop (32 + pktLen p) = pktTag key i (pktPsn p) ty (p.take (32 + pktLen p)) then .take i c else .count

/-- Changing Post. -/
def modPost (st : State) (f : Post → Post) : State := { st with post := f st.post }

/-- Changing a connection. -/
def modConn (st : State) (i : Nat) (f : Conn → Conn) : State :=
  modPost st fun p => { p with conns := tset none p.conns i ((tget none p.conns i).map f) }

/-- A packet is dropped and counted. -/
def dropPkt (st : State) : State := modPost st fun p => { p with dropped := p.dropped + 1 }

/-- A packet leaves to a connection's peer. -/
def sendPkt (st : State) (c : Conn) (p : List Byte) : State := modPost st fun x => { x with out := x.out ++ [(c.peer, p)] }

/-- A reply: ACK with the cumulative PSN, or NAK with its reason (R381, R383). -/
def reply (st : State) (c : Conn) (ty psn tgt : Nat) : State :=
  match postKey st c.kslot with
  | some key => sendPkt st c (makePkt key ty c.kslot c.peer.toNat psn tgt 0 [])
  | none => st

/-- A packet in sequence is accepted and acknowledged (R383). -/
def acceptPkt (st : State) (i : Nat) (c : Conn) (psn : Nat) : State :=
  reply (modConn st i fun c => { c with expect := BitVec.ofNat 32 (psn + 1) }) c 3 psn psn

/-- A packet is refused with a reason: 1 FULL, 2 BOUNDS, 3 NOTOWNED. -/
def refusePkt (st : State) (c : Conn) (psn reason : Nat) : State := reply st c 4 psn (psn + reason * 2 ^ 32)

/-! ### Commands (R384) -/

/-- The record that a directory index names (R293). -/
def dirRecord (st : State) (i : Nat) : Nat := memNat st.mem (st.pm.dirbase.toNat + 8 * i) 8

/-- The slot that holds a record. -/
def slotHolding (st : State) (r : Nat) : Option Nat := (st.pm.slots.find? fun x => x.2.recAddr == some r).map (·.1)

/-- HEAD and TAIL of a queue, from its slot or its record. -/
def queueEnds (st : State) (r : Nat) : BitVec 32 × BitVec 32 :=
  match slotHolding st r with
  | some q => ((slotOf st q).head, (slotOf st q).tail)
  | none => (BitVec.ofNat 32 (fld st r 24 4), BitVec.ofNat 32 (fld st r 28 4))

/-- The new TAIL reaches the slot's doorbell, or the record with PN (R384 step 3). -/
def ringQueue (st : State) (r : Nat) (tail : BitVec 32) : State :=
  match slotHolding st r with
  | some q => nextOr st (execDoorbell (BitVec.ofNat 8 q) tail st)
  | none => sysStore (sysStore st (r + 28) (leBytes 4 tail.toNat)) (r + 18) (leBytes 1 (fld st r 18 1 ||| 2))

/-- The entries of a command enter a queue, or the packet is refused. -/
def takeCommand (st : State) (i : Nat) (c : Conn) (p : List Byte) : State :=
  let psn := pktPsn p
  let n := bits (pktTgt p) 63 48
  let ix := bits (pktTgt p) 11 0
  let r := dirRecord st ix
  if st.pm.dirlen.toNat ≤ ix ∨ fld st (recCtx st r) 16 8 ≠ c.job.toNat then refusePkt st c psn 3
  else
    let (head, tail) := queueEnds st r
    if ringSize st r < (tail - head).toNat + n then refusePkt st c psn 1
    else
      let st := (List.range n).foldl (fun st k => sysStore st (entryAt st r (tail.toNat + k)) (bytesAt (pktData p) (64 * k) 64)) st
      acceptPkt (ringQueue st r (tail + BitVec.ofNat 32 n)) i c psn

/-- POST_COMMAND: a COMMAND packet (R384). -/
def execPostCommand (port : Nat) (pkt : List Byte) (st : State) : Host.Outcome State Fault Refusal :=
  if 8 ≤ port then .fault .noSuchAgent
  else if !feature st 18 then .next st
  else
    match arrival st 1 pkt with
    | .drop => .next st
    | .count => .next (dropPkt st)
    | .take i c =>
      let n := bits (pktTgt pkt) 63 48
      if pktPsn pkt ≠ c.expect.toNat ∨ n = 0 ∨ 16 < n ∨ pktLen pkt ≠ 64 * n ∨ bits (pktTgt pkt) 47 12 ≠ 0 then .next st
      else .next (takeCommand st i c pkt)

/-! ### Data (R385) -/

/-- A barrier in a core's scratchpad is decremented by one (R27, R385). -/
def decBarrier (st : State) (pa : Nat) : State :=
  match target pa with
  | .scratch o _ => nextStamp (sendBar st o pa (.dec 1) 0 0 st.stamp)
  | _ => st

/-- A DATA packet is written at its offset of its region, or refused. -/
def takeData (st : State) (i : Nat) (c : Conn) (p : List Byte) : State :=
  let psn := pktPsn p
  let off := bits (pktTgt p) 39 0
  match c.regions.find? fun r => r.handle == bits (pktTgt p) 63 40 with
  | none => refusePkt st c psn 2
  | some r =>
    if r.size < off + pktLen p then refusePkt st c psn 2
    else
      let st := sysStore st (r.base + off) (pktData p)
      let st := if (field p 24 8).testBit 0 then decBarrier st r.barrier else st
      acceptPkt st i c psn

/-- POST_DATA: a DATA packet (R385). -/
def execPostData (port : Nat) (pkt : List Byte) (st : State) : Host.Outcome State Fault Refusal :=
  if 8 ≤ port then .fault .noSuchAgent
  else if !feature st 19 then .next st
  else
    match arrival st 2 pkt with
    | .drop => .next st
    | .count => .next (dropPkt st)
    | .take i c => if pktPsn pkt ≠ c.expect.toNat then .next st else .next (takeData st i c pkt)

/-! ### Acknowledgements (R383, R385) -/

/-- Whether a cumulative ACK covers a packet. -/
def ackCovers (cum psn : Nat) : Bool := decide (serial psn cum ≤ 0)

/-- POST_ACK: the covered packets leave the sender's list, and the barriers of the messages that they end are decremented. -/
def execPostAck (port : Nat) (pkt : List Byte) (st : State) : Host.Outcome State Fault Refusal :=
  if 8 ≤ port then .fault .noSuchAgent
  else
    match arrival st 3 pkt with
    | .drop => .next st
    | .count => .next (dropPkt st)
    | .take i c =>
      let done := c.unacked.filter fun x => ackCovers (pktTgt pkt % 2 ^ 32) x.1.toNat
      let now := refTick st
      let st := modConn st i fun c =>
        { c with unacked := c.unacked.filter fun x => !ackCovers (pktTgt pkt % 2 ^ 32) x.1.toNat
                 lastAck := if done.isEmpty then c.lastAck else now }
      .next ((done.filterMap fun x => x.2.2).foldl decBarrier st)

/-- POST_NAK: a refusal is reported to the host; the packet stays with its sender. -/
def execPostNak (port : Nat) (pkt : List Byte) (st : State) : Host.Outcome State Fault Refusal :=
  if 8 ≤ port then .fault .noSuchAgent
  else
    match arrival st 4 pkt with
    | .drop => .next st
    | .count => .next (dropPkt st)
    | .take i _ => .next (report st (.nak (BitVec.ofNat 32 i) (BitVec.ofNat 32 (pktTgt pkt)) (bits (pktTgt pkt) 39 32)))

/-! ### Sending (R385) -/

/-- A byte as published at system scope: the newest write of that scope, else what the phase of core `c` began with. -/
def publishedByte (st : State) (c a : Nat) : Byte :=
  let (snap, s0) := snapOf st c
  match st.wlog.find? fun r => decide (s0 ≤ r.seq) && recHas r a && r.pub == some .s with
  | some r => recByte r a
  | none => memByte snap a

/-- A little-endian number as published at system scope. -/
def publishedNat (st : State) (c a n : Nat) : Nat := leNat ((List.range n).map fun i => publishedByte st c (a + i))

/-- Bytes of a message's source, page by page under the core's context; none where a translation fails. -/
def postRead (c : Nat) : Nat → State → Nat → Nat → List (List Byte) → Option (List Byte) × State
  | 0, st, _, _, acc => (some acc.reverse.flatten, st)
  | fuel + 1, st, va, len, acc =>
    if len = 0 then (some acc.reverse.flatten, st)
    else
      let n := min len (4096 - va % 4096)
      match satXlate st c va false with
      | (none, st) => (none, st)
      | (some (pa, key), st) =>
        let bs := (List.range n).map fun i => keyedByte st key (publishedByte st c) (pa + i)
        postRead c fuel st (va + n) (len - n) (bs :: acc)

/-- The next packet of a connection is sent and kept until it is acknowledged. -/
def sendData (st : State) (i : Nat) (c : Conn) (key : BitVec 512) (tgt : Nat) (last : Bool) (bar : Nat) (l : List Byte) : State :=
  match tget none st.post.conns i with
  | none => st
  | some now =>
    let p := makePkt key 2 c.kslot c.peer.toNat now.nextPsn.toNat tgt (b2n last) l
    let t := refTick st
    sendPkt (modConn st i fun x =>
      { x with nextPsn := x.nextPsn + 1, lastAck := if x.unacked.isEmpty then t else x.lastAck
               unacked := x.unacked ++ [(now.nextPsn, p, if last then some bar else none)] }) c p

/-- The message of one descriptor; false where it has to wait. -/
def sendMessage (st : State) (i : Nat) (c : Conn) (r : SendRing) (d : List Byte) : Bool × State :=
  let len := field d 16 8
  match postKey st c.kslot, postRead r.core (pagesOf len) st (field d 8 8) len [] with
  | none, _ => (false, st)
  | _, (none, st) => (false, st)
  | some key, (some l, st) =>
    let n := max 1 ((len + 8191) / 8192)
    let bar := windowBase r.core + localOff (field d 24 8)
    (true, (List.range n).foldl (fun st k =>
      sendData st i c key (field d 0 8 + 8192 * k) (k + 1 == n) bar (bytesAt l (8192 * k) 8192)) st)

/-- The descriptors of a ring up to its TAIL. -/
def drainRing (i j : Nat) (tail : Nat) : Nat → State → State
  | 0, st => st
  | fuel + 1, st =>
    match (tget none st.post.conns i).bind fun c => (c.rings[j]?).map fun r => (c, r) with
    | none => st
    | some (c, r) =>
      if tail ≤ r.taken then st
      else
        let d := (List.range 32).map fun i => publishedByte st r.core (r.ring + 32 * (r.taken % r.size) + i)
        match sendMessage st i c r d with
        | (false, st) => st
        | (true, st) =>
          drainRing i j tail fuel (modConn st i fun c => { c with rings := c.rings.modify j fun r => { r with taken := r.taken + 1 } })

/-- POST_SEND_POLL: the I/O dies read every registered TAIL word, as published at system scope, and send what it covers (R385). -/
def execPostSendPoll (st : State) : Host.Outcome State Fault Refusal :=
  let st := modPost st fun p => { p with lastPoll := refTick st }
  .next (st.post.conns.foldl (fun st x =>
    match x.2 with
    | none => st
    | some c => (c.rings.zipIdx).foldl (fun st r =>
        let tail := publishedNat st r.1.core r.1.tailAddr 8
        drainRing x.1 r.2 tail (min (tail - r.1.taken) r.1.size) st) st) st)

/-- The host registers a connection, with its receive regions and send rings, or takes it away (R383, R385; log 48). -/
def execPostRegister (conn : BitVec 32) (c : Option Conn) (st : State) : Host.Outcome State Fault Refusal :=
  .next (modPost st fun p => { p with conns := tset none p.conns conn.toNat c })

/-- The ticks after which unacknowledged packets are sent again: 20 µs (R383; log 16). -/
def resendTicks : Nat := nsTicks 20000

/-- POST_RESEND_TIMEOUT: 20 µs without progress, and every unacknowledged packet is sent again from the oldest (R383). -/
def execPostResendTimeout (conn : BitVec 32) (st : State) : Host.Outcome State Fault Refusal :=
  let i := conn.toNat
  match tget none st.post.conns i with
  | none => .next st
  | some c =>
    let now := refTick st
    if c.unacked.isEmpty ∨ now < c.lastAck + resendTicks then .next st
    else .next (c.unacked.foldl (fun st x => sendPkt st c x.2.1) (modConn st i fun c => { c with lastAck := now }))

end Sys2Proof.Machine
end

