-- ==== Sys2Proof/Machine/Schedule.lean ====
section
/-! DEFINITION. What happens in a tick of a die, in order (R63, R267; log 5): the events of its cores, engines and agents, and the
work of the Postmaster when the package reference advances (R292, R367). -/

namespace Sys2Proof.Machine

/-- An event, if a condition holds. -/
def evIf (b : Bool) (e : Event) : List Event := if b then [e] else []

/-! ### Agents of a tick -/

/-- Whether a core takes part in a tick: it has a launch and is not frozen (R266) or dead (R408). -/
def ticksNow (k : Core) : Bool := k.launch.isSome && k.freeze == 0 && k.run != .dead

/-- Whether the courier of queue `q` of core `c` is frozen (R266): a die courier by its own freeze. -/
def courierFrozen (st : State) (c q : Nat) : Bool :=
  if q < 4 then (coreOf st c).freeze != 0 else tget 0 (dieOf st (dieIx c)).dcfreeze (courierIx c q) != 0

/-- The head of a queue is a stream add. -/
def headAdds (x : Queue) : Bool := (x.cmds.head?.map (·.op)) == some 0x0A

/-- The head of a queue is a reduction, whose lines perform as atomics (R132, R238). -/
def headReduces (x : Queue) : Bool := (x.cmds.head?.map (·.op)) == some 0x0B

/-- The queues of a core in a range that an event of theirs may concern. -/
def queuesWith (st : State) (c lo : Nat) (p : Queue → Bool) : List Nat :=
  ((List.range 4).map (lo + ·)).filter fun q => !courierFrozen st c q && p (queueOf (coreOf st c) q)

/-- The courier events of one kind, cores ascending, queues ascending. -/
def courierEvents (st : State) (cs : List Nat) (lo : Nat) (p : Queue → Bool) (e : Nat → Nat → Event) : List Event :=
  cs.flatMap fun c => (queuesWith st c lo p).map (e c)

/-- The engines of MX have something to do. -/
def mxBusy (m : Mx) : Bool := m.running.isSome || !m.queue.isEmpty

/-! ### The parts of a tick -/

/-- Freezes that end with this tick; of a core, also the first of two (R266, R357). -/
def thawEvents (st : State) (d : Nat) : List Event :=
  let x := dieOf st d
  ((dieCores st d).filter fun c => (coreOf st c).freeze % freezeTicks == 1).map (fun c => .freezeEnd (.core c))
    ++ (x.dcfreeze.filter fun y => y.2 == 1).map (fun y => .freezeEnd (.dieCourier d y.1))
    ++ evIf (x.ffreeze == 1) (.freezeEnd (.fuller d))

/-- What reaches the die: beacons, stale estimates, flits, walks, shootdowns (R243, R278, R280, R369, R370). -/
def arrivalEvents (st : State) (d : Nat) : List Event :=
  let x := dieOf st d
  evIf (x.beacons.any fun b => decide (b.due ≤ x.dtick)) (.beaconReceive d)
    ++ ((otherDies d).filter fun j => decide (staleTicks ≤ (estOf x j).age) && !(estOf x j).stale).map (.estimateStale d ·)
    ++ evIf (x.phFlits.any fun f => decide (f.due ≤ refTick st)) (.pigeonholeFlitLand d)
    ++ evIf ((x.walks.any fun w => w.due.all fun t => decide (t ≤ x.dtick)) || !(preloaders st d).isEmpty) (.translationWalkComplete d)
    ++ evIf (!x.shoots.isEmpty) (.shootdownAck d)

/-- What the engines read and start (R182, R183, R190, R229). -/
def engineStarts (st : State) (cs cq : List Nat) : List Event :=
  (cs.flatMap fun c =>
    let m := (coreOf st c).mx
    evIf (!m.scales.isEmpty) (.scaleLatchLoad c) ++ evIf (mxBusy m) (.mxCommandStart c) ++ evIf (mxBusy m) (.drainRowRead c))
    ++ courierEvents st cq 0 (fun x => x.running.isNone && !x.cmds.isEmpty) .courierCommandStart
    ++ courierEvents st cq 4 (fun x => x.running.isNone && !x.cmds.isEmpty) .courierCommandStart

/-- What performs, in the rank of R267: AG stores, core couriers, die couriers, drain rows, the Fuller, blocks of the stream
engine; then the atomics of cores and of reductions (R132) and the barriers of the die (R27). A phrecv, which ranks first, copies
as the tick begins, before all of them (log 5). -/
def performEvents (st : State) (d : Nat) (cs cq : List Nat) : List Event :=
  let land := fun (x : Queue) => !x.cmds.isEmpty && !headAdds x && !headReduces x
  let core := fun (p : Core → Bool) (e : Nat → Event) => (cs.filter fun c => p (coreOf st c)).map e
  let x := dieOf st d
  core (fun k => !k.accs.isEmpty) .storePerform
    ++ courierEvents st cq 0 land .courierLineLand ++ courierEvents st cq 4 land .courierLineLand
    ++ core (fun k => !k.mx.rows.isEmpty) .drainRowWrite
    ++ evIf (x.ffreeze == 0 && (x.frun.isSome || !x.fq.isEmpty)) (.fullerCardRun d)
    ++ evIf (x.ffreeze == 0 && !x.fq.isEmpty) (.fullerRoutineLoad d)
    ++ evIf (x.ffreeze == 0 && (x.frun.isSome || !x.fq.isEmpty)) (.fullerCardComplete d)
    ++ core (fun k => !k.ss.eng.isEmpty) .ssBlockMove
    ++ core (fun k => !k.accs.isEmpty) .atomicPerform
    ++ courierEvents st cq 0 headReduces .courierLineLand ++ courierEvents st cq 4 headReduces .courierLineLand
    ++ evIf (st.cores.any fun y => !y.2.bups.isEmpty) (.barrierUpdate d)

/-- The stream stores: flits that perform and arrive, operations that act, results (R202, R209, R237). -/
def streamEvents (st : State) (cs cq : List Nat) : List Event :=
  let core := fun (p : Core → Bool) (e : Nat → Event) => (cs.filter fun c => p (coreOf st c)).map e
  core (fun k => !k.ss.dieQ.isEmpty || !k.ss.pkgQ.isEmpty) .streamFlitPerform
    ++ courierEvents st cq 0 headAdds .streamFlitAccept ++ courierEvents st cq 4 headAdds .streamFlitAccept
    ++ core (fun k => !k.ss.ops.isEmpty) .ssAct ++ core (fun k => !k.ss.eng.isEmpty || !k.ss.ops.isEmpty) .ssEngineComplete
    ++ core (fun k => !k.flight.isEmpty) .resultDelivery

/-- Load data, publishes and notices (R126, R133, R138, R264). -/
def accessEvents (st : State) (cs : List Nat) : List Event :=
  let core := fun (p : Core → Bool) (e : Nat → Event) => (cs.filter fun c => p (coreOf st c)).map e
  let busy := fun (k : Core) => !k.accs.isEmpty || !k.ldq.isEmpty || !k.sbank.ldq.isEmpty
  core (fun k => !k.pubs.isEmpty) .pubComplete ++ (if st.bars.isEmpty then [] else cs.map .genNotice)
    ++ core busy .loadDataReady ++ core busy .openAccessTimeout ++ core busy .accessDeadlineMiss

/-- What ends in the tick (R183, R195). -/
def endEvents (st : State) (cs : List Nat) : List Event :=
  let core := fun (p : Core → Bool) (e : Nat → Event) => (cs.filter fun c => p (coreOf st c)).map e
  core (fun k => mxBusy k.mx) .mxCommandEnd ++ core (fun k => !k.mx.arriving.isEmpty || (List.range 8).any fun q => !(queueOf k q).cmds.isEmpty) .followOnArrive

/-- The launches that may start on this tick's ATICK (R305). -/
def startEvents (st : State) : List Event :=
  ((st.pm.slots.filter fun x => holding x.2).map (·.1)).map fun q => .launchStart (BitVec.ofNat 8 q)

/-- Issue: asynchronous events, group halts, which reach a frozen core too, and bundles, core by core (R65, R322, R344). -/
def issueEvents (st : State) (cs cq : List Nat) : List Event :=
  ((cq.filter fun c => !cs.contains c && (coreOf st c).dbg.haltAt.isSome).map .haltGroupHalt)
    ++ cs.flatMap fun c =>
    let k := coreOf st c
    evIf (!k.wx.isEmpty || !k.pendEv.isEmpty || k.dbg.haltAt == some 0) (.asyncEventDelivery c)
      ++ evIf k.dbg.haltAt.isSome (.haltGroupHalt c)
      ++ (if k.held.isSome then [.phlate c] else [])
      ++ evIf (k.run == .run || k.run == .ready) (.bundleIssue c)

/-- The agents of the die that act beside the cores: beacons, scrubber, trace unit, retries, saves, yields (R301, R332, R337,
R338, R352, R368, R377). -/
def agentEvents (st : State) (d : Nat) (cs cq : List Nat) : List Event :=
  let x := dieOf st d
  let retry := x.dtick % 14400 == 0
  let faulted := fun (y : Queue) => y.faulted
  let saves := fun (k : Core) => k.run ∈ [.parking, .settling, .parked] || (k.run == .ended && (k.stopReq || k.stopNow))
  evIf (x.dtick % 64 == 0) (.beaconSend d) ++ evIf (x.dtick % 2 ^ 20 == 0) (.pigeonholeScrub d)
    ++ evIf (!x.dbg.buffer.isEmpty) (.traceRingWrite d)
    ++ (if retry then courierEvents st cq 0 faulted .courierQueuePoll ++ courierEvents st cq 4 faulted .courierQueuePoll
        ++ evIf (x.frun.any fun r => r.halted.isSome) (.fullerFaultRetry d) else [])
    ++ (cs.filter fun c => saves (coreOf st c)).map .satchelSave

/-- The wait of a held bundle has lasted as long as R301 allows a resident core. -/
def heldTooLong (st : State) (c : Nat) : Bool :=
  match (coreOf st c).held with
  | some h => h.cause ∈ [.tbwait, .tkaln, .wpwait, .phrecv, .fjwait, .sfence, .doneWin]
      && decide (65536 ≤ (dieOf st (dieIx c)).dtick - h.since)
  | none => false

/-- The resident halves of time-sliced pairs that give way: held too long, or with nothing to run (R301). -/
def yieldEvents (st : State) (d : Nat) : List Event :=
  (((List.range 192).map (192 * d + ·)).filter fun c =>
    let k := coreOf st c
    k.resident && ((k.run == .run && heldTooLong st c) || k.launch.isNone || k.run == .ended)
      && match partnerOf st c with
         | some p => waitsForTurn st p
         | none => false).map .timeSliceYield

/-- Everything of a tick of die `d`. DESIGN CHOICE (log 44): as engines start before cores do, the matrix array starts its head command
after a restore one tick after the first issue tick where a launch start begins it, and in that tick where the core resumes
already bound (R199). -/
def dieEvents (st : State) (d : Nat) : List Event :=
  let cq := (dieCores st d).filter fun c => (coreOf st c).launch.isSome && (coreOf st c).run != .dead
  let cs := cq.filter fun c => ticksNow (coreOf st c)
  thawEvents st d ++ arrivalEvents st d ++ engineStarts st cs cq ++ performEvents st d cs cq ++ streamEvents st cs cq
    ++ accessEvents st cs ++ endEvents st cs ++ startEvents st ++ issueEvents st cs cq ++ agentEvents st d cs cq ++ yieldEvents st d

/-! ### The Postmaster and Post -/

/-- The work on one slot. -/
def slotEvents (q : Nat) (s : Slot) : List Event :=
  let b := BitVec.ofNat 8 q
  evIf (s.state == .mapped && s.head != s.tail) (.queueSignal b)
    ++ (if holding s then
      (List.range ((s.graph.map fun g => g.launches.length).getD 0)).map (.reorderWindowReport b ·)
        ++ [.preemptBudgetExpire b, .phaseReplay b, .phaseEnd b]
    else [])

/-- A slot whose graph stands between two phases. -/
def waitsForBanks (s : Slot) : Bool :=
  s.state ∈ [.running, .draining] && s.graph.any fun g => g.launches.isEmpty && !g.stuck

/-- What happens when REF advances: slots, a round, the selected slot's bind, the scan every 4 µs, Post (R290 to R296, R383,
R385; log 16). -/
def packageEvents (st : State) : List Event :=
  let now := refTick st
  (st.pm.slots.flatMap fun x => slotEvents x.1 x.2)
    ++ evIf (st.pm.slots.any fun x => eligible st x.2 || x.2.state == .selected) .selectionRound
    ++ (st.pm.slots.flatMap fun x => evIf (x.2.state == .selected || eligible st x.2 || waitsForBanks x.2) (.bind (BitVec.ofNat 8 x.1)))
    ++ evIf (now % 14400 == 0 && st.pm.dirlen != 0) .directoryScan
    ++ evIf (!st.post.conns.isEmpty && decide (st.post.lastPoll + 3600 ≤ now)) .postSendPoll
    ++ (st.post.conns.filter fun x => x.2.any fun c => !c.unacked.isEmpty && decide (c.lastAck + resendTicks ≤ now)).map
        (fun x => .postResendTimeout (BitVec.ofNat 32 x.1))

/-- TICK: die `d` counts, and what this tick holds is to happen (R28); after a fatal error nothing does (R408). -/
def execTick (d : Nat) (st : State) : Host.Outcome State Fault Refusal :=
  if numDies ≤ d then .fault .noSuchAgent
  else
    let r := refTick st
    let st := advanceTick st d
    if st.host.fatal.isSome then .next st
    else
      let st := endKey (showReport st)
      .next { st with agenda := st.agenda ++ dieEvents st d ++ (if r < refTick st then packageEvents st else []) }

end Sys2Proof.Machine
end

