-- ==== Sys2Proof/Machine/Dispatch.lean ====
section
/-! DEFINITION. The meaning of every instruction, one arm per constructor. -/

namespace Sys2Proof.Machine

def exec (i : Instr) (s : State) : Host.Outcome State Fault Refusal :=
  match i with
  | .move n g src d => Sys2Proof.Machine.execMove n g src d s
  | .limm n g d => Sys2Proof.Machine.execLimm n g d s
  | .limmu n g d => Sys2Proof.Machine.execLimmu n g d s
  | .jmp n g src => Sys2Proof.Machine.execJmp n g src s
  | .jmpi n g src => Sys2Proof.Machine.execJmpi n g src s
  | .call n g src => Sys2Proof.Machine.execCall n g src s
  | .calli n g src => Sys2Proof.Machine.execCalli n g src s
  | .ret n g src => Sys2Proof.Machine.execRet n g src s
  | .loop n g src => Sys2Proof.Machine.execLoop n g src s
  | .leave n g src => Sys2Proof.Machine.execLeave n g src s
  | .waitc n g src => Sys2Proof.Machine.execWaitc n g src s
  | .nextt n g src => Sys2Proof.Machine.execNextt n g src s
  | .donet n g src => Sys2Proof.Machine.execDonet n g src s
  | .sysc n g src => Sys2Proof.Machine.execSysc n g src s
  | .eret n g src => Sys2Proof.Machine.execEret n g src s
  | .brk n g src => Sys2Proof.Machine.execBrk n g src s
  | .csrr n g src => Sys2Proof.Machine.execCsrr n g src s
  | .csrw n g src => Sys2Proof.Machine.execCsrw n g src s
  | .csrs n g src => Sys2Proof.Machine.execCsrs n g src s
  | .csrc n g src => Sys2Proof.Machine.execCsrc n g src s
  | .ifence n g src => Sys2Proof.Machine.execIfence n g src s
  | .pmark n g src => Sys2Proof.Machine.execPmark n g src s
  | .add n g src u => Sys2Proof.Machine.execAdd n g src u s
  | .sub n g src u => Sys2Proof.Machine.execSub n g src u s
  | .mul n g src u => Sys2Proof.Machine.execMul n g src u s
  | .mulh n g src u => Sys2Proof.Machine.execMulh n g src u s
  | .mulhu n g src u => Sys2Proof.Machine.execMulhu n g src u s
  | .div n g src u => Sys2Proof.Machine.execDiv n g src u s
  | .divu n g src u => Sys2Proof.Machine.execDivu n g src u s
  | .rem n g src u => Sys2Proof.Machine.execRem n g src u s
  | .remu n g src u => Sys2Proof.Machine.execRemu n g src u s
  | .iaAnd n g src u => Sys2Proof.Machine.execIaAnd n g src u s
  | .iaOr n g src u => Sys2Proof.Machine.execIaOr n g src u s
  | .iaXor n g src u => Sys2Proof.Machine.execIaXor n g src u s
  | .andn n g src u => Sys2Proof.Machine.execAndn n g src u s
  | .shl n g src u => Sys2Proof.Machine.execShl n g src u s
  | .shr n g src u => Sys2Proof.Machine.execShr n g src u s
  | .sar n g src u => Sys2Proof.Machine.execSar n g src u s
  | .rol n g src u => Sys2Proof.Machine.execRol n g src u s
  | .clz n g src u => Sys2Proof.Machine.execClz n g src u s
  | .ctz n g src u => Sys2Proof.Machine.execCtz n g src u s
  | .popc n g src u => Sys2Proof.Machine.execPopc n g src u s
  | .iaMin n g src u => Sys2Proof.Machine.execIaMin n g src u s
  | .iaMax n g src u => Sys2Proof.Machine.execIaMax n g src u s
  | .minu n g src u => Sys2Proof.Machine.execMinu n g src u s
  | .maxu n g src u => Sys2Proof.Machine.execMaxu n g src u s
  | .sext n g src u => Sys2Proof.Machine.execSext n g src u s
  | .zext n g src u => Sys2Proof.Machine.execZext n g src u s
  | .cmpeq n g src u => Sys2Proof.Machine.execCmpeq n g src u s
  | .cmpne n g src u => Sys2Proof.Machine.execCmpne n g src u s
  | .cmplt n g src u => Sys2Proof.Machine.execCmplt n g src u s
  | .cmpltu n g src u => Sys2Proof.Machine.execCmpltu n g src u s
  | .cmple n g src u => Sys2Proof.Machine.execCmple n g src u s
  | .cmpleu n g src u => Sys2Proof.Machine.execCmpleu n g src u s
  | .sel n g src u => Sys2Proof.Machine.execSel n g src u s
  | .bfx n g src u => Sys2Proof.Machine.execBfx n g src u s
  | .bfi n g src u => Sys2Proof.Machine.execBfi n g src u s
  | .madd n g src u => Sys2Proof.Machine.execMadd n g src u s
  | .lea n g src u => Sys2Proof.Machine.execLea n g src u s
  | .abs n g src u => Sys2Proof.Machine.execAbs n g src u s
  | .ldB n g src => Sys2Proof.Machine.execLdB n g src s
  | .ldBu n g src => Sys2Proof.Machine.execLdBu n g src s
  | .ldH n g src => Sys2Proof.Machine.execLdH n g src s
  | .ldHu n g src => Sys2Proof.Machine.execLdHu n g src s
  | .ldW n g src => Sys2Proof.Machine.execLdW n g src s
  | .ldWu n g src => Sys2Proof.Machine.execLdWu n g src s
  | .ldD n g src => Sys2Proof.Machine.execLdD n g src s
  | .stB n g src => Sys2Proof.Machine.execStB n g src s
  | .stH n g src => Sys2Proof.Machine.execStH n g src s
  | .stW n g src => Sys2Proof.Machine.execStW n g src s
  | .stD n g src => Sys2Proof.Machine.execStD n g src s
  | .ldv n g src => Sys2Proof.Machine.execLdv n g src s
  | .ldvs n g src => Sys2Proof.Machine.execLdvs n g src s
  | .ldvg n g src => Sys2Proof.Machine.execLdvg n g src s
  | .stv n g src => Sys2Proof.Machine.execStv n g src s
  | .stvs n g src => Sys2Proof.Machine.execStvs n g src s
  | .stvg n g src => Sys2Proof.Machine.execStvg n g src s
  | .aadd n g src => Sys2Proof.Machine.execAadd n g src s
  | .amin n g src => Sys2Proof.Machine.execAmin n g src s
  | .amax n g src => Sys2Proof.Machine.execAmax n g src s
  | .aand n g src => Sys2Proof.Machine.execAand n g src s
  | .aor n g src => Sys2Proof.Machine.execAor n g src s
  | .axor n g src => Sys2Proof.Machine.execAxor n g src s
  | .aswp n g src => Sys2Proof.Machine.execAswp n g src s
  | .acas n g src => Sys2Proof.Machine.execAcas n g src s
  | .pubD n g src => Sys2Proof.Machine.execPubD n g src s
  | .pubP n g src => Sys2Proof.Machine.execPubP n g src s
  | .pubS n g src => Sys2Proof.Machine.execPubS n g src s
  | .acqD n g src => Sys2Proof.Machine.execAcqD n g src s
  | .acqP n g src => Sys2Proof.Machine.execAcqP n g src s
  | .acqS n g src => Sys2Proof.Machine.execAcqS n g src s
  | .vjoin n g src => Sys2Proof.Machine.execVjoin n g src s
  | .xlpre n g src => Sys2Proof.Machine.execXlpre n g src s
  | .fadd n g src u => Sys2Proof.Machine.execFadd n g src u s
  | .fsub n g src u => Sys2Proof.Machine.execFsub n g src u s
  | .fmul n g src u => Sys2Proof.Machine.execFmul n g src u s
  | .fma n g src u => Sys2Proof.Machine.execFma n g src u s
  | .fms n g src u => Sys2Proof.Machine.execFms n g src u s
  | .fmin n g src u => Sys2Proof.Machine.execFmin n g src u s
  | .fmax n g src u => Sys2Proof.Machine.execFmax n g src u s
  | .fabs n g src u => Sys2Proof.Machine.execFabs n g src u s
  | .fneg n g src u => Sys2Proof.Machine.execFneg n g src u s
  | .fcmpEq n g src u => Sys2Proof.Machine.execFcmpEq n g src u s
  | .fcmpLt n g src u => Sys2Proof.Machine.execFcmpLt n g src u s
  | .fcmpLe n g src u => Sys2Proof.Machine.execFcmpLe n g src u s
  | .fcmpUn n g src u => Sys2Proof.Machine.execFcmpUn n g src u s
  | .fsel n g src u => Sys2Proof.Machine.execFsel n g src u s
  | .iadd n g src u => Sys2Proof.Machine.execIadd n g src u s
  | .isub n g src u => Sys2Proof.Machine.execIsub n g src u s
  | .imul n g src u => Sys2Proof.Machine.execImul n g src u s
  | .imulh n g src u => Sys2Proof.Machine.execImulh n g src u s
  | .iand n g src u => Sys2Proof.Machine.execIand n g src u s
  | .ior n g src u => Sys2Proof.Machine.execIor n g src u s
  | .ixor n g src u => Sys2Proof.Machine.execIxor n g src u s
  | .ishl n g src u => Sys2Proof.Machine.execIshl n g src u s
  | .ishr n g src u => Sys2Proof.Machine.execIshr n g src u s
  | .isar n g src u => Sys2Proof.Machine.execIsar n g src u s
  | .imin n g src u => Sys2Proof.Machine.execImin n g src u s
  | .imax n g src u => Sys2Proof.Machine.execImax n g src u s
  | .iminu n g src u => Sys2Proof.Machine.execIminu n g src u s
  | .imaxu n g src u => Sys2Proof.Machine.execImaxu n g src u s
  | .icmpEq n g src u => Sys2Proof.Machine.execIcmpEq n g src u s
  | .icmpLt n g src u => Sys2Proof.Machine.execIcmpLt n g src u s
  | .icmpLtu n g src u => Sys2Proof.Machine.execIcmpLtu n g src u s
  | .cvt n g src u => Sys2Proof.Machine.execCvt n g src u s
  | .pack n g src u => Sys2Proof.Machine.execPack n g src u s
  | .unpack n g src u => Sys2Proof.Machine.execUnpack n g src u s
  | .bcast n g src u => Sys2Proof.Machine.execBcast n g src u s
  | .lane n g src u => Sys2Proof.Machine.execLane n g src u s
  | .mand n g src u => Sys2Proof.Machine.execMand n g src u s
  | .mor n g src u => Sys2Proof.Machine.execMor n g src u s
  | .mnot n g src u => Sys2Proof.Machine.execMnot n g src u s
  | .rcp n g src => Sys2Proof.Machine.execRcp n g src s
  | .rsq n g src => Sys2Proof.Machine.execRsq n g src s
  | .sqrt n g src => Sys2Proof.Machine.execSqrt n g src s
  | .exp2 n g src => Sys2Proof.Machine.execExp2 n g src s
  | .log2 n g src => Sys2Proof.Machine.execLog2 n g src s
  | .tanh n g src => Sys2Proof.Machine.execTanh n g src s
  | .sigm n g src => Sys2Proof.Machine.execSigm n g src s
  | .silu n g src => Sys2Proof.Machine.execSilu n g src s
  | .gelut n g src => Sys2Proof.Machine.execGelut n g src s
  | .rmax n g src => Sys2Proof.Machine.execRmax n g src s
  | .rmin n g src => Sys2Proof.Machine.execRmin n g src s
  | .rsum n g src => Sys2Proof.Machine.execRsum n g src s
  | .twosum n g src => Sys2Proof.Machine.execTwosum n g src s
  | .perm n g src => Sys2Proof.Machine.execPerm n g src s
  | .shuf n g src => Sys2Proof.Machine.execShuf n g src s
  | .rng n g src => Sys2Proof.Machine.execRng n g src s
  | .dropm n g src => Sys2Proof.Machine.execDropm n g src s
  | .wld n g src => Sys2Proof.Machine.execWld n g src s
  | .wfmt n g src => Sys2Proof.Machine.execWfmt n g src s
  | .mode n g src => Sys2Proof.Machine.execMode n g src s
  | .scale n g src => Sys2Proof.Machine.execScale n g src s
  | .strm n g src => Sys2Proof.Machine.execStrm n g src s
  | .accz n g src => Sys2Proof.Machine.execAccz n g src s
  | .drain n g src => Sys2Proof.Machine.execDrain n g src s
  | .dfn n g src => Sys2Proof.Machine.execDfn n g src s
  | .spar n g src => Sys2Proof.Machine.execSpar n g src s
  | .mxAdmit n g src => Sys2Proof.Machine.execMxAdmit n g src s
  | .mxst n g src => Sys2Proof.Machine.execMxst n g src s
  | .wgstep n g src => Sys2Proof.Machine.execWgstep n g src s
  | .salloc n g src => Sys2Proof.Machine.execSalloc n g src s
  | .sadd n g src => Sys2Proof.Machine.execSadd n g src s
  | .ssub n g src => Sys2Proof.Machine.execSsub n g src s
  | .srdn n g src => Sys2Proof.Machine.execSrdn n g src s
  | .srho n g src => Sys2Proof.Machine.execSrho n g src s
  | .sfenceL n g src => Sys2Proof.Machine.execSfenceL n g src s
  | .sfenceD n g src => Sys2Proof.Machine.execSfenceD n g src s
  | .sfenceP n g src => Sys2Proof.Machine.execSfenceP n g src s
  | .sevict n g src => Sys2Proof.Machine.execSevict n g src s
  | .srestore n g src => Sys2Proof.Machine.execSrestore n g src s
  | .swrap n g src => Sys2Proof.Machine.execSwrap n g src s
  | .sgain n g src => Sys2Proof.Machine.execSgain n g src s
  | .seps n g src => Sys2Proof.Machine.execSeps n g src s
  | .sview n g src => Sys2Proof.Machine.execSview n g src s
  | .cpy n g src => Sys2Proof.Machine.execCpy n g src s
  | .cpymx n g src => Sys2Proof.Machine.execCpymx n g src s
  | .seq n g src => Sys2Proof.Machine.execSeq n g src s
  | .seqgo n g src => Sys2Proof.Machine.execSeqgo n g src s
  | .wpr n g src => Sys2Proof.Machine.execWpr n g src s
  | .wpwait n g src => Sys2Proof.Machine.execWpwait n g src s
  | .cpadd n g src => Sys2Proof.Machine.execCpadd n g src s
  | .cpred n g src => Sys2Proof.Machine.execCpred n g src s
  | .cpbc n g src => Sys2Proof.Machine.execCpbc n g src s
  | .cqstat n g src => Sys2Proof.Machine.execCqstat n g src s
  | .tbinit n g src => Sys2Proof.Machine.execTbinit n g src s
  | .tbarr n g src => Sys2Proof.Machine.execTbarr n g src s
  | .tbexp n g src => Sys2Proof.Machine.execTbexp n g src s
  | .tbwait n g src => Sys2Proof.Machine.execTbwait n g src s
  | .tbtest n g src => Sys2Proof.Machine.execTbtest n g src s
  | .tkaln n g src => Sys2Proof.Machine.execTkaln n g src s
  | .tkrd n g src => Sys2Proof.Machine.execTkrd n g src s
  | .phsend n g src => Sys2Proof.Machine.execPhsend n g src s
  | .phrecv n g src => Sys2Proof.Machine.execPhrecv n g src s
  | .fjob n g src => Sys2Proof.Machine.execFjob n g src s
  | .fjwait n g src => Sys2Proof.Machine.execFjwait n g src s
  | .fjstat n g src => Sys2Proof.Machine.execFjstat n g src s
  | .fprog n g src => Sys2Proof.Machine.execFprog n g src s
  | .fullerEnd => Sys2Proof.Machine.execFullerEnd s
  | .fullerFadd d a b r => Sys2Proof.Machine.execFullerFadd d a b r s
  | .fullerFsub d a b r => Sys2Proof.Machine.execFullerFsub d a b r s
  | .fullerFmul d a b r => Sys2Proof.Machine.execFullerFmul d a b r s
  | .fullerFma d a b c r => Sys2Proof.Machine.execFullerFma d a b c r s
  | .fullerFms d a b c r => Sys2Proof.Machine.execFullerFms d a b c r s
  | .fullerFdiv d a b r => Sys2Proof.Machine.execFullerFdiv d a b r s
  | .fullerFsqrt d a r => Sys2Proof.Machine.execFullerFsqrt d a r s
  | .fullerFrsq d a => Sys2Proof.Machine.execFullerFrsq d a s
  | .fullerFrcp d a => Sys2Proof.Machine.execFullerFrcp d a s
  | .fullerFmin d a b => Sys2Proof.Machine.execFullerFmin d a b s
  | .fullerFmax d a b => Sys2Proof.Machine.execFullerFmax d a b s
  | .fullerFabs d a => Sys2Proof.Machine.execFullerFabs d a s
  | .fullerFneg d a => Sys2Proof.Machine.execFullerFneg d a s
  | .fullerFsel d a b c => Sys2Proof.Machine.execFullerFsel d a b c s
  | .kadd d a c r => Sys2Proof.Machine.execKadd d a c r s
  | .cvi d imm => Sys2Proof.Machine.execCvi d imm s
  | .fcvt d a r imm => Sys2Proof.Machine.execFcvt d a r imm s
  | .fmov d a => Sys2Proof.Machine.execFmov d a s
  | .fclamp d a b => Sys2Proof.Machine.execFclamp d a b s
  | .bundleIssue c => Sys2Proof.Machine.execBundleIssue c s
  | .asyncEventDelivery c => Sys2Proof.Machine.execAsyncEventDelivery c s
  | .resultDelivery c => Sys2Proof.Machine.execResultDelivery c s
  | .loadDataReady c => Sys2Proof.Machine.execLoadDataReady c s
  | .storePerform c => Sys2Proof.Machine.execStorePerform c s
  | .atomicPerform c => Sys2Proof.Machine.execAtomicPerform c s
  | .pubComplete c => Sys2Proof.Machine.execPubComplete c s
  | .accessDeadlineMiss c => Sys2Proof.Machine.execAccessDeadlineMiss c s
  | .openAccessTimeout c => Sys2Proof.Machine.execOpenAccessTimeout c s
  | .uce c addr => Sys2Proof.Machine.execUce c addr s
  | .correctableErrorFreeze a => Sys2Proof.Machine.execCorrectableErrorFreeze a s
  | .freezeEnd a => Sys2Proof.Machine.execFreezeEnd a s
  | .translationWalkComplete d => Sys2Proof.Machine.execTranslationWalkComplete d s
  | .barrierUpdate d => Sys2Proof.Machine.execBarrierUpdate d s
  | .genNotice c => Sys2Proof.Machine.execGenNotice c s
  | .ssAct c => Sys2Proof.Machine.execSsAct c s
  | .streamFlitAccept c q => Sys2Proof.Machine.execStreamFlitAccept c q s
  | .streamFlitPerform c => Sys2Proof.Machine.execStreamFlitPerform c s
  | .ssBlockMove c => Sys2Proof.Machine.execSsBlockMove c s
  | .ssEngineComplete c => Sys2Proof.Machine.execSsEngineComplete c s
  | .mxCommandStart c => Sys2Proof.Machine.execMxCommandStart c s
  | .mxCommandEnd c => Sys2Proof.Machine.execMxCommandEnd c s
  | .scaleLatchLoad c => Sys2Proof.Machine.execScaleLatchLoad c s
  | .drainRowRead c => Sys2Proof.Machine.execDrainRowRead c s
  | .drainRowWrite c => Sys2Proof.Machine.execDrainRowWrite c s
  | .followOnArrive c => Sys2Proof.Machine.execFollowOnArrive c s
  | .courierCommandStart c q => Sys2Proof.Machine.execCourierCommandStart c q s
  | .courierLineLand c q => Sys2Proof.Machine.execCourierLineLand c q s
  | .courierQueuePoll c q => Sys2Proof.Machine.execCourierQueuePoll c q s
  | .fullerCardRun d => Sys2Proof.Machine.execFullerCardRun d s
  | .fullerCardComplete d => Sys2Proof.Machine.execFullerCardComplete d s
  | .fullerRoutineLoad d => Sys2Proof.Machine.execFullerRoutineLoad d s
  | .fullerFaultRetry d => Sys2Proof.Machine.execFullerFaultRetry d s
  | .pigeonholeFlitLand d => Sys2Proof.Machine.execPigeonholeFlitLand d s
  | .phlate c => Sys2Proof.Machine.execPhlate c s
  | .pigeonholeScrub d => Sys2Proof.Machine.execPigeonholeScrub d s
  | .beaconSend d => Sys2Proof.Machine.execBeaconSend d s
  | .beaconReceive d => Sys2Proof.Machine.execBeaconReceive d s
  | .estimateStale d j => Sys2Proof.Machine.execEstimateStale d j s
  | .linkRetry d port => Sys2Proof.Machine.execLinkRetry d port s
  | .linkStateChange d port up => Sys2Proof.Machine.execLinkStateChange d port up s
  | .mapQueue slot addr => Sys2Proof.Machine.execMapQueue slot addr s
  | .unmap slot => Sys2Proof.Machine.execUnmap slot s
  | .preempt slot => Sys2Proof.Machine.execPreempt slot s
  | .prio slot val => Sys2Proof.Machine.execPrio slot val s
  | .cancelUnit slot carg => Sys2Proof.Machine.execCancelUnit slot carg s
  | .cancelLaunch slot carg => Sys2Proof.Machine.execCancelLaunch slot carg s
  | .cancelPhase slot carg => Sys2Proof.Machine.execCancelPhase slot carg s
  | .cancelGraph slot carg => Sys2Proof.Machine.execCancelGraph slot carg s
  | .cancelJob slot carg => Sys2Proof.Machine.execCancelJob slot carg s
  | .resume slot carg => Sys2Proof.Machine.execResume slot carg s
  | .cmdReject op => Sys2Proof.Machine.execCmdReject op s
  | .doorbell slot tail => Sys2Proof.Machine.execDoorbell slot tail s
  | .directoryScan => Sys2Proof.Machine.execDirectoryScan s
  | .selectionRound => Sys2Proof.Machine.execSelectionRound s
  | .queueSignal slot => Sys2Proof.Machine.execQueueSignal slot s
  | .bind slot => Sys2Proof.Machine.execBind slot s
  | .launchStart slot => Sys2Proof.Machine.execLaunchStart slot s
  | .reorderWindowReport slot j => Sys2Proof.Machine.execReorderWindowReport slot j s
  | .phaseEnd slot => Sys2Proof.Machine.execPhaseEnd slot s
  | .preemptBudgetExpire slot => Sys2Proof.Machine.execPreemptBudgetExpire slot s
  | .satchelSave c => Sys2Proof.Machine.execSatchelSave c s
  | .timeSliceYield c => Sys2Proof.Machine.execTimeSliceYield c s
  | .phaseReplay slot => Sys2Proof.Machine.execPhaseReplay slot s
  | .haltreq c => Sys2Proof.Machine.execHaltreq c s
  | .resumereq c => Sys2Proof.Machine.execResumereq c s
  | .haltGroupHalt c => Sys2Proof.Machine.execHaltGroupHalt c s
  | .accessRegister d command => Sys2Proof.Machine.execAccessRegister d command s
  | .traceRingWrite d => Sys2Proof.Machine.execTraceRingWrite d s
  | .trquiesce d req => Sys2Proof.Machine.execTrquiesce d req s
  | .xlcmd d val => Sys2Proof.Machine.execXlcmd d val s
  | .shootdownAck d => Sys2Proof.Machine.execShootdownAck d s
  | .stubcmd d => Sys2Proof.Machine.execStubcmd d s
  | .keyLoad post slot => Sys2Proof.Machine.execKeyLoad post slot s
  | .keyGenerate post slot => Sys2Proof.Machine.execKeyGenerate post slot s
  | .keyEmpty post slot => Sys2Proof.Machine.execKeyEmpty post slot s
  | .attestationRequest => Sys2Proof.Machine.execAttestationRequest s
  | .flock => Sys2Proof.Machine.execFlock s
  | .governorSample watts temps => Sys2Proof.Machine.execGovernorSample watts temps s
  | .fatalError cause => Sys2Proof.Machine.execFatalError cause s
  | .powerOnBoot => Sys2Proof.Machine.execPowerOnBoot s
  | .postCommand port pkt => Sys2Proof.Machine.execPostCommand port pkt s
  | .postData port pkt => Sys2Proof.Machine.execPostData port pkt s
  | .postAck port pkt => Sys2Proof.Machine.execPostAck port pkt s
  | .postNak port pkt => Sys2Proof.Machine.execPostNak port pkt s
  | .postSendPoll => Sys2Proof.Machine.execPostSendPoll s
  | .postResendTimeout conn => Sys2Proof.Machine.execPostResendTimeout conn s
  | .registerWrite addr val => Sys2Proof.Machine.execRegisterWrite addr val s
  | .tick d => Sys2Proof.Machine.execTick d s
  | .moduleReset => Sys2Proof.Machine.execModuleReset s

end Sys2Proof.Machine
end

