-- ==== Sys2Proof/Machine/Run.lean ====
section
/-! DEFINITION. The meaning of an event, by the same definitions as its row of `Instr`. -/

namespace Sys2Proof.Machine

/-- An event happens. -/
def runEvent (e : Event) (st : State) : Host.Outcome State Fault Refusal :=
  match e with
  | .bundleIssue c => execBundleIssue c st
  | .asyncEventDelivery c => execAsyncEventDelivery c st
  | .resultDelivery c => execResultDelivery c st
  | .loadDataReady c => execLoadDataReady c st
  | .storePerform c => execStorePerform c st
  | .atomicPerform c => execAtomicPerform c st
  | .pubComplete c => execPubComplete c st
  | .accessDeadlineMiss c => execAccessDeadlineMiss c st
  | .openAccessTimeout c => execOpenAccessTimeout c st
  | .uce c addr => execUce c addr st
  | .correctableErrorFreeze a => execCorrectableErrorFreeze a st
  | .freezeEnd a => execFreezeEnd a st
  | .translationWalkComplete d => execTranslationWalkComplete d st
  | .barrierUpdate d => execBarrierUpdate d st
  | .genNotice c => execGenNotice c st
  | .ssAct c => execSsAct c st
  | .streamFlitAccept c q => execStreamFlitAccept c q st
  | .streamFlitPerform c => execStreamFlitPerform c st
  | .ssBlockMove c => execSsBlockMove c st
  | .ssEngineComplete c => execSsEngineComplete c st
  | .mxCommandStart c => execMxCommandStart c st
  | .mxCommandEnd c => execMxCommandEnd c st
  | .scaleLatchLoad c => execScaleLatchLoad c st
  | .drainRowRead c => execDrainRowRead c st
  | .drainRowWrite c => execDrainRowWrite c st
  | .followOnArrive c => execFollowOnArrive c st
  | .courierCommandStart c q => execCourierCommandStart c q st
  | .courierLineLand c q => execCourierLineLand c q st
  | .courierQueuePoll c q => execCourierQueuePoll c q st
  | .fullerCardRun d => execFullerCardRun d st
  | .fullerCardComplete d => execFullerCardComplete d st
  | .fullerRoutineLoad d => execFullerRoutineLoad d st
  | .fullerFaultRetry d => execFullerFaultRetry d st
  | .pigeonholeFlitLand d => execPigeonholeFlitLand d st
  | .phlate c => execPhlate c st
  | .pigeonholeScrub d => execPigeonholeScrub d st
  | .beaconSend d => execBeaconSend d st
  | .beaconReceive d => execBeaconReceive d st
  | .estimateStale d j => execEstimateStale d j st
  | .linkRetry d port => execLinkRetry d port st
  | .linkStateChange d port up => execLinkStateChange d port up st
  | .mapQueue slot addr => execMapQueue slot addr st
  | .unmap slot => execUnmap slot st
  | .preempt slot => execPreempt slot st
  | .prio slot val => execPrio slot val st
  | .cancelUnit slot carg => execCancelUnit slot carg st
  | .cancelLaunch slot carg => execCancelLaunch slot carg st
  | .cancelPhase slot carg => execCancelPhase slot carg st
  | .cancelGraph slot carg => execCancelGraph slot carg st
  | .cancelJob slot carg => execCancelJob slot carg st
  | .resume slot carg => execResume slot carg st
  | .cmdReject op => execCmdReject op st
  | .doorbell slot tail => execDoorbell slot tail st
  | .directoryScan => execDirectoryScan st
  | .selectionRound => execSelectionRound st
  | .queueSignal slot => execQueueSignal slot st
  | .bind slot => execBind slot st
  | .launchStart slot => execLaunchStart slot st
  | .reorderWindowReport slot j => execReorderWindowReport slot j st
  | .phaseEnd slot => execPhaseEnd slot st
  | .preemptBudgetExpire slot => execPreemptBudgetExpire slot st
  | .satchelSave c => execSatchelSave c st
  | .timeSliceYield c => execTimeSliceYield c st
  | .phaseReplay slot => execPhaseReplay slot st
  | .haltreq c => execHaltreq c st
  | .resumereq c => execResumereq c st
  | .haltGroupHalt c => execHaltGroupHalt c st
  | .accessRegister d command => execAccessRegister d command st
  | .traceRingWrite d => execTraceRingWrite d st
  | .trquiesce d req => execTrquiesce d req st
  | .xlcmd d val => execXlcmd d val st
  | .shootdownAck d => execShootdownAck d st
  | .stubcmd d => execStubcmd d st
  | .keyLoad post slot => execKeyLoad post slot st
  | .keyGenerate post slot => execKeyGenerate post slot st
  | .keyEmpty post slot => execKeyEmpty post slot st
  | .attestationRequest => execAttestationRequest st
  | .flock => execFlock st
  | .governorSample watts temps => execGovernorSample watts temps st
  | .fatalError cause => execFatalError cause st
  | .powerOnBoot => execPowerOnBoot st
  | .postCommand port pkt => execPostCommand port pkt st
  | .postData port pkt => execPostData port pkt st
  | .postAck port pkt => execPostAck port pkt st
  | .postNak port pkt => execPostNak port pkt st
  | .postSendPoll => execPostSendPoll st
  | .postResendTimeout conn => execPostResendTimeout conn st
  | .postRegister conn c => execPostRegister conn c st
  | .registerWrite addr val => execRegisterWrite addr val st
  | .tick d => execTick d st
  | .moduleReset => execModuleReset st

end Sys2Proof.Machine
end

