-- ==== Sys2Proof/Machine/Fetch.lean ====
section
/-! DEFINITION. What the step runs next: the slot that the open bundle has reached, the word that a Fuller has reached, or an
event; and how a word is placed where the step fetches next. -/

namespace Sys2Proof.Machine

/-- The slot that an input unmaps: an UNMAP, or a register write that is one (R293). -/
def unmapsSlot : Event → Option Nat
  | .unmap slot => some slot.toNat
  | .registerWrite addr val =>
    if addr.toNat = 0x800000000000 ∧ bits val.toNat 63 60 = 2 then some (bits val.toNat 59 52) else none
  | _ => none

/-- The slot whose doorbell an input writes: a doorbell, a register write that is one, or a command packet (R294, R384). -/
def ringsSlot (st : State) : Event → Option Nat
  | .doorbell slot _ => some slot.toNat
  | .registerWrite addr _ =>
    let off := addr.toNat - 0x800000100000
    if 0x800000100000 ≤ addr.toNat ∧ off < 0x100000 ∧ off % 4096 = 0 then some (off / 4096) else none
  | .postCommand _ pkt => slotHolding st (dirRecord st (bits (pktTgt pkt) 11 0))
  | _ => none

/-- Whether an input waits for a later one of its tick: a doorbell to a slot goes behind an UNMAP of it (R295, R384). -/
def waitsForUnmap (st : State) (x : Nat × Event) : Bool :=
  match ringsSlot st x.2 with
  | some q => st.inbox.any fun y => y.1 == x.1 && unmapsSlot y.2 == some q
  | none => false

/-- The connection port of a Post packet. -/
def postPort : Event → Option Nat
  | .postCommand port _ | .postData port _ | .postAck port _ | .postNak port _ => some port
  | _ => none

/-- The first input of a list that does not wait, and is no packet of a port at which an earlier one waits. -/
def firstReady (st : State) : List (Nat × Event) → List Nat → Option (Nat × Event)
  | [], _ => none
  | x :: rest, ports =>
    if waitsForUnmap st x || (postPort x.2).any ports.contains then firstReady st rest ((postPort x.2).toList ++ ports) else some x

/-- The input that is applied first of those whose time has come: in the order of their arrival, but for a doorbell that waits and
the packets of its port behind it (R293, R295, R384). -/
def inputNow (st : State) : Option (Nat × Event) :=
  firstReady st (st.inbox.filter fun x => decide (x.1 ≤ refTick st)) []

/-- The event that comes next and the state without it: the head of the agenda, an input of the outside world whose time has
come (R295), or the tick of a die (R367; log 7). -/
def nextEvent (st : State) : Event × State :=
  match st.agenda with
  | e :: rest => (e, { st with agenda := rest })
  | [] =>
    match inputNow st with
    | some x => (x.2, { st with inbox := st.inbox.erase x })
    | none => (.tick (nextDie st), st)

/-- What a bundle does next: close, pass a slot, run an instruction, or fault. -/
inductive SlotStep where
  | close
  | pass
  | run (i : Instr)
  | bad (w : SlotWord) (e : DecodeError)
  | lost

/-- The slot that the open bundle of core `cur` has reached: slots that have committed and literals are passed (R62, R65). -/
def slotStep (st : State) : SlotStep :=
  match (coreOf st st.cur).issue with
  | none => .lost
  | some i =>
    if 8 ≤ i.slot then .close
    else if i.done.toNat.testBit i.slot || (literalSlots i.words).getD i.slot false then .pass
    else
      match decodeSlot (slotWordOf i.words i.slot) with
      | .ok x => .run x
      | .error e => .bad (slotWordOf i.words i.slot) e

/-- Passing a slot. -/
def passSlot (st : State) : State :=
  modCore st st.cur fun k => { k with issue := k.issue.map fun i => { i with slot := i.slot + 1 } }

/-- The word that the Fuller of die `d` has reached: of its card's routine. -/
def fullerWord (st : State) (d : Nat) : Option FullerWord :=
  match (dieOf st d).frun with
  | none => none
  | some r => (routineOf st d r).map fun b => imageWord b r.word

/-- A routine that cannot go on ends its card in error 4, as an image that fails its checks does (R249, R250). -/
def fullerStops (st : State) (d : Nat) : State :=
  let st := { st with turn := .agenda }
  match (dieOf st d).frun with
  | some r => finishCard st d r false 4
  | none => st

/-! ### Placing a word -/

/-- The word that a bundle holds with the instruction in slot 0 and every other slot a zero word, which moves g0 to g0 and so
does nothing. -/
def bundleWith (w : Nat) : Bundle := BitVec.ofNat 192 (w % 2 ^ 24)

/-- A slot instruction as the next slot of core 0's open bundle (log 17). -/
def placeSlot (st : State) (w : Nat) : State :=
  let st := modCore st 0 fun k =>
    { k with issue := some { freshIssue k with words := bundleWith w, en := 0xFF, stamp := st.stamp, scanned := true } }
  { st with turn := .bundle, cur := 0 }

/-- A routine image with one word and `end` words after it. -/
def imageWith (w : Nat) : List Byte := fillTo 64 (leBytes 4 w)

/-- A micro-instruction as the next word of a card that runs on die 0 (log 17). -/
def placeFuller (st : State) (w : Nat) : State :=
  let st := modBank st 0 0 fun b => { b with slots := tset none b.slots 0 (some (imageWith w)) }
  let st := modDie st 0 fun x => { x with
    frun := some { core := 0, seq := 1, card := List.replicate 64 0, grp := List.replicate 64 0, stamp := 0, asid := 0, keyid := 0,
                   lvl := .t, bank := some 0, b1 := 0, b2 := 0, i := 0, word := 0, f := [], flags := 0, wrote := 0, inElem := true,
                   halted := none, finished := false, hyp := [] } }
  { st with turn := .fuller 0 }

end Sys2Proof.Machine
end

