-- ==== Sys2Proof/Machine/Step.lean ====
section
/-! DEFINITION. One step of the module: one slot of an open bundle, one word of a Fuller's routine, or one event. -/

namespace Sys2Proof.Machine

/-- One step. -/
def step (st : State) : Host.Outcome State Fault Refusal :=
  match st.turn with
  | .bundle =>
    match slotStep st with
    | .close => execBundleIssue st.cur st
    | .pass => .next (passSlot st)
    | .run i => exec i st
    | .bad w e => .next (decodeFault st w e)
    | .lost => .next { st with turn := .agenda }
  | .fuller d =>
    match (fullerWord st d).map decodeFuller with
    | some (.ok i) => exec i st
    | _ => .next (fullerStops st d)
  | .agenda => runEvent (nextEvent st).1 (nextEvent st).2

/-- The state with a word placed where the next step fetches: a slot word of 24 bits as the slot that core 0 has reached, a
Fuller word of 32 bits as the word that die 0's Fuller has reached (log 17). -/
def State.withFetchWord (s : State) (nbits w : Nat) : State := if nbits ≤ 24 then placeSlot s w else placeFuller s w

end Sys2Proof.Machine
end

