-- ==== Sys2Proof/Safety.lean ====
section
/-! DEFINITION. The terms in which claims are stated: when a slot can run, the operands that it takes, the state that it
leaves, what it leaves alone, and what counts as a safe state. -/

namespace Sys2Proof.Machine

/-! ### A slot that runs (R10, R13, R62, R64) -/

/-- The core whose bundle is open. -/
def slotCore (st : State) : Core := coreOf st st.cur

/-- Its open bundle. -/
def slotIssue (st : State) : Issue := issueOf (slotCore st)

/-- A pop whose entry this slot already holds: a shadow entry or the bundle's own record (R12, R323). -/
def popHeld (i : Issue) : Bool := i.shadows.any (·.slot == i.slot) || i.pops.any (·.1 == i.slot)

/-- The source can be read: a literal source has a next slot (R62), a pop finds an entry that has arrived (R13). -/
def SourceReadable (st : State) (s : Nat) : Prop :=
  (litSource s = true → (slotIssue st).slot < 7) ∧
  (s = 0x180 → popHeld (slotIssue st) = true ∨ (ldqOf (slotCore st)).head?.any (·.arrived) = true)

/-- The slot is enabled by its guard (R64), its source can be read, and the scan of its bundle has found nothing that stops
it there (R63). -/
def SlotReady (st : State) (n : BitVec 1) (g : BitVec 4) (s : Nat) : Prop :=
  slotEnabled (slotCore st) (slotIssue st) n g = true ∧ SourceReadable st s ∧ stopHere (slotIssue st) = none

/-- The value that the source gives (R58 to R62). -/
def sourceVal (st : State) (s : Nat) : Val := readSource (slotCore st) (slotIssue st) s

/-- The four operand ports as a trigger of unit `u` sees them (R10, R86). -/
def operands (st : State) (u s : Nat) : Args := argsOf st.cur (slotCore st) (slotIssue st) u (sourceVal st s)

/-- The slots that a source takes: two with a literal (R62). -/
def slotWidth (s : Nat) : Nat := if litSource s then 2 else 1

/-- The state once the source has been read: an entry that a pop takes has left its queue (R12). -/
def afterSource (st : State) (s : Nat) : State :=
  setCore st st.cur { sourcePop (slotCore st) (slotIssue st) s with issue := some (slotIssue st) }

/-- The state after a slot that triggers unit `u` with effect `f`: port a holds the moved value, `f` has happened, the slot
has committed (R10, R65). -/
def afterTrigger (st : State) (s u : Nat) (f : State → State) : State :=
  commitSlot (f (modCore (afterSource st s) st.cur fun k => putPort k (lvlOf (slotCore st)) u 0 (sourceVal st s)))
    (slotIssue st) (slotWidth s) []

/-- The effect of an operation that only delivers a result: `v` and its flags reach a result port after `lat` issue ticks
(R84). -/
def resultTo (st : State) (port : Nat) (v : Val) (flags : BitVec 8) (lat : Nat) (x : State) : State :=
  modCore x st.cur fun k => launchResult k port (some v) flags lat 0

/-- A hold of the bundle does not arise: `h` is the check that could hold it, or the stalls of the bundle are settled
(R63). -/
def NotHeld (st : State) (h : Check) : Prop := h = .ok ∨ (∃ c b, h = .hold c b) ∧ (slotIssue st).scanned = true

/-! ### What is left alone -/

/-- Everything outside the core whose slot runs is unchanged. -/
structure OutsideSame (st t : State) : Prop where
  mem : ∀ a, memByte t.mem a = memByte st.mem a
  order : t.wlog = st.wlog ∧ t.wseq = st.wseq
  barriers : t.bars = st.bars ∧ t.barCmds = st.barCmds
  dies : ∀ d, dieOf t d = dieOf st d
  agents : t.pm = st.pm ∧ t.host = st.host ∧ t.post = st.post ∧ t.inbox = st.inbox
  cores : ∀ c, c ≠ st.cur → coreOf t c = coreOf st c

/-- The register state of a core but for its ports, the operations in flight, the load-data queues and the record of the
open bundle. -/
structure CoreSame (k k' : Core) : Prop where
  files : k'.files = k.files ∧ k'.sbank.o = k.sbank.o
  csr : k'.csr = k.csr
  results : k'.ports.sRes = k.ports.sRes ∧ k'.ports.vRes = k.ports.vRes ∧ k'.sbank.sRes = k.sbank.sRes
  identity : k'.tx = k.tx ∧ k'.ty = k.ty ∧ k'.tz = k.tz ∧ k'.itag = k.itag
  control : k'.pc = k.pc ∧ k'.code = k.code ∧ k'.run = k.run ∧ k'.waitUntil = k.waitUntil ∧ k'.sbank.wait = k.sbank.wait
  engines : k'.mx = k.mx ∧ k'.ss = k.ss ∧ k'.cp = k.cp ∧ k'.fl = k.fl
  accesses : k'.accs = k.accs ∧ k'.pubs = k.pubs ∧ k'.bups = k.bups ∧ k'.views = k.views

/-- Operand port `p` of unit `u`, of the core's level, is unchanged. -/
def PortSame (k k' : Core) (u p : Nat) : Prop :=
  (vectorUnit u = true → portV k' u p = portV k u p) ∧ portS k' (lvlOf k) u p = portS k (lvlOf k) u p

/-! ### Safe states -/

/-- Memory is in its canonical form. -/
def MemorySafe (st : State) : Prop := st.mem.wf = true

/-- A step that neither faults nor refuses. -/
def Steps (st : State) : Prop := ∃ t, step st = .next t

/-! ### What the rules give for the operations of each unit

A row is an instruction, its latency in issue ticks and its result for the operands. -/

/-- The last trigger code that R81 assigns to a unit. -/
def triggerLast (u : Nat) : Nat := [0x16, 0x29, 0x29, 0x24, 0x2A, 0x2A, 0x14, 0x0F, 0x11, 0x0D, 0x0C, 0x07].getD u 0

/-- A scalar row. -/
abbrev Row := Instr × Nat × Word

/-- The rows of R119 but for those that R120 and R121 give. -/
def iaRows (n : BitVec 1) (g : BitVec 4) (s : BitVec 9) (u : BitVec 2) (x : Args) : List Row :=
  let a := x.a
  let b := x.b
  let k := b.toNat % 64
  let yes := fun (p : Bool) => if p then (1 : Word) else 0
  [ (.add n g s u, 1, .ofNat 64 (a.toNat + b.toNat)),
    (.sub n g s u, 1, .ofInt 64 (a.toInt - b.toInt)),
    (.mul n g s u, 3, .ofNat 64 (a.toNat * b.toNat)),
    (.mulh n g s u, 3, .ofInt 64 (a.toInt * b.toInt / 2 ^ 64)),
    (.mulhu n g s u, 3, .ofNat 64 (a.toNat * b.toNat / 2 ^ 64)),
    (.iaAnd n g s u, 1, a &&& b), (.iaOr n g s u, 1, a ||| b), (.iaXor n g s u, 1, a ^^^ b),
    (.andn n g s u, 1, a &&& ~~~b),
    (.shl n g s u, 1, .ofNat 64 (a.toNat * 2 ^ k)),
    (.shr n g s u, 1, .ofNat 64 (a.toNat / 2 ^ k)),
    (.sar n g s u, 1, .ofInt 64 (a.toInt / 2 ^ k)),
    (.rol n g s u, 1, .ofNat 64 (a.toNat * 2 ^ k + a.toNat / 2 ^ (64 - k))),
    (.clz n g s u, 1, .ofNat 64 (if a = 0 then 64 else 63 - Nat.log2 a.toNat)),
    (.ctz n g s u, 1, .ofNat 64 (((List.range 64).find? fun i => a.getLsbD i).getD 64)),
    (.popc n g s u, 1, .ofNat 64 ((List.range 64).filter fun i => a.getLsbD i).length),
    (.iaMin n g s u, 1, if a.toInt ≤ b.toInt then a else b), (.iaMax n g s u, 1, if b.toInt ≤ a.toInt then a else b),
    (.minu n g s u, 1, if a.toNat ≤ b.toNat then a else b), (.maxu n g s u, 1, if b.toNat ≤ a.toNat then a else b),
    (.cmpeq n g s u, 1, yes (a = b)), (.cmpne n g s u, 1, yes (a ≠ b)),
    (.cmplt n g s u, 1, yes (a.toInt < b.toInt)), (.cmpltu n g s u, 1, yes (a.toNat < b.toNat)),
    (.cmple n g s u, 1, yes (a.toInt ≤ b.toInt)), (.cmpleu n g s u, 1, yes (a.toNat ≤ b.toNat)),
    (.sel n g s u, 1, if x.c ≠ 0 then a else b),
    (.madd n g s u, 3, .ofNat 64 (a.toNat * b.toNat + x.c.toNat)),
    (.lea n g s u, 1, .ofNat 64 (a.toNat + b.toNat * 2 ^ (x.c.toNat % 8))),
    (.abs n g s u, 1, .ofInt 64 (if a.toInt < 0 then -a.toInt else a.toInt)) ]

/-- The rows of R120. -/
def divRows (n : BitVec 1) (g : BitVec 4) (s : BitVec 9) (u : BitVec 2) (x : Args) : List Row :=
  let a := x.a
  let b := x.b
  [ (.div n g s u, 20, if b = 0 then 0xFFFFFFFFFFFFFFFF else .ofInt 64 (a.toInt.tdiv b.toInt)),
    (.divu n g s u, 20, if b = 0 then 0xFFFFFFFFFFFFFFFF else .ofNat 64 (a.toNat / b.toNat)),
    (.rem n g s u, 20, if b = 0 then a else .ofInt 64 (a.toInt - b.toInt * a.toInt.tdiv b.toInt)),
    (.remu n g s u, 20, if b = 0 then a else .ofNat 64 (a.toNat - b.toNat * (a.toNat / b.toNat))) ]

/-- The rows of R121. -/
def fieldRows (n : BitVec 1) (g : BitVec 4) (s : BitVec 9) (u : BitVec 2) (x : Args) : List Row :=
  let cap := fun (w : Word) (m : Nat) => min (min (w.toNat % 128) 64) m
  let w := cap x.b 64
  let px := x.b.toNat % 64
  let wx := cap x.c (64 - px)
  let pi := x.c.toNat % 64
  let wi := cap x.d (64 - pi)
  let m : Word := .ofNat 64 ((2 ^ wi - 1) * 2 ^ pi)
  let low := x.a.toNat % 2 ^ w
  [ (.sext n g s u, 1, if w = 0 then 0 else .ofInt 64 (if low < 2 ^ (w - 1) then (low : Int) else (low : Int) - 2 ^ w)),
    (.zext n g s u, 1, .ofNat 64 low),
    (.bfx n g s u, 1, .ofNat 64 (x.a.toNat / 2 ^ px % 2 ^ wx)),
    (.bfi n g s u, 1, (x.a &&& ~~~m) ||| (.ofNat 64 (x.b.toNat * 2 ^ pi) &&& m)) ]

/-- A vector from its lanes. -/
def lanes (f : Nat → Lane) : Vec := ofLanes ((List.range 64).map f)

/-- The mask with bit `i` set when the condition holds of lane `i`. -/
def maskOf (f : Nat → Bool) : Word := BitVec.ofNat 64 (((List.range 64).map fun i => if f i then 2 ^ i else 0).sum)

/-- The rows of R153: latency 2. -/
def vaIntRows (n : BitVec 1) (g : BitVec 4) (s : BitVec 9) (u : BitVec 1) : List (Instr × (Lane → Lane → Lane)) :=
  [ (.iadd n g s u, fun a b => .ofNat 32 (a.toNat + b.toNat)), (.isub n g s u, fun a b => .ofInt 32 (a.toInt - b.toInt)),
    (.imul n g s u, fun a b => .ofNat 32 (a.toNat * b.toNat)),
    (.imulh n g s u, fun a b => .ofInt 32 (a.toInt * b.toInt / 2 ^ 32)),
    (.iand n g s u, fun a b => a &&& b), (.ior n g s u, fun a b => a ||| b), (.ixor n g s u, fun a b => a ^^^ b),
    (.ishl n g s u, fun a b => .ofNat 32 (a.toNat * 2 ^ (b.toNat % 32))),
    (.ishr n g s u, fun a b => .ofNat 32 (a.toNat / 2 ^ (b.toNat % 32))),
    (.isar n g s u, fun a b => .ofInt 32 (a.toInt / 2 ^ (b.toNat % 32))),
    (.imin n g s u, fun a b => if a.toInt ≤ b.toInt then a else b), (.imax n g s u, fun a b => if b.toInt ≤ a.toInt then a else b),
    (.iminu n g s u, fun a b => if a.toNat ≤ b.toNat then a else b),
    (.imaxu n g s u, fun a b => if b.toNat ≤ a.toNat then a else b) ]

/-- The rows of R154: latency 2. -/
def vaIcmpRows (n : BitVec 1) (g : BitVec 4) (s : BitVec 9) (u : BitVec 1) : List (Instr × (Lane → Lane → Bool)) :=
  [ (.icmpEq n g s u, fun a b => decide (a = b)), (.icmpLt n g s u, fun a b => decide (a.toInt < b.toInt)),
    (.icmpLtu n g s u, fun a b => decide (a.toNat < b.toNat)) ]

/-- The rounded rows of R148 and R149: the exact result of the lanes, whether the mode rounds down. -/
def vaRoundRows (n : BitVec 1) (g : BitVec 4) (s : BitVec 9) (u : BitVec 1) : List (Instr × (Bool → Num → Num → Num → Num × Flags8)) :=
  [ (.fadd n g s u, fun rd a b _ => addN rd a b), (.fsub n g s u, fun rd a b _ => addN rd a (negN b)),
    (.fmul n g s u, fun _ a b _ => mulN a b), (.fma n g s u, fun rd a b c => fmaN rd a b c),
    (.fms n g s u, fun rd a b c => fmaN rd a b (negN c)) ]

/-- A lane rounded by the control in port d (R147, R50). -/
def roundedLane (st : State) (x : Args) (f : Bool → Num → Num → Num → Num × Flags8) (i : Nat) : Lane × Flags8 :=
  let mode := x.d.toNat
  let (r, fl) := f (mode == 2) (fp32.toNum (laneOf x.va i).toNat) (fp32.toNum (laneOf x.vb i).toNat)
    (fp32.toNum (laneOf x.vc i).toNat)
  let (p, fl') := roundFmt fp32 false mode (if mode = 4 then rbOf (keyOf st x.core x.vd) i else 0) (.num r)
  (.ofNat 32 p, fl' ||| fl)

/-- The exact rows of R150: latency 5. -/
def vaExactRows (n : BitVec 1) (g : BitVec 4) (s : BitVec 9) (u : BitVec 1) : List (Instr × (Lane → Lane → Lane × Flags8)) :=
  [ (.fmin n g s u, fpMinMax false), (.fmax n g s u, fpMinMax true),
    (.fabs n g s u, fun a _ => if isNan (fp32.toNum a.toNat) then (0x7FC00000, sigFlag (fp32.toNum a.toNat)) else (a &&& 0x7FFFFFFF, 0)),
    (.fneg n g s u, fun a _ => if isNan (fp32.toNum a.toNat) then (0x7FC00000, sigFlag (fp32.toNum a.toNat)) else (a ^^^ 0x80000000, 0)) ]

/-- The rows of R151: latency 5; a mask with flags. -/
def vaCmpRows (n : BitVec 1) (g : BitVec 4) (s : BitVec 9) (u : BitVec 1) : List (Instr × (Num → Num → Bool) × (Num → Num → Flags8)) :=
  let sig := fun (x y : Num) => sigFlag x ||| sigFlag y
  let any := fun (x y : Num) => if isNan x || isNan y then fNV else (0 : Flags8)
  [ (.fcmpEq n g s u, fun x y => eqN x y, sig), (.fcmpLt n g s u, fun x y => ltN x y, any),
    (.fcmpLe n g s u, fun x y => ltN x y || eqN x y, any), (.fcmpUn n g s u, fun x y => isNan x || isNan y, sig) ]

/-- Flags of all lanes, ORed (R145). -/
def orFlags (f : Nat → Flags8) : Flags8 := ((List.range 64).map f).foldl (· ||| ·) 0

/-- The mask that a selector gives (R86): all lanes, or m0 to m7 as they stood at issue. -/
def maskSel (st : State) (x : Word) : Word := if x = 0 then BitVec.allOnes 64 else tget 0 (slotIssue st).sel.m (x.toNat - 8)

/-- A legal mask selector (R86). -/
def MaskSelOk (x : Word) : Prop := x = 0 ∨ (8 ≤ x.toNat ∧ x.toNat ≤ 15)

/-- A legal selector of an operand-file vector (R86). -/
def VecSelOk (x : Word) : Prop := x.toNat < 8

/-- The special functions of R164: latency and exact function. -/
def vxRows (n : BitVec 1) (g : BitVec 4) (s : BitVec 9) : List (Instr × Nat × (Num → Exact × Flags8)) :=
  [ (.rcp n g s, 12, rcpN), (.rsq n g s, 12, rsqN), (.sqrt n g s, 12, sqrtN), (.exp2 n g s, 14, exp2E),
    (.log2 n g s, 14, log2E), (.tanh n g s, 14, tanhE), (.sigm n g s, 14, sigmE), (.silu n g s, 14, siluE),
    (.gelut n g s, 14, gelutE) ]

/-- A special function of one lane: its exact value rounded to the nearest FP32 value, ties to even, and its flags. -/
def specialLane (f : Num → Exact × Flags8) (x : Lane) : Lane × Flags8 :=
  let (y, fl) := f (fp32.toNum x.toNat)
  let (p, fl') := roundFmt fp32 false 0 0 y
  (.ofNat 32 p, fl' ||| fl)

/-- The rows of R165: the results at −∞, −0, +0 and +∞, and whether a finite negative input is invalid. -/
def specialRows : List ((Num → Exact × Flags8) × (Lane × Flags8) × (Lane × Flags8) × (Lane × Flags8) × (Lane × Flags8) × Bool) :=
  [ (rcpN, (0x80000000, 0), (0xFF800000, fDZ), (0x7F800000, fDZ), (0x00000000, 0), false),
    (rsqN, (0x7FC00000, fNV), (0xFF800000, fDZ), (0x7F800000, fDZ), (0x00000000, 0), true),
    (sqrtN, (0x7FC00000, fNV), (0x80000000, 0), (0x00000000, 0), (0x7F800000, 0), true),
    (exp2E, (0x00000000, 0), (0x3F800000, 0), (0x3F800000, 0), (0x7F800000, 0), false),
    (log2E, (0x7FC00000, fNV), (0xFF800000, fDZ), (0xFF800000, fDZ), (0x7F800000, 0), true),
    (tanhE, (0xBF800000, 0), (0x80000000, 0), (0x00000000, 0), (0x3F800000, 0), false),
    (sigmE, (0x00000000, 0), (0x3F000000, 0), (0x3F000000, 0), (0x3F800000, 0), false),
    (siluE, (0x80000000, 0), (0x80000000, 0), (0x00000000, 0), (0x7F800000, 0), false),
    (gelutE, (0x80000000, 0), (0x80000000, 0), (0x00000000, 0), (0x7F800000, 0), false) ]

/-- Lane `i` of shuf under its control word (R162). -/
def shufRow (w : Nat) (a b : Vec) (i : Nat) : Lane :=
  let s := w / 256 % 64
  match w % 16 with
  | 0 => if i % 2 = 0 then laneOf a (i / 2) else laneOf b ((i - 1) / 2)
  | 1 => if i % 2 = 0 then laneOf a (32 + i / 2) else laneOf b (32 + (i - 1) / 2)
  | 2 => if i < 32 then laneOf a (2 * i) else laneOf b (2 * (i - 32))
  | 3 => if i < 32 then laneOf a (2 * i + 1) else laneOf b (2 * (i - 32) + 1)
  | 4 => if i + s < 64 then laneOf a (i + s) else laneOf b (i + s - 64)
  | _ => laneOf a (63 - i)

/-- A legal control word of shuf (R162). -/
def ShufOk (w : Word) : Prop :=
  w.toNat % 16 < 6 ∧ w.toNat / 16 % 16 = 0 ∧ w.toNat / 2 ^ 14 = 0 ∧ (w.toNat % 16 = 4 ∨ w.toNat / 256 % 64 = 0)

/-- The draw of lane `i` of rng and dropm (R169 to R171). -/
def drawOf (st : State) (x : Args) (i : Nat) : Nat :=
  genG (slotCore st).csr.seed.toNat (laneOf x.vc 1).toNat ((laneOf x.vc 2).toNat % 65536)
    (((laneOf x.vc 2).toNat / 65536 * 2 ^ 32 + (laneOf x.va i).toNat) % 2 ^ 48)

/-- The width of packed elements by WID (R158). -/
def elemWidth (wid : Nat) : Nat := if wid = 0 then 16 else if wid = 1 then 8 else 4

/-- The row of the opcode table that an event of the agenda is, with the same data. -/
inductive EventRow : Event → Instr → Prop where
  | bundleIssue (c : Nat) : EventRow (.bundleIssue c) (.bundleIssue c)
  | asyncEventDelivery (c : Nat) : EventRow (.asyncEventDelivery c) (.asyncEventDelivery c)
  | resultDelivery (c : Nat) : EventRow (.resultDelivery c) (.resultDelivery c)
  | loadDataReady (c : Nat) : EventRow (.loadDataReady c) (.loadDataReady c)
  | storePerform (c : Nat) : EventRow (.storePerform c) (.storePerform c)
  | atomicPerform (c : Nat) : EventRow (.atomicPerform c) (.atomicPerform c)
  | pubComplete (c : Nat) : EventRow (.pubComplete c) (.pubComplete c)
  | accessDeadlineMiss (c : Nat) : EventRow (.accessDeadlineMiss c) (.accessDeadlineMiss c)
  | openAccessTimeout (c : Nat) : EventRow (.openAccessTimeout c) (.openAccessTimeout c)
  | uce (c : Nat) (addr : Word) : EventRow (.uce c addr) (.uce c addr)
  | correctableErrorFreeze (a : Freezable) : EventRow (.correctableErrorFreeze a) (.correctableErrorFreeze a)
  | freezeEnd (a : Freezable) : EventRow (.freezeEnd a) (.freezeEnd a)
  | translationWalkComplete (d : Nat) : EventRow (.translationWalkComplete d) (.translationWalkComplete d)
  | barrierUpdate (d : Nat) : EventRow (.barrierUpdate d) (.barrierUpdate d)
  | genNotice (c : Nat) : EventRow (.genNotice c) (.genNotice c)
  | ssAct (c : Nat) : EventRow (.ssAct c) (.ssAct c)
  | streamFlitAccept (c q : Nat) : EventRow (.streamFlitAccept c q) (.streamFlitAccept c q)
  | streamFlitPerform (c : Nat) : EventRow (.streamFlitPerform c) (.streamFlitPerform c)
  | ssBlockMove (c : Nat) : EventRow (.ssBlockMove c) (.ssBlockMove c)
  | ssEngineComplete (c : Nat) : EventRow (.ssEngineComplete c) (.ssEngineComplete c)
  | mxCommandStart (c : Nat) : EventRow (.mxCommandStart c) (.mxCommandStart c)
  | mxCommandEnd (c : Nat) : EventRow (.mxCommandEnd c) (.mxCommandEnd c)
  | scaleLatchLoad (c : Nat) : EventRow (.scaleLatchLoad c) (.scaleLatchLoad c)
  | drainRowRead (c : Nat) : EventRow (.drainRowRead c) (.drainRowRead c)
  | drainRowWrite (c : Nat) : EventRow (.drainRowWrite c) (.drainRowWrite c)
  | followOnArrive (c : Nat) : EventRow (.followOnArrive c) (.followOnArrive c)
  | courierCommandStart (c q : Nat) : EventRow (.courierCommandStart c q) (.courierCommandStart c q)
  | courierLineLand (c q : Nat) : EventRow (.courierLineLand c q) (.courierLineLand c q)
  | courierQueuePoll (c q : Nat) : EventRow (.courierQueuePoll c q) (.courierQueuePoll c q)
  | fullerCardRun (d : Nat) : EventRow (.fullerCardRun d) (.fullerCardRun d)
  | fullerCardComplete (d : Nat) : EventRow (.fullerCardComplete d) (.fullerCardComplete d)
  | fullerRoutineLoad (d : Nat) : EventRow (.fullerRoutineLoad d) (.fullerRoutineLoad d)
  | fullerFaultRetry (d : Nat) : EventRow (.fullerFaultRetry d) (.fullerFaultRetry d)
  | pigeonholeFlitLand (d : Nat) : EventRow (.pigeonholeFlitLand d) (.pigeonholeFlitLand d)
  | phlate (c : Nat) : EventRow (.phlate c) (.phlate c)
  | pigeonholeScrub (d : Nat) : EventRow (.pigeonholeScrub d) (.pigeonholeScrub d)
  | beaconSend (d : Nat) : EventRow (.beaconSend d) (.beaconSend d)
  | beaconReceive (d : Nat) : EventRow (.beaconReceive d) (.beaconReceive d)
  | estimateStale (d j : Nat) : EventRow (.estimateStale d j) (.estimateStale d j)
  | linkRetry (d port : Nat) : EventRow (.linkRetry d port) (.linkRetry d port)
  | linkStateChange (d port : Nat) (up : Bool) : EventRow (.linkStateChange d port up) (.linkStateChange d port up)
  | mapQueue (slot : BitVec 8) (addr : BitVec 48) : EventRow (.mapQueue slot addr) (.mapQueue slot addr)
  | unmap (slot : BitVec 8) : EventRow (.unmap slot) (.unmap slot)
  | preempt (slot : BitVec 8) : EventRow (.preempt slot) (.preempt slot)
  | prio (slot : BitVec 8) (val : BitVec 4) : EventRow (.prio slot val) (.prio slot val)
  | cancelUnit (slot : BitVec 8) (carg : Word) : EventRow (.cancelUnit slot carg) (.cancelUnit slot carg)
  | cancelLaunch (slot : BitVec 8) (carg : Word) : EventRow (.cancelLaunch slot carg) (.cancelLaunch slot carg)
  | cancelPhase (slot : BitVec 8) (carg : Word) : EventRow (.cancelPhase slot carg) (.cancelPhase slot carg)
  | cancelGraph (slot : BitVec 8) (carg : Word) : EventRow (.cancelGraph slot carg) (.cancelGraph slot carg)
  | cancelJob (slot : BitVec 8) (carg : Word) : EventRow (.cancelJob slot carg) (.cancelJob slot carg)
  | resume (slot : BitVec 8) (carg : Word) : EventRow (.resume slot carg) (.resume slot carg)
  | cmdReject (op : BitVec 4) : EventRow (.cmdReject op) (.cmdReject op)
  | doorbell (slot : BitVec 8) (tail : BitVec 32) : EventRow (.doorbell slot tail) (.doorbell slot tail)
  | directoryScan : EventRow .directoryScan .directoryScan
  | selectionRound : EventRow .selectionRound .selectionRound
  | queueSignal (slot : BitVec 8) : EventRow (.queueSignal slot) (.queueSignal slot)
  | bind (slot : BitVec 8) : EventRow (.bind slot) (.bind slot)
  | launchStart (slot : BitVec 8) : EventRow (.launchStart slot) (.launchStart slot)
  | reorderWindowReport (slot : BitVec 8) (j : Nat) : EventRow (.reorderWindowReport slot j) (.reorderWindowReport slot j)
  | phaseEnd (slot : BitVec 8) : EventRow (.phaseEnd slot) (.phaseEnd slot)
  | preemptBudgetExpire (slot : BitVec 8) : EventRow (.preemptBudgetExpire slot) (.preemptBudgetExpire slot)
  | satchelSave (c : Nat) : EventRow (.satchelSave c) (.satchelSave c)
  | timeSliceYield (c : Nat) : EventRow (.timeSliceYield c) (.timeSliceYield c)
  | phaseReplay (slot : BitVec 8) : EventRow (.phaseReplay slot) (.phaseReplay slot)
  | haltreq (c : Nat) : EventRow (.haltreq c) (.haltreq c)
  | resumereq (c : Nat) : EventRow (.resumereq c) (.resumereq c)
  | haltGroupHalt (c : Nat) : EventRow (.haltGroupHalt c) (.haltGroupHalt c)
  | accessRegister (d : Nat) (command : BitVec 32) : EventRow (.accessRegister d command) (.accessRegister d command)
  | traceRingWrite (d : Nat) : EventRow (.traceRingWrite d) (.traceRingWrite d)
  | trquiesce (d : Nat) (req : Bool) : EventRow (.trquiesce d req) (.trquiesce d req)
  | xlcmd (d : Nat) (val : Word) : EventRow (.xlcmd d val) (.xlcmd d val)
  | shootdownAck (d : Nat) : EventRow (.shootdownAck d) (.shootdownAck d)
  | stubcmd (d : Nat) : EventRow (.stubcmd d) (.stubcmd d)
  | keyLoad (post : Bool) (slot : BitVec 10) : EventRow (.keyLoad post slot) (.keyLoad post slot)
  | keyGenerate (post : Bool) (slot : BitVec 10) : EventRow (.keyGenerate post slot) (.keyGenerate post slot)
  | keyEmpty (post : Bool) (slot : BitVec 10) : EventRow (.keyEmpty post slot) (.keyEmpty post slot)
  | attestationRequest : EventRow .attestationRequest .attestationRequest
  | flock : EventRow .flock .flock
  | governorSample (watts : Nat) (temps : List Nat) : EventRow (.governorSample watts temps) (.governorSample watts temps)
  | fatalError (cause : BitVec 32) : EventRow (.fatalError cause) (.fatalError cause)
  | powerOnBoot : EventRow .powerOnBoot .powerOnBoot
  | postCommand (port : Nat) (pkt : List Byte) : EventRow (.postCommand port pkt) (.postCommand port pkt)
  | postData (port : Nat) (pkt : List Byte) : EventRow (.postData port pkt) (.postData port pkt)
  | postAck (port : Nat) (pkt : List Byte) : EventRow (.postAck port pkt) (.postAck port pkt)
  | postNak (port : Nat) (pkt : List Byte) : EventRow (.postNak port pkt) (.postNak port pkt)
  | postSendPoll : EventRow .postSendPoll .postSendPoll
  | postResendTimeout (conn : BitVec 32) : EventRow (.postResendTimeout conn) (.postResendTimeout conn)
  | registerWrite (addr : BitVec 48) (val : Word) : EventRow (.registerWrite addr val) (.registerWrite addr val)
  | tick (d : Nat) : EventRow (.tick d) (.tick d)
  | moduleReset : EventRow .moduleReset .moduleReset

/-! ### Accesses (R122 to R135) -/

/-- No watchpoint of the core can act on its accesses: it runs at S level, or every ACT field is 0 (R346, R347). -/
def Unwatched (st : State) (x : Args) : Prop :=
  x.lvl = .s ∨ ∀ m, m < 4 → (tget 0 (slotCore st).csr.wpm m).toNat % 4 = 0

/-- Accesses to the window of core `o` are not held, or the bundle's holds are settled (R63, R265). -/
abbrev HomeReady (st : State) (o : Nat) : Prop := (slotIssue st).scanned = true ∨ homeHeld st o = false

/-- An element of an access at `va` of `n` bytes is aligned and translated, and its home is ready (R123, R124, R265). -/
def Reach (st : State) (x : Args) (va n : Nat) (write : Bool) (pa key : Nat) (padded : Bool) : Prop :=
  va % n = 0 ∧ xlateOp st x va write = .ok pa key padded ∧ ∀ o off, target pa = .scratch o off → HomeReady st o

/-- No courier command of the core has started and is unfinished, so that no store waits for one (R337). -/
def NoCourierRuns (st : State) : Prop := (slotCore st).cp.queues.all (fun q => (startedOf q.2).isNone) = true

/-- The bytes of `n` bytes of the core's view at the issue, under a key slot; an own store in flight under that key reads as stored
(R127, R268, R281, R402). -/
def viewed (st : State) (pa key n : Nat) : List Byte :=
  (List.range n).map fun j => viewKeyed st st.cur st.stamp key (pa + j)

/-- The vector that a selector names, as it stood at the original issue of the bundle (R63, R86, R143; log 18). -/
def vecSel (st : State) (x : Word) : Vec := tget 0 (slotIssue st).sel.w (x.toNat % 8)

/-- The address of lane `j` of a vector access (R128): consecutive, strided, gathered. -/
def laneAddr (st : State) (x : Args) (form j : Nat) : Nat :=
  match form with
  | 0 => (x.a.toNat + 4 * j) % 2 ^ 64
  | 1 => (x.a.toNat + x.b.toNat * j) % 2 ^ 64
  | _ => (x.a + (laneOf (vecSel st x.b) j).signExtend 64).toNat

/-- A slot whose effect reaches its own core and the counters of the machine only: everything outside the core is as before, and
of the core the registers, the control state and the engines. -/
def AccessFrame (st t : State) : Prop :=
  OutsideSame st t ∧
  (coreOf t st.cur).files = (slotCore st).files ∧ (coreOf t st.cur).csr = (slotCore st).csr ∧
  (coreOf t st.cur).pc = (slotCore st).pc ∧ (coreOf t st.cur).flight = (slotCore st).flight ∧
  (coreOf t st.cur).mx = (slotCore st).mx ∧ (coreOf t st.cur).ss = (slotCore st).ss ∧
  (coreOf t st.cur).cp = (slotCore st).cp ∧ (coreOf t st.cur).fl = (slotCore st).fl ∧
  (coreOf t st.cur).views = (slotCore st).views

/-- A slot that works on an engine of its own core: everything outside the core is as before, and of the core the registers,
the control state, the accesses in flight and the views. -/
def EngineFrame (st t : State) : Prop :=
  OutsideSame st t ∧
  (coreOf t st.cur).files = (slotCore st).files ∧ (coreOf t st.cur).csr = (slotCore st).csr ∧
  (coreOf t st.cur).pc = (slotCore st).pc ∧ (coreOf t st.cur).run = (slotCore st).run ∧
  (coreOf t st.cur).accs = (slotCore st).accs ∧ (coreOf t st.cur).views = (slotCore st).views

/-- A barrier address that is aligned, translated, and in a scratchpad that is ready (R136, R265). -/
def BarReach (st : State) (x : Args) (va : Nat) (write : Bool) (pa : Nat) : Prop :=
  va % 16 = 0 ∧ (∃ key padded, xlateOp st x va write = .ok pa key padded) ∧
  ∃ o off, target pa = .scratch o off ∧ HomeReady st o

/-- A signed value fits `n` bits when it is its own low `n` bits sign-extended. -/
def FitsSigned (n : Nat) (x : Word) : Prop := ∃ y : BitVec n, x = y.signExtend 64

end Sys2Proof.Machine
end

