-- ==== Sys2Proof/Certificates/Slice0/Obligations.lean ====
section
/-! DEFINITION. The statements for the provers. -/

open Sys2Proof Sys2Proof.Machine

/-! ### Encodings -/

/-- R57, R81, R252: decoding what the encoder writes for a well-formed instruction gives the instruction back, with every
operand at every value that its encoding allows. -/
def Obligations.DecodeEncode : Prop :=
  ∀ i : Instr, WellFormed i →
    match encode i with
    | .slot w => decodeSlot w = .ok i
    | .fuller w => decodeFuller w = .ok i
    | .event => True

/-- A word that decodes is the encoding of the one instruction that it decodes to, which is well formed. -/
def Obligations.DecodedWordsAreEncodings : Prop :=
  (∀ (w : SlotWord) (i : Instr), decodeSlot w = .ok i → WellFormed i ∧ encode i = .slot w) ∧
  (∀ (w : FullerWord) (i : Instr), decodeFuller w = .ok i → WellFormed i ∧ encode i = .fuller w)

/-- R83: the source codes 0x102 to 0x13F and 0x188 to 0x1FF, the destination codes 0x0F0 to 0x0FF and the unassigned triggers
of R81 are decode faults, and no other slot word is one. At T level a step whose next slot holds one traps with ILLMOV at that
slot, whatever the guard, before any later slot is reached, with the code in XADDR and DETAIL 0, 1 or 2 (R64, R65, R320). -/
def Obligations.ReservedCodesAreDecodeFaults : Prop :=
  (∀ w : SlotWord,
    (∃ e, decodeSlot w = .error e) ↔
      (0x102 ≤ (slotS w).toNat ∧ (slotS w).toNat ≤ 0x13F) ∨ (0x188 ≤ (slotS w).toNat ∧ (slotS w).toNat ≤ 0x1FF) ∨
      (0x0F0 ≤ (slotD w).toNat ∧ (slotD w).toNat ≤ 0x0FF) ∨
      (0x100 ≤ (slotD w).toNat ∧ triggerLast (((slotD w).toNat - 0x100) / 64) < ((slotD w).toNat - 0x100) % 64)) ∧
  (∀ (st : State) (x : Issue) (e : DecodeError), st.turn = .bundle → (coreOf st st.cur).issue = some x → x.slot < 8 →
    x.done.toNat.testBit x.slot = false → (literalSlots x.words).getD x.slot false = false →
    decodeSlot (slotWordOf x.words x.slot) = .error e → lvlOf (coreOf st st.cur) = .t →
    ∃ t, step st = .next t ∧ (coreOf t st.cur).pc = .ofNat 14 (9898 + 1) ∧ (coreOf t st.cur).issue = none ∧ t.mem = st.mem ∧
      (coreOf t st.cur).files = (coreOf st st.cur).files ∧
      let r := (coreOf t st.cur).csr
      r.xcause.extractLsb' 0 5 = 1 ∧ r.xpc = .ofNat 64 (coreOf st st.cur).pc.toNat ∧ r.xstat.getLsbD 19 = true ∧
      r.xstat.extractLsb' 20 3 = .ofNat 3 x.slot ∧ r.xstat.extractLsb' 24 8 = x.done ∧
      (∀ c, (e = .reservedSource c → r.xaddr = .ofNat 64 c ∧ r.xcause.extractLsb' 8 8 = 0) ∧
        (e = .reservedDestination c → r.xaddr = .ofNat 64 c ∧ r.xcause.extractLsb' 8 8 = 1) ∧
        (e = .unassignedTrigger c → r.xaddr = .ofNat 64 c ∧ r.xcause.extractLsb' 8 8 = 2)))

/-- Words of the spec's worked examples and encodings: `g65 -> o3` (R9), `g20 -> cu.call` and `cu.r -> g21` (R104),
`g9 -> ia1.divu` (R121), the all-zero slot (R57), ia0.add and ia1.add (R61), a reserved source, an unassigned trigger (R83),
and a Fuller word of each shape (R252). -/
def Obligations.WordsOfTheSpec : Prop :=
  decodeSlot 0x0104D3 = .ok (.move 0 0 0x041 0x0D3) ∧
  decodeSlot 0x005106 = .ok (.call 0 0 0x014) ∧
  decodeSlot 0x03C015 = .ok (.move 0 0 0x0F0 0x015) ∧
  decodeSlot 0x00258A = .ok (.divu 0 0 0x009 2) ∧
  decodeSlot 0x000000 = .ok (.move 0 0 0 0) ∧
  decodeSlot 0x005144 = .ok (.add 0 0 0x014 1) ∧
  decodeSlot 0x005184 = .ok (.add 0 0 0x014 2) ∧
  decodeSlot 0x861803 = .ok (.limm 1 0 3) ∧
  decodeSlot 0x062000 = .error (.reservedSource 0x188) ∧
  decodeSlot 0x000517 = .error (.unassignedTrigger 0x117) ∧
  decodeFuller 0x00000000 = .ok .fullerEnd ∧
  decodeFuller 0x0448C180 = .ok (.fullerFadd 1 2 3 3) ∧
  decodeFuller 0x1048D100 = .ok (.fullerFma 1 2 3 4 2) ∧
  decodeFuller 0x41000005 = .ok (.cvi 4 5) ∧
  decodeFuller 0x50000000 = .error .badRoutineWord

/-! ### One step -/

/-- A step with an open bundle whose next slot is no literal, has not committed and decodes to `i` is the meaning of `i` (R65); a
step with a Fuller's word that decodes to `i` is the meaning of `i` (R247). A committed slot and a literal slot are passed
(R62, R65), and after slot 7 the bundle closes.
What is placed where the next step fetches runs: a slot word and a Fuller word that decode, at any state.
With the agenda's turn, a step is the meaning of the agenda's head; with an empty agenda, of the first input of the outside world
whose time has come, but an UNMAP goes before a doorbell of its slot and tick (R295); with none, of the tick of the die whose next
tick comes earliest, or, where that is the die that REF counts, of one that has not ticked since REF advanced (R28, R367, R371;
log 7). Every event is a row of the opcode table but the host's registration of a connection of
Post, an input without a row (log 48). -/
def Obligations.StepRunsDecoded : Prop :=
  ((∀ (st : State) (x : Issue) (i : Instr), st.turn = .bundle → (coreOf st st.cur).issue = some x → x.slot < 8 →
    x.done.toNat.testBit x.slot = false → (literalSlots x.words).getD x.slot false = false →
    decodeSlot (slotWordOf x.words x.slot) = .ok i → step st = exec i st) ∧
  (∀ (st : State) (x : Issue), st.turn = .bundle → (coreOf st st.cur).issue = some x → x.slot < 8 →
    (x.done.toNat.testBit x.slot = true ∨ (literalSlots x.words).getD x.slot false = true) →
    ∃ t, step st = .next t ∧ (coreOf t st.cur).issue = some { x with slot := x.slot + 1 } ∧ t.mem = st.mem) ∧
  (∀ (st : State) (x : Issue), st.turn = .bundle → (coreOf st st.cur).issue = some x → 8 ≤ x.slot →
    step st = exec (.bundleIssue st.cur) st) ∧
  (∀ (st : State) (d : Nat) (w : FullerWord) (i : Instr), st.turn = .fuller d → fullerWord st d = some w →
    decodeFuller w = .ok i → step st = exec i st)) ∧
  ((∀ (st : State) (w : Nat) (i : Instr), w < 2 ^ 24 → decodeSlot (BitVec.ofNat 24 w) = .ok i →
    step (st.withFetchWord 24 w) = exec i (st.withFetchWord 24 w)) ∧
  (∀ (st : State) (w : Nat) (i : Instr), w < 2 ^ 32 → decodeFuller (BitVec.ofNat 32 w) = .ok i →
    step (st.withFetchWord 32 w) = exec i (st.withFetchWord 32 w))) ∧
  ((∀ (st : State) (e : Event) (rest : List Event) (i : Instr), st.turn = .agenda → st.agenda = e :: rest → EventRow e i →
    step st = exec i { st with agenda := rest }) ∧
  (∀ (st : State) (t : Nat) (e : Event) (later : List (Nat × Event)) (i : Instr), st.turn = .agenda → st.agenda = [] →
    st.inbox = (t, e) :: later → t ≤ refTick st → EventRow e i →
    (∀ q, ringsSlot st e = some q → ∀ y ∈ later, y.1 = t → unmapsSlot y.2 ≠ some q) → step st = exec i { st with inbox := later }) ∧
  (∀ (st : State) (t : Nat) (q : BitVec 8) (v : BitVec 32) (later : List (Nat × Event)), st.turn = .agenda → st.agenda = [] →
    st.inbox = (t, .doorbell q v) :: (t, .unmap q) :: later → t ≤ refTick st →
    step st = exec (.unmap q) { st with inbox := (t, .doorbell q v) :: later }) ∧
  (∀ st : State, st.turn = .agenda → st.agenda = [] → (∀ x ∈ st.inbox, refTick st < x.1) →
    ∃ d r, d < 4 ∧ r < 4 ∧ (∀ e, e < 4 → (dieOf st r).nextAt ≤ (dieOf st e).nextAt) ∧
      (d = r ∨ ((dieOf st r).isRef = true ∧ (dieOf st d).ticked = false)) ∧ step st = exec (.tick d) st) ∧
  (∀ e : Event, (∃ i, EventRow e i) ∨ ∃ conn c, e = .postRegister conn c))

/-- No instruction that the device could execute stops the model: in every state, every well-formed instruction answers a next
state (traps, waits and replays among them), no instruction at all is refused, and no step ends in a refusal (R57, R62 to R66
and R81 for slots, R252 for routine words, R1, R290 to R305 and R361 for events). -/
def Obligations.EveryInstructionCompletes : Prop :=
  (∀ (i : Instr) (st : State), WellFormed i → ∃ t, exec i st = .next t) ∧
  (∀ (i : Instr) (st : State) (r : Refusal), exec i st ≠ .refused r) ∧
  (∀ (st : State) (r : Refusal), step st ≠ .refused r)

/-! ### Registers, operands, guards -/

/-- R8, R9: g0 reads as zero, p0 as 1, whatever the files hold; a write of g0, p0 or code 0 changes nothing; and the rotating
names g64 to g127, v32 to v63 and p8 to p15 reach the physical registers that R9 gives.
R59, R60, R62: a short immediate gives its six bits sign-extended; tx, ty and tz are zero-extended; LIMM gives the next slot
sign-extended, LIMMU zero-extended; zv gives 64 zero lanes and lane the vector whose lane i holds i.
R8, R58, R63, R66, R324: a g, v, p, o, w or m name reads, in the files that its bundle found at its issue, the register of its physical
number (p as 0 or 1), and a write of one changes that register alone, to the value as its class takes it; at S level o12 to o15 are the
bank's. -/
def Obligations.OperandNames : Prop :=
  ((∀ (k : Core) (i : Issue), i.shadows = [] → readSource k i 0x000 = .s 0 ∧ readSource k i 0x0C0 = .s 1) ∧
  (∀ (k : Core) (v : Val), putReg k 0x000 v = k ∧ putReg k 0x0C0 v = k) ∧
  (∀ (k : Core) (n : Nat), n < 128 →
    physCode k n = some (if n < 64 then n else 64 + (n - 64 + k.csr.grb.toNat) % 64)) ∧
  (∀ (k : Core) (n : Nat), n < 64 →
    physCode k (0x80 + n) = some (0x80 + (if n < 32 then n else 32 + (n - 32 + k.csr.vrb.toNat) % 32))) ∧
  (∀ (k : Core) (n : Nat), n < 16 →
    physCode k (0xC0 + n) = some (0xC0 + (if n < 8 then n else 8 + (n - 8 + k.csr.prb.toNat) % 8)))) ∧
  (∀ (k : Core) (i : Issue), i.shadows = [] →
    (∀ c, c < 64 → readSource k i (0x140 + c) = .s (.ofInt 64 (if c < 32 then (c : Int) else (c : Int) - 64))) ∧
    readSource k i 0x181 = .s (.ofNat 64 k.tx.toNat) ∧ readSource k i 0x182 = .s (.ofNat 64 k.ty.toNat) ∧
    readSource k i 0x183 = .s (.ofNat 64 k.tz.toNat) ∧ readSource k i 0x185 = .v 0 ∧
    readSource k i 0x186 = .s (.ofInt 64 (slotWordOf i.words (i.slot + 1)).toInt) ∧
    readSource k i 0x187 = .s (.ofNat 64 (slotWordOf i.words (i.slot + 1)).toNat) ∧
    (∃ v, readSource k i 0x184 = .v v ∧ ∀ j, j < 64 → laneOf v j = .ofNat 32 j)) ∧
  ((∀ (k : Core) (i : Issue) (c r : Nat), i.shadows = [] → physCode k c = some r →
    (0 < r → r < 0x80 → readSource k i c = .s (tget 0 i.files.g r)) ∧
    (0x80 ≤ r → r < 0xC0 → readSource k i c = .v (tget 0 i.files.v (r - 0x80))) ∧
    (0xC0 < r → r < 0xD0 → readSource k i c = .s (if tget false i.files.p (r - 0xC0) then 1 else 0)) ∧
    (0xD0 ≤ r → r < 0xE0 → readSource k i c = .s (tget 0 i.files.o (r - 0xD0))) ∧
    (0xE0 ≤ r → r < 0xE8 → readSource k i c = .v (tget 0 i.files.w (r - 0xE0))) ∧
    (0xE8 ≤ r → r < 0xF0 → readSource k i c = .s (tget 0 i.files.m (r - 0xE8)))) ∧
  (∀ (k : Core) (c : Nat), 0xD0 ≤ c → c < 0xF0 → physCode k c = some c) ∧
  (∀ (k : Core) (c r : Nat) (v : Val), physCode k c = some r →
    (0 < r → r < 0x80 → putReg k c v = { k with files := { k.files with g := tset 0 k.files.g r (valS v) } }) ∧
    (0x80 ≤ r → r < 0xC0 → putReg k c v = { k with files := { k.files with v := tset 0 k.files.v (r - 0x80) (valV v) } }) ∧
    (0xC0 < r → r < 0xD0 → putReg k c v = { k with files := { k.files with p := tset false k.files.p (r - 0xC0) (valP v) } }) ∧
    (0xD0 ≤ r → r < 0xE0 → r < 0xDC ∨ lvlOf k = .t →
      putReg k c v = { k with files := { k.files with o := tset 0 k.files.o (r - 0xD0) (valS v) } }) ∧
    (0xDC ≤ r → r < 0xE0 → lvlOf k = .s →
      putReg k c v = { k with sbank := { k.sbank with o := tset 0 k.sbank.o (r - 0xD0) (valS v) } }) ∧
    (0xE0 ≤ r → r < 0xE8 → putReg k c v = { k with files := { k.files with w := tset 0 k.files.w (r - 0xE0) (valV v) } }) ∧
    (0xE8 ≤ r → r < 0xF0 → putReg k c v = { k with files := { k.files with m := tset 0 k.files.m (r - 0xE8) (valS v) } })))

/-- R69: the value that a move writes, by the classes of its source and destination.
R69, R62, R66: a ready MOVE, LIMM or LIMMU completes: its destination takes the value, the source's pop takes its entry, the
slot commits and, for a literal source, the literal with it. -/
def Obligations.Moves : Prop :=
  ((∀ x : Word, valS (.s x) = x) ∧
  (∀ (x : Word) (j : Nat), j < 64 → laneOf (valV (.s x)) j = .ofNat 32 x.toNat) ∧
  (∀ v : Vec, valV (.v v) = v) ∧
  (∀ v : Vec, valS (.v v) = (laneOf v 1) ++ (laneOf v 0)) ∧
  (∀ y : Val, valP y = decide (valS y ≠ 0))) ∧
  (∀ (st : State) (n : BitVec 1) (g : BitVec 4) (d : BitVec 10),
    let done := fun (s : Nat) =>
      commitSlot (modCore (afterSource st s) st.cur fun k => putDest k (slotIssue st) d.toNat (sourceVal st s)) (slotIssue st)
        (slotWidth s) (writtenBy (slotCore st) d.toNat)
    (∀ s : BitVec 9, SlotReady st n g s.toNat → exec (.move n g s d) st = .next (done s.toNat)) ∧
    (SlotReady st n g 0x186 → exec (.limm n g d) st = .next (done 0x186)) ∧
    (SlotReady st n g 0x187 → exec (.limmu n g d) st = .next (done 0x187)))

/-- R8, R58, R12: a move to a g register changes of its core that physical register, the record of the bundle and, where its source
is a pop that the bundle has not yet made, the load-data queue of its level, which loses its head: everything else of the core, all
of memory and the other agents stay. -/
def Obligations.MoveToGeneralFrame : Prop :=
  ∀ (st t : State) (n : BitVec 1) (g : BitVec 4) (s : BitVec 9) (d : BitVec 10),
    0 < d.toNat → d.toNat < 0x80 → SlotReady st n g s.toNat → exec (.move n g s d) st = .next t →
    OutsideSame st t ∧
    (∃ x i, coreOf t st.cur = { (if s.toNat = 0x180 ∧ popHeld (slotIssue st) = false then
        setLdq (slotCore st) ((ldqOf (slotCore st)).drop 1) else slotCore st) with
      files := { (slotCore st).files with g := x }, issue := some i }) ∧
    (∀ r, physCode (slotCore st) d.toNat ≠ some r → tget 0 (coreOf t st.cur).files.g r = tget 0 (slotCore st).files.g r) ∧
    (∀ r, physCode (slotCore st) d.toNat = some r → tget 0 (coreOf t st.cur).files.g r = valS (sourceVal st s.toNat))

/-- R64: whatever its instruction, a slot that is disabled commits with no effect: it pops nothing, writes nothing and starts
nothing; its DONE bit (and its literal's) is set. -/
def Obligations.DisabledSlotDoesNothing : Prop :=
  ∀ (i : Instr) (w : SlotWord) (st : State), encode i = .slot w → WellFormed i →
    slotEnabled (slotCore st) (slotIssue st) (slotN w) (slotG w) = false →
    exec i st = .next (commitSlot (setCore st st.cur { slotCore st with issue := some (slotIssue st) }) (slotIssue st)
      (slotWidth (slotS w).toNat) [])

/-- R10, R65, R84: an operation that only delivers a result leaves memory and every other agent alone and, of its own core,
every register, result port, engine and access in flight; of the operand ports it writes port a of its own unit only. -/
def Obligations.ResultOperationFrame : Prop :=
  ∀ (st : State) (s u port lat : Nat) (v : Val) (fl : BitVec 8), u < 12 → s ≠ 0x180 →
    let t := afterTrigger st s u (resultTo st port v fl lat)
    OutsideSame st t ∧ CoreSame (slotCore st) (coreOf t st.cur) ∧
    (coreOf t st.cur).ldq = (slotCore st).ldq ∧ (coreOf t st.cur).sbank.ldq = (slotCore st).sbank.ldq ∧
    (coreOf t st.cur).flight = (slotCore st).flight ++
      [{ port := port, val := some v, flags := fl, rem := lat, lvl := lvlOf (slotCore st), ssid := 0 }] ∧
    ∀ u' p, u' < 12 → p < 4 → (u' ≠ u ∨ p ≠ 0) → PortSame (slotCore st) (coreOf t st.cur) u' p

/-! ### Integer operations -/

/-- R118, R119, R88: every operation of R119's table completes, on IA0 and on IA1, whatever its operands: the result of the
table reaches the unit's result port after the latency of R88, and no flag is set. -/
def Obligations.IntegerResults : Prop :=
  ∀ (st : State) (n : BitVec 1) (g : BitVec 4) (s : BitVec 9) (u : BitVec 2), u = 1 ∨ u = 2 → SlotReady st n g s.toNat →
    ∀ r ∈ iaRows n g s u (operands st u.toNat s.toNat),
      exec r.1 st = .next (afterTrigger st s.toNat u.toNat (resultTo st (0x0F0 + u.toNat) (.s r.2.2) 0 r.2.1))

/-- R120: div, divu, rem and remu complete in 20 issue ticks in every case, division by zero and −2^63 by −1 among them.
R121: sext, zext, bfx and bfi complete for every width and position, widths of 65 to 127 taken as 64, and a field cut at
bit 63. -/
def Obligations.DivisionAndFieldResults : Prop :=
  (∀ (st : State) (n : BitVec 1) (g : BitVec 4) (s : BitVec 9) (u : BitVec 2), u = 1 ∨ u = 2 → SlotReady st n g s.toNat →
    ∀ r ∈ divRows n g s u (operands st u.toNat s.toNat),
      exec r.1 st = .next (afterTrigger st s.toNat u.toNat (resultTo st (0x0F0 + u.toNat) (.s r.2.2) 0 r.2.1))) ∧
  (∀ (st : State) (n : BitVec 1) (g : BitVec 4) (s : BitVec 9) (u : BitVec 2), u = 1 ∨ u = 2 → SlotReady st n g s.toNat →
    ∀ r ∈ fieldRows n g s u (operands st u.toNat s.toNat),
      exec r.1 st = .next (afterTrigger st s.toNat u.toNat (resultTo st (0x0F0 + u.toNat) (.s r.2.2) 0 r.2.1)))

/-! ### Control operations -/

/-- R101: a ready control operation whose conditions hold (R102 for a target, R113 for eret, R115 for a register write, R110 for
donet) completes its slot: it latches its effect with the values of ports a and b, and changes neither the program counter nor
a control register; call and calli also send the index of the following bundle to cu.r at latency 1 (R104). -/
def Obligations.ControlSlotsComplete : Prop :=
  ∀ (st : State) (n : BitVec 1) (g : BitVec 4) (s : BitVec 9), SlotReady st n g s.toNat →
    let x := operands st 0 s.toNat
    let latched := fun (op : Nat) => afterTrigger st s.toNat 0 fun y =>
      modCore y st.cur fun k => { k with issue := some { slotIssue st with pend := some { op := op, a := x.a, b := x.b } } }
    let called := fun (op : Nat) => afterTrigger st s.toNat 0 fun y =>
      modCore y st.cur fun k =>
        { launchResult k 0x0F0 (some (.s (.ofNat 64 ((slotIssue st).idx + 1)))) 0 1 0 with
          issue := some { slotIssue st with pend := some { op := op, a := x.a, b := x.b } } }
    let jumps := fun (t : Word) => t.toNat ≤ 10921 ∧ (x.lvl = .t → t.toNat < 9898)
    (∀ r ∈ [(Instr.jmp n g s, 0x04, x.a), (.jmpi n g s, 0x05, x.a + x.b), (.ret n g s, 0x08, x.a), (.leave n g s, 0x0A, x.a)],
      jumps r.2.2 → exec r.1 st = .next (latched r.2.1)) ∧
    (∀ r ∈ [(Instr.call n g s, 0x06, x.a), (.calli n g s, 0x07, x.a + x.b)], jumps r.2.2 → exec r.1 st = .next (called r.2.1)) ∧
    ((jumps x.a ∨ (loopTest (slotIssue st).loopIn).2 = false) → exec (.loop n g s) st = .next (latched 0x09)) ∧
    (∀ r ∈ [(Instr.waitc n g s, 0x0B), (.nextt n g s, 0x0C), (.sysc n g s, 0x0E), (.brk n g s, 0x10), (.ifence n g s, 0x15),
      (.pmark n g s, 0x16)], exec r.1 st = .next (latched r.2)) ∧
    (NotHeld st (donetCheck st x) → exec (.donet n g s) st = .next (latched 0x0D)) ∧
    (x.lvl = .s → exec (.eret n g s) st = .next (latched 0x0F)) ∧
    (∀ r ∈ [(Instr.csrw n g s, 0x12), (.csrs n g s, 0x13), (.csrc n g s, 0x14)],
      csrListed x.a.toNat = true → (csrSrw x.a.toNat = true → x.lvl = .s) → exec r.1 st = .next (latched r.2))

/-- R103, R104, R107, R108, R116: the effect of a control operation when its bundle, of index `idx`, closes on a core at tick
`now`: the next bundle, and TRIP for leave, and the first tick of the next issue for waitc and ifence; without a control
operation the next bundle is the following one. That the tick T of a waitc which eret completes is the tick of its completion is the
model's choice (log 44). -/
def Obligations.ControlEffects : Prop :=
  (∀ (st : State) (c : Nat) (i : Issue), c < 768 → (coreOf st c).issue = some i → 8 ≤ i.slot → i.pend = none →
    ∃ t, exec (.bundleIssue c) st = .next t ∧ t.turn = .agenda ∧ (coreOf t c).pc = .ofNat 14 (i.idx + 1) ∧
      (coreOf t c).issue = none ∧ (coreOf t c).files = (coreOf st c).files ∧ t.mem = st.mem) ∧
  ∀ (st : State) (c : Nat) (i : Issue) (p : CuPend), c < 768 → (coreOf st c).issue = some i → 8 ≤ i.slot → i.pend = some p →
    ∃ t, exec (.bundleIssue c) st = .next t ∧ t.turn = .agenda ∧
      (p.op ∈ [0x04, 0x06, 0x08, 0x0A] → (coreOf t c).pc = .ofNat 14 p.a.toNat) ∧
      (p.op ∈ [0x05, 0x07] → (coreOf t c).pc = .ofNat 14 (p.a.toNat + p.b.toNat)) ∧
      (p.op = 0x0A → (coreOf t c).csr.trip = 0 ∧ (coreOf t c).csr.grb = (coreOf st c).csr.grb ∧
        (coreOf t c).csr.vrb = (coreOf st c).csr.vrb ∧ (coreOf t c).csr.prb = (coreOf st c).csr.prb ∧
        (coreOf t c).csr.stgw = (coreOf st c).csr.stgw ∧ (coreOf t c).files = (coreOf st c).files) ∧
      (p.op ∈ [0x0B, 0x15, 0x16] → (coreOf t c).pc = .ofNat 14 (i.idx + 1)) ∧
      (p.op = 0x0B → waitOf (coreOf t c) = (dieOf st (dieIx c)).dtick + 1 + p.a.toNat % 2 ^ 32) ∧
      (p.op = 0x15 → waitOf (coreOf t c) = (dieOf st (dieIx c)).dtick + 4) ∧
      (p.op ∈ [0x04, 0x05, 0x06, 0x07, 0x08, 0x0A, 0x0B, 0x15, 0x16] → (coreOf t c).issue = none ∧ t.mem = st.mem)

/-- R105, R106: loop at the close of its bundle. A real iteration starts when TRIP was not zero; while a stage still has work
the bases step back by one, the predicate p8 under the new PRB says whether an iteration starts, and the next bundle is the
target; else no base, TRIP, STGW or predicate changes and the following bundle is next. STGW, the ports and memory stay in both cases,
and of the status registers only what operations raised in the same tick is ORed in (R21). -/
def Obligations.LoopRotates : Prop :=
  ∀ (st : State) (c : Nat) (i : Issue) (p : CuPend), c < 768 → (coreOf st c).issue = some i → 8 ≤ i.slot →
    i.pend = some p → p.op = 0x09 →
    let l := i.loopIn
    let k := coreOf st c
    let starts := decide (0 < l.trip.toNat)
    let stage := fun (j : Nat) => tget false l.preds (8 + (j + l.prb.toNat) % 8)
    let busy := starts = true ∨ ∃ j, j + 1 < min l.stgw.toNat 8 ∧ stage j = true
    ∃ t, exec (.bundleIssue c) st = .next t ∧
      (busy → (coreOf t c).pc = .ofNat 14 p.a.toNat ∧ (coreOf t c).csr.grb = k.csr.grb - 1 ∧
        (coreOf t c).csr.vrb = k.csr.vrb - 1 ∧ (coreOf t c).csr.prb = l.prb - 1 ∧
        (coreOf t c).csr.trip = (if starts then l.trip - 1 else k.csr.trip) ∧
        (∀ j, j < 16 → tget false (coreOf t c).files.p j =
          if j = 8 + (l.prb - 1).toNat then starts else tget false k.files.p j)) ∧
      (¬ busy → (coreOf t c).pc = .ofNat 14 (i.idx + 1) ∧ (coreOf t c).files = k.files ∧
        (coreOf t c).csr = { k.csr with vstat := (coreOf t c).csr.vstat, mxstat := (coreOf t c).csr.mxstat,
                                        ssstat := (coreOf t c).csr.ssstat }) ∧
      (coreOf t c).csr.stgw = k.csr.stgw ∧ (coreOf t c).ports = k.ports ∧ t.mem = st.mem ∧
      ((k.mxEvt = none → (coreOf t c).csr.mxstat = k.csr.mxstat ||| k.newMx) ∧
        (k.ssEvt = none → (coreOf t c).csr.ssstat = k.csr.ssstat ||| k.newSs) ∧
        (coreOf t c).csr.vstat = k.csr.vstat ||| .ofNat 16 k.newFlags.toNat)

/-- R114, R16, R17: csrr of a listed register completes and sends to cu.r, at latency 1, the register zero-extended; at T level
the seven registers that R17 names read as zero.
R115, R18, R19, R20: what csrw, csrs and csrc leave when their bundle closes: b, old | b or old & ~b, of a narrow register its
low bits, of XSTAT not the level or PEND, reserved bits zero; a register that only reads keeps its value; a write of XPC
clears the pending record.
R115, R101: csrw, csrs and csrc take effect when their bundle closes: the register takes its new value and the following bundle
is next (flags that operations raised in the same tick are ORed in, R21). Every other control register keeps its value. -/
def Obligations.CsrAccesses : Prop :=
  (∀ (st : State) (n : BitVec 1) (g : BitVec 4) (s : BitVec 9), SlotReady st n g s.toNat →
      let x := operands st 0 s.toNat
      let r := (slotCore st).csr
      let reads := fun (v : Word) => exec (.csrr n g s) st = .next (afterTrigger st s.toNat 0 (resultTo st 0x0F0 (.s v) 0 1))
      (∀ q ∈ [(0x000, r.xstat), (0x001, r.xpc), (0x002, r.xcause), (0x003, r.xaddr), (0x050, r.savebase), (0x051, r.savelim),
          (0x070, BitVec.ofNat 64 r.asid.toNat)],
        x.a.toNat = q.1 → reads (if x.lvl = .t then 0 else q.2)) ∧
      (∀ q ∈ [(0x010, BitVec.ofNat 64 r.grb.toNat), (0x011, BitVec.ofNat 64 r.vrb.toNat), (0x012, BitVec.ofNat 64 r.prb.toNat),
          (0x013, BitVec.ofNat 64 r.trip.toNat), (0x014, BitVec.ofNat 64 r.stgw.toNat), (0x020, BitVec.ofNat 64 r.vstat.toNat),
          (0x021, r.mxstat), (0x022, r.ssstat), (0x030, r.devctl), (0x052, r.lrtbase), (0x060, BitVec.ofNat 64 r.tileidx.toNat),
          (0x061, r.phaseid), (0x062, r.launchid), (0x063, r.jobid), (0x071, BitVec.ofNat 64 r.keyid.toNat), (0x072, r.seed)],
        x.a.toNat = q.1 → reads q.2) ∧
      (∀ j, j < 4 → x.a.toNat = 0x040 + j → reads (tget 0 r.wpb j)) ∧
      (∀ j, j < 4 → x.a.toNat = 0x048 + j → reads (tget 0 r.wpm j)) ∧
      (∀ j, j < 4 → x.a.toNat = 0x080 + j → reads (tget 0 st.host.feat j))) ∧
  ((∀ (k : Core) (op : Nat) (old b : Word),
      let v := csrNew op old b
      (op = 0x12 → v = b) ∧ (op = 0x13 → v = old ||| b) ∧ (op = 0x14 → v = old &&& ~~~b) ∧
      (csrPut k 0x010 v).csr = { k.csr with grb := .ofNat 6 v.toNat } ∧
      (csrPut k 0x011 v).csr = { k.csr with vrb := .ofNat 5 v.toNat } ∧
      (csrPut k 0x012 v).csr = { k.csr with prb := .ofNat 3 v.toNat } ∧
      (csrPut k 0x013 v).csr = { k.csr with trip := .ofNat 32 v.toNat } ∧
      (csrPut k 0x014 v).csr = { k.csr with stgw := .ofNat 4 v.toNat } ∧
      (csrPut k 0x020 v).csr = { k.csr with vstat := .ofNat 16 (v.toNat % 256) } ∧
      (csrPut k 0x030 v).csr = { k.csr with devctl := v &&& 0xFFFF000D } ∧
      ((csrPut k 0x001 v).csr = { k.csr with xpc := v } ∧ (csrPut k 0x001 v).pend = none) ∧
      (csrPut k 0x003 v).csr = { k.csr with xaddr := v } ∧
      (csrPut k 0x000 v).csr = { k.csr with xstat := (k.csr.xstat &&& ~~~0xFF7E0000) ||| (v &&& 0xFF7E0000) } ∧
      (csrPut k 0x050 v).csr = { k.csr with savebase := v } ∧ (csrPut k 0x051 v).csr = { k.csr with savelim := v } ∧
      (csrPut k 0x052 v).csr = { k.csr with lrtbase := v } ∧
      (csrPut k 0x002 v).csr = { k.csr with xcause := v &&& 0x0000FFFF00F0FF9F } ∧
      (csrPut k 0x021 v).csr = { k.csr with mxstat := v &&& 0x000000FFFF0700FF } ∧
      (csrPut k 0x022 v).csr = { k.csr with ssstat := v &&& 0x0000000000FF0DFF } ∧
      (∀ j, j < 4 → (csrPut k (0x040 + j) v).csr = { k.csr with wpb := tset 0 k.csr.wpb j v } ∧
        (csrPut k (0x048 + j) v).csr = { k.csr with wpm := tset 0 k.csr.wpm j (v &&& 0x00000000FFFFFF03) }) ∧
      (csrPut k 0x070 v).csr = { k.csr with asid := .ofNat 16 v.toNat } ∧
      (csrPut k 0x071 v).csr = { k.csr with keyid := .ofNat 10 v.toNat } ∧ (csrPut k 0x072 v).csr = { k.csr with seed := v } ∧
      (∀ n, n ∈ [0x060, 0x061, 0x062, 0x063, 0x080, 0x081, 0x082, 0x083] → csrPut k n v = k)) ∧
    (∀ (st : State) (c : Nat) (i : Issue) (p : CuPend), c < 768 → (coreOf st c).issue = some i → 8 ≤ i.slot →
      i.pend = some p → p.op ∈ [0x12, 0x13, 0x14] →
      let k := coreOf st c
      let r := k.csr
      ∃ t, exec (.bundleIssue c) st = .next t ∧ (coreOf t c).pc = .ofNat 14 (i.idx + 1) ∧ (coreOf t c).files = k.files ∧
        (∀ q ∈ [(0x000, r.xstat), (0x001, r.xpc), (0x002, r.xcause), (0x003, r.xaddr), (0x010, BitVec.ofNat 64 r.grb.toNat),
            (0x011, BitVec.ofNat 64 r.vrb.toNat), (0x012, BitVec.ofNat 64 r.prb.toNat), (0x013, BitVec.ofNat 64 r.trip.toNat),
            (0x014, BitVec.ofNat 64 r.stgw.toNat), (0x020, BitVec.ofNat 64 r.vstat.toNat), (0x021, r.mxstat), (0x022, r.ssstat),
            (0x030, r.devctl), (0x040, tget 0 r.wpb 0), (0x041, tget 0 r.wpb 1), (0x042, tget 0 r.wpb 2), (0x043, tget 0 r.wpb 3),
            (0x048, tget 0 r.wpm 0), (0x049, tget 0 r.wpm 1), (0x04A, tget 0 r.wpm 2), (0x04B, tget 0 r.wpm 3),
            (0x050, r.savebase), (0x051, r.savelim), (0x052, r.lrtbase), (0x060, BitVec.ofNat 64 r.tileidx.toNat),
            (0x061, r.phaseid), (0x062, r.launchid), (0x063, r.jobid), (0x070, BitVec.ofNat 64 r.asid.toNat),
            (0x071, BitVec.ofNat 64 r.keyid.toNat), (0x072, r.seed), (0x080, tget 0 st.host.feat 0), (0x081, tget 0 st.host.feat 1),
            (0x082, tget 0 st.host.feat 2), (0x083, tget 0 st.host.feat 3)], p.a.toNat = q.1 →
          let z := (csrPut k q.1 (csrNew p.op q.2 p.b)).csr
          (coreOf t c).csr = { z with vstat := (coreOf t c).csr.vstat, mxstat := (coreOf t c).csr.mxstat,
                                      ssstat := (coreOf t c).csr.ssstat } ∧
          (coreOf t c).csr.vstat = z.vstat ||| .ofNat 16 k.newFlags.toNat ∧
          (k.mxEvt = none → (coreOf t c).csr.mxstat = z.mxstat ||| k.newMx) ∧
          (k.ssEvt = none → (coreOf t c).csr.ssstat = z.ssstat ||| k.newSs)) ∧
        (p.a = 0x013 → (coreOf t c).csr.trip = .ofNat 32 (csrNew p.op (.ofNat 64 (coreOf st c).csr.trip.toNat) p.b).toNat) ∧
        (p.a = 0x072 → (coreOf t c).csr.seed = csrNew p.op (coreOf st c).csr.seed p.b) ∧
        (p.a = 0x030 → (coreOf t c).csr.devctl = csrNew p.op (coreOf st c).csr.devctl p.b &&& 0xFFFF000D) ∧
        (p.a = 0x020 → (coreOf t c).csr.vstat =
          .ofNat 16 ((csrNew p.op (.ofNat 64 (coreOf st c).csr.vstat.toNat) p.b).toNat % 256) |||
            .ofNat 16 (coreOf st c).newFlags.toNat)))

/-- R102, R113, R114, R115: the checks of control operations at their slots. A target above 10,921 is ILLPC and one in the protected
partition at T level PRIV; eret at T level is PRIV; a register that R16 does not list is ILLCSR, and a write of an S-RW
register at T level PRIV, with the number or the target in XADDR. That XADDR of an eret at T level is its port a is the model's choice
(log 27). -/
def Obligations.ControlChecks : Prop :=
  ∀ (st : State) (x : Args),
    (∀ t : Word, 10921 < t.toNat → targetCheck x.lvl t = .fault 3 0 t.toNat) ∧
    (∀ t : Word, x.lvl = .t → 9898 ≤ t.toNat → t.toNat ≤ 10921 → targetCheck x.lvl t = .fault 4 0 t.toNat) ∧
    (x.lvl = .t → trigEret.check st x = .fault 4 2 x.a.toNat) ∧
    (csrListed x.a.toNat = false → trigCsrr.check st x = .fault 5 0 x.a.toNat ∧ trigCsrw.check st x = .fault 5 0 x.a.toNat ∧
      trigCsrs.check st x = .fault 5 0 x.a.toNat ∧ trigCsrc.check st x = .fault 5 0 x.a.toNat) ∧
    (x.lvl = .t → ∀ n, n ∈ [0x000, 0x001, 0x002, 0x003, 0x030, 0x040, 0x041, 0x042, 0x043, 0x048, 0x049, 0x04A, 0x04B, 0x050,
      0x051, 0x052, 0x070, 0x071, 0x072] → x.a.toNat = n → trigCsrw.check st x = .fault 4 1 n ∧
        trigCsrs.check st x = .fault 4 1 n ∧ trigCsrc.check st x = .fault 4 1 n)

/-! ### Exceptions -/

/-- R321, R319: taking an exception that is neither a replay cause nor XLFLT: XPC, DONE, SLOTRES, MID and SHD from the stop, PLVL the
level before, the level S, PEND as it was, XCAUSE and XADDR from the cause, and the next bundle 9,898 + CODE; the hold of a held bundle
ends and is charged, and of the record of failed walks the core's own go. Nothing else of the core
changes: no register of the files, no port, no queue, no other control register; and no memory. -/
def Obligations.TrapEntry : Prop :=
  ∀ (st : State) (c : Nat) (k : Core) (s : Stop) (f : Cause), replayCode f.code = false → f.code ≠ 8 → f.code < 32 →
    let t := takeTrap st c k s f
    let r := (coreOf t c).csr
    r.xpc = .ofNat 64 s.xpc.toNat ∧
    r.xstat.extractLsb' 24 8 = s.done ∧ r.xstat.extractLsb' 20 3 = .ofNat 3 s.slotres ∧ r.xstat.getLsbD 19 = s.mid ∧
    r.xstat.getLsbD 18 = !s.shadows.isEmpty ∧ r.xstat.getLsbD 17 = k.csr.xstat.getLsbD 16 ∧ r.xstat.getLsbD 16 = true ∧
    r.xstat.extractLsb' 0 8 = k.csr.xstat.extractLsb' 0 8 ∧
    r.xcause = xcauseOf f ∧ r.xcause.extractLsb' 0 5 = .ofNat 5 f.code ∧ r.xcause.extractLsb' 8 8 = .ofNat 8 f.detail ∧
    r.xaddr = .ofNat 64 f.xaddr ∧ (coreOf t c).pc = .ofNat 14 (9898 + f.code) ∧
    (coreOf t c).files = k.files ∧ t.mem = st.mem ∧ (∀ o, o ≠ c → coreOf t o = coreOf st o) ∧
    ∃ devt dev late wx, coreOf t c =
      { k with csr := { k.csr with xpc := r.xpc, xstat := r.xstat, xcause := r.xcause, xaddr := r.xaddr }
               pc := .ofNat 14 (9898 + f.code), held := none, devt := devt, dev := dev, xlFault := late, wxStub := wx }

/-- R65, R321, R115, R114, R113: an execution fault at T level is taken precisely at its slot: a ready eret (PRIV), a csrr of a number
that R16 does not list (ILLCSR), a csrw of an S-RW register (PRIV) trap to the stub of their code with MID 1, SLOTRES the slot,
DONE the slots that have committed, XPC the bundle and XADDR as R320 says.
R326: an unlisted register and a misaligned access at S level are double faults: the core stops, its trap registers, ENMASK and pending
record as they were, no slot commits, and STUBFLT with the fault's code and XADDR is reported.
R123, R124: a scalar load or store of a misaligned address at T level traps with ALIGN at its slot and the address in XADDR, and
accesses nothing. That XADDR of an eret at T level is its port a is the model's
choice (log 27). -/
def Obligations.SlotFaults : Prop :=
  (∀ (st : State) (n : BitVec 1) (g : BitVec 4) (s : BitVec 9), SlotReady st n g s.toNat → lvlOf (slotCore st) = .t →
    (slotIssue st).slot < 8 →
    let x := operands st 0 s.toNat
    let traps := fun (i : Instr) (code detail : Nat) => ∃ t, exec i st = .next t ∧ t.turn = .agenda ∧ t.mem = st.mem ∧
      (coreOf t st.cur).pc = .ofNat 14 (9898 + code) ∧ (coreOf t st.cur).issue = none ∧
      (coreOf t st.cur).files = (slotCore st).files ∧
      let r := (coreOf t st.cur).csr
      r.xpc = .ofNat 64 (slotCore st).pc.toNat ∧ r.xaddr = x.a ∧ r.xstat.getLsbD 16 = true ∧ r.xstat.getLsbD 17 = false ∧
      r.xstat.getLsbD 19 = true ∧ r.xstat.extractLsb' 20 3 = .ofNat 3 (slotIssue st).slot ∧
      r.xstat.extractLsb' 24 8 = (slotIssue st).done ∧ r.xcause.extractLsb' 0 5 = .ofNat 5 code ∧
      r.xcause.extractLsb' 8 8 = .ofNat 8 detail
    traps (.eret n g s) 4 2 ∧
    (csrListed x.a.toNat = false → traps (.csrr n g s) 5 0 ∧ traps (.csrw n g s) 5 0) ∧
    (csrListed x.a.toNat = true → csrSrw x.a.toNat = true → traps (.csrw n g s) 4 1 ∧ traps (.csrs n g s) 4 1 ∧
      traps (.csrc n g s) 4 1)) ∧
  (∀ (st : State) (n : BitVec 1) (g : BitVec 4) (s : BitVec 9), SlotReady st n g s.toNat → lvlOf (slotCore st) = .s →
    let stops := fun (i : Instr) (code : Nat) (xaddr : Word) =>
      ∃ t, exec i st = .next t ∧ (coreOf t st.cur).run = .stubflt ∧ (coreOf t st.cur).issue = none ∧
        (coreOf t st.cur).csr = (slotCore st).csr ∧ (coreOf t st.cur).enmask = (slotCore st).enmask ∧
        (coreOf t st.cur).pend = (slotCore st).pend ∧ (coreOf t st.cur).files = (slotCore st).files ∧
        t.host.posted = st.host.posted ++ [.stubflt st.cur code xaddr] ∧ t.mem = st.mem
    let x := operands st 0 s.toNat
    let y := operands st 3 s.toNat
    (csrListed x.a.toNat = false → ∀ i ∈ [Instr.csrr n g s, .csrw n g s, .csrs n g s, .csrc n g s], stops i 5 x.a) ∧
    (∀ r ∈ [(Instr.ldH n g s, 2), (.ldHu n g s, 2), (.ldW n g s, 4), (.ldWu n g s, 4), (.ldD n g s, 8), (.stH n g s, 2),
      (.stW n g s, 4), (.stD n g s, 8), (.aadd n g s, 8), (.aswp n g s, 8), (.acas n g s, 8)],
      y.a.toNat % r.2 ≠ 0 → stops r.1 7 y.a)) ∧
  (∀ (st : State) (n : BitVec 1) (g : BitVec 4) (s : BitVec 9), SlotReady st n g s.toNat → lvlOf (slotCore st) = .t →
      let x := operands st 3 s.toNat
      ∀ r ∈ [(Instr.ldH n g s, 2), (.ldHu n g s, 2), (.ldW n g s, 4), (.ldWu n g s, 4), (.ldD n g s, 8), (.stH n g s, 2),
          (.stW n g s, 4), (.stD n g s, 8), (.aadd n g s, 8), (.aswp n g s, 8), (.acas n g s, 8)],
        x.a.toNat % r.2 ≠ 0 →
          ∃ t, exec r.1 st = .next t ∧ (coreOf t st.cur).pc = .ofNat 14 (9898 + 7) ∧ (coreOf t st.cur).csr.xaddr = x.a ∧
            (coreOf t st.cur).csr.xcause.extractLsb' 0 5 = 7 ∧ (coreOf t st.cur).csr.xstat.getLsbD 19 = true ∧
            (coreOf t st.cur).accs = (slotCore st).accs ∧ (coreOf t st.cur).ldq = (slotCore st).ldq ∧ t.mem = st.mem)

/-- R111, R112: when the bundle of a sysc closes, its core traps to the stub of SYSC with XPC the bundle after it, DONE, SLOTRES, MID
and SHD zero, PLVL the level before, and XADDR port a; brk does the same with BRK, or halts its core at the bundle after it
where halt-on-break is armed. -/
def Obligations.SyscAndBrk : Prop :=
  ∀ (st : State) (c : Nat) (i : Issue) (p : CuPend), c < 768 → (coreOf st c).issue = some i → 8 ≤ i.slot → i.pend = some p →
    let traps := fun (code : Nat) => ∃ t, exec (.bundleIssue c) st = .next t ∧
      (coreOf t c).pc = .ofNat 14 (9898 + code) ∧ t.mem = st.mem ∧
      let r := (coreOf t c).csr
      r.xpc = .ofNat 64 ((i.idx + 1) % 2 ^ 14) ∧ r.xaddr = p.a ∧ r.xcause.extractLsb' 0 5 = .ofNat 5 code ∧
      r.xstat.extractLsb' 18 14 = 0 ∧ r.xstat.getLsbD 17 = (coreOf st c).csr.xstat.getLsbD 16 ∧ r.xstat.getLsbD 16 = true
    (p.op = 0x0E → traps 16) ∧
    (p.op = 0x10 → (coreOf st c).dbg.dstat.getLsbD 0 = false → traps 17) ∧
    (p.op = 0x10 → (coreOf st c).dbg.dstat.getLsbD 0 = true → ∃ t, exec (.bundleIssue c) st = .next t ∧
      (coreOf t c).run = .halted ∧ (coreOf t c).dbg.dpc = .ofNat 14 (i.idx + 1) ∧
      (coreOf t c).csr.xpc = (coreOf st c).csr.xpc ∧ (coreOf t c).csr.xcause = (coreOf st c).csr.xcause)

/-- R113: when the bundle of an eret closes, the level becomes PLVL, every other field of XSTAT stays, the next bundle is XPC, and
the re-entry is slot by slot with DONE when MID is 1, of the whole bundle when it is 0. That the next bundle of an XPC wider than 14 bits
is its low 14 bits is the model's choice (log 44). -/
def Obligations.ReturnFromTrap : Prop :=
  ∀ (st : State) (c : Nat) (i : Issue) (p : CuPend), c < 768 → (coreOf st c).issue = some i → 8 ≤ i.slot → i.pend = some p →
    p.op = 0x0F →
    let x := (coreOf st c).csr.xstat
    ∃ t, exec (.bundleIssue c) st = .next t ∧
      (coreOf t c).csr.xstat.getLsbD 16 = x.getLsbD 17 ∧
      (∀ j, j ≠ 16 → (coreOf t c).csr.xstat.getLsbD j = x.getLsbD j) ∧
      (coreOf t c).pc = .ofNat 14 (coreOf st c).csr.xpc.toNat ∧
      (x.getLsbD 19 = true → ∃ w, (coreOf t c).reenter = some (x.extractLsb' 24 8, w)) ∧
      (x.getLsbD 19 = false → (coreOf t c).reenter = none) ∧ t.mem = st.mem

/-- R322: at T level, between bundles, the pending event of the lowest bit is delivered: its bit is cleared and its trap taken
with ASYNC 1 and MID 0 at the next bundle; the others wait, and PEND shows the bits of those alone. At S level none is delivered. That a
bit stays set while a further event of it waits is the model's choice (log 27). -/
def Obligations.AsynchronousEvents : Prop :=
  ∀ (st : State) (c : Nat), c < 768 → (coreOf st c).wx = [] → (coreOf st c).run = .run → (coreOf st c).issue = none →
    (coreOf st c).reenter = none → (coreOf st c).dbg.haltAt = none → (coreOf st c).dbg.step = 0 →
    (∀ e rest, lvlOf (coreOf st c) = .t → (coreOf st c).pendEv = e :: rest → (∀ x ∈ rest, e.1 ≤ x.1) →
      e.2.1.toNat % 32 ∈ [18, 19, 20] →
      ∃ t, exec (.asyncEventDelivery c) st = .next t ∧ (coreOf t c).pendEv = rest ∧
        (coreOf t c).pc = .ofNat 14 (9898 + e.2.1.toNat % 32) ∧ (coreOf t c).csr.xpc = .ofNat 64 (coreOf st c).pc.toNat ∧
        (coreOf t c).csr.xcause.getLsbD 7 = true ∧ (coreOf t c).csr.xstat.getLsbD 19 = false ∧
        (coreOf t c).csr.xaddr = e.2.2 ∧ (coreOf t c).csr.xstat.getLsbD 16 = true ∧
        (∀ j, j < 8 → (coreOf t c).csr.xstat.getLsbD j = rest.any (·.1 == j))) ∧
    (lvlOf (coreOf st c) = .s → ∃ t, exec (.asyncEventDelivery c) st = .next t ∧ (coreOf t c).pendEv = (coreOf st c).pendEv ∧
      (coreOf t c).csr = (coreOf st c).csr ∧ (coreOf t c).pc = (coreOf st c).pc)

/-- R109, R110: when the bundle of a nextt closes on a core with a further entry in its schedule, the core takes that entry's
coordinates, tile index and entry bundle; at the last entry its part of the launch ends and the coordinates stay. donet reports and
goes on. The report of the current entry enters the reorder window of its launch, under the entry's tile index: status a[7:0] of donet,
0xFF of a nextt whose entry was not reported; no other index of the window changes. An entry that was reported reports nothing more.
That the implicit report of nextt enters without a hold is the model's choice (log 44). -/
def Obligations.NexttAndDonet : Prop :=
  ∀ (st : State) (c : Nat) (i : Issue) (p : CuPend), c < 768 → (coreOf st c).issue = some i → 8 ≤ i.slot → i.pend = some p →
    (∀ j e, p.op = 0x0C → nextEntry (coreOf st c) (coreOf st c).cursor = some j → (coreOf st c).sched[j]? = some e →
      ∃ t, exec (.bundleIssue c) st = .next t ∧ (coreOf t c).tx = e.tx ∧ (coreOf t c).ty = e.ty ∧ (coreOf t c).tz = e.tz ∧
        (coreOf t c).csr.tileidx = .ofNat 32 e.tidx ∧ (coreOf t c).pc = .ofNat 14 e.entry ∧ (coreOf t c).cursor = j ∧
        (coreOf t c).reported = false ∧ (coreOf t c).files = (coreOf st c).files) ∧
    (p.op = 0x0C → nextEntry (coreOf st c) (coreOf st c).cursor = none →
      ∃ t, exec (.bundleIssue c) st = .next t ∧ (coreOf t c).run = .ended ∧ (coreOf t c).tx = (coreOf st c).tx ∧
        (coreOf t c).csr.tileidx = (coreOf st c).csr.tileidx ∧ (coreOf t c).reported = true) ∧
    (p.op = 0x0D → ∃ t, exec (.bundleIssue c) st = .next t ∧ (coreOf t c).pc = .ofNat 14 (i.idx + 1) ∧
      (coreOf t c).reported = true ∧ (coreOf t c).cursor = (coreOf st c).cursor) ∧
    (∀ q j g l e, p.op ∈ [0x0C, 0x0D] → q < 256 → (coreOf st c).launch = some (q, j) → (slotOf st q).graph = some g →
      g.launches[j]? = some l → (coreOf st c).sched[(coreOf st c).cursor]? = some e →
      ∃ t g', exec (.bundleIssue c) st = .next t ∧ (slotOf t q).graph = some g' ∧
        ((coreOf st c).reported = true → g' = g) ∧
        ((coreOf st c).reported = false → ∃ l', g'.launches[j]? = some l' ∧ l'.base = l.base ∧
          (∀ u, u ≠ e.tidx → tget none l'.rep u = tget none l.rep u) ∧
          (tget none l.rep e.tidx = none →
            tget none l'.rep e.tidx = some (if p.op = 0x0C then 0xFF else .ofNat 16 (p.a.toNat % 256)))))

/-! ### Memory operations -/

/-- R127, R126, R12, R268: a scalar load that is aligned, translated and unwatched completes: an entry joins the load-data queue,
not yet arrived, with the bytes of the core's view at the issue; a PADDED one is ready after the padded latency of its
region (R263). No memory and no register changes.
R128: ldv, ldvs and ldvg whose 64 lanes are aligned, translated and unwatched complete: one entry with the lanes' bytes in lane
order, ready, when all lanes are PADDED, after the largest latency among their regions. -/
def Obligations.LoadsComplete : Prop :=
  (∀ (st : State) (n : BitVec 1) (g : BitVec 4) (s : BitVec 9), SlotReady st n g s.toNat →
    let x := operands st 3 s.toNat
    Unwatched st x → NotHeld st (ldqCheck st x) →
    ∀ r ∈ [(Instr.ldB n g s, 1, true), (.ldBu n g s, 1, false), (.ldH n g s, 2, true), (.ldHu n g s, 2, false),
        (.ldW n g s, 4, true), (.ldWu n g s, 4, false), (.ldD n g s, 8, false)],
      ∀ pa key padded, Reach st x x.a.toNat r.2.1 false pa key padded →
        ∃ t e, exec r.1 st = .next t ∧
          ldqOf (coreOf t st.cur) = ldqOf (coreOf (afterSource st s.toNat) st.cur) ++ [e] ∧
          e.bytes = viewed st pa key r.2.1 ∧ e.vec = false ∧ e.signed = r.2.2 ∧ e.arrived = false ∧
          (padded = true → e.due = (slotCore st).now + padLoad (regionOf st.cur pa)) ∧
          (coreOf t st.cur).accs = (slotCore st).accs ∧ AccessFrame st t) ∧
  (∀ (st : State) (n : BitVec 1) (g : BitVec 4) (s : BitVec 9), SlotReady st n g s.toNat →
    let x := operands st 3 s.toNat
    Unwatched st x → NotHeld st (ldqCheck st x) →
    ∀ r ∈ [(Instr.ldv n g s, 0), (.ldvs n g s, 1), (.ldvg n g s, 2)], (r.2 = 2 → VecSelOk x.b) →
      ∀ (pa key : Nat → Nat) (padded : Nat → Bool),
        (∀ j, j < 64 → Reach st x (laneAddr st x r.2 j) 4 false (pa j) (key j) (padded j)) →
        ∃ t e, exec r.1 st = .next t ∧
          ldqOf (coreOf t st.cur) = ldqOf (coreOf (afterSource st s.toNat) st.cur) ++ [e] ∧
          e.bytes = (List.range 64).flatMap (fun j => viewed st (pa j) (key j) 4) ∧ e.vec = true ∧ e.arrived = false ∧
          ((∀ j, j < 64 → padded j = true) → ∃ m, m < 64 ∧ (∀ j, j < 64 → padLoad (regionOf st.cur (pa j)) ≤ padLoad (regionOf st.cur (pa m))) ∧
            e.due = (slotCore st).now + padLoad (regionOf st.cur (pa m))) ∧
          (coreOf t st.cur).accs = (slotCore st).accs ∧ AccessFrame st t)

/-- R127, R125, R263: a scalar store that is aligned, translated, unwatched and meets no running courier command completes: an
access joins those in flight with the low bytes of port b, little-endian, at the translated address of port a; a PADDED one
performs after the padded latency of its region. Memory does not change until it performs.
R128: stv, stvs and stvg with legal selectors store, for the lanes that the mask in d enables and no others, the lane of the
vector that c selects at the lane's translated address. -/
def Obligations.StoresComplete : Prop :=
  (∀ (st : State) (n : BitVec 1) (g : BitVec 4) (s : BitVec 9), SlotReady st n g s.toNat →
    let x := operands st 3 s.toNat
    Unwatched st x → NoCourierRuns st →
    ∀ r ∈ [(Instr.stB n g s, 1), (.stH n g s, 2), (.stW n g s, 4), (.stD n g s, 8)],
      ∀ pa key padded, Reach st x x.a.toNat r.2 true pa key padded →
        ∃ t a, exec r.1 st = .next t ∧ (coreOf t st.cur).accs = (slotCore st).accs ++ [a] ∧ a.atomic = none ∧
          a.chunks = [(pa, (List.range r.2).map fun j => BitVec.ofNat 8 (x.b.toNat / 256 ^ j))] ∧ a.keys = [(pa, key)] ∧
          (padded = true → a.due = (slotCore st).now + padLoad (regionOf st.cur pa)) ∧
          ldqOf (coreOf t st.cur) = ldqOf (coreOf (afterSource st s.toNat) st.cur) ∧ AccessFrame st t) ∧
  (∀ (st : State) (n : BitVec 1) (g : BitVec 4) (s : BitVec 9), SlotReady st n g s.toNat →
    let x := operands st 3 s.toNat
    let on := (List.range 64).filter fun j => (maskSel st x.d).getLsbD j
    Unwatched st x → NoCourierRuns st → VecSelOk x.c → MaskSelOk x.d →
    ∀ r ∈ [(Instr.stv n g s, 0), (.stvs n g s, 1), (.stvg n g s, 2)], (r.2 = 2 → VecSelOk x.b) →
      ∀ (pa key : Nat → Nat) (padded : Nat → Bool),
        (∀ j ∈ on, Reach st x (laneAddr st x r.2 j) 4 true (pa j) (key j) (padded j)) →
        ∃ t new, exec r.1 st = .next t ∧ (coreOf t st.cur).accs = (slotCore st).accs ++ new ∧
          (new.flatMap (·.chunks)).Perm
            (on.map fun j => (pa j, leBytes 4 (laneOf (vecSel st x.c) j).toNat)) ∧
          (∀ a ∈ new, a.atomic = none) ∧ AccessFrame st t)

/-- R131, R132: an atomic of an aligned, translated, unwatched doubleword completes: an access with the operation, the operand b
and for acas the comparand c joins those in flight, and an entry for the old value the load-data queue; PADDED, both fall due
after the padded latency of an atomic of its region. -/
def Obligations.AtomicsComplete : Prop :=
  ∀ (st : State) (n : BitVec 1) (g : BitVec 4) (s : BitVec 9), SlotReady st n g s.toNat →
    let x := operands st 3 s.toNat
    Unwatched st x → NoCourierRuns st → NotHeld st (ldqCheck st x) →
    ∀ r ∈ [(Instr.aadd n g s, AtomOp.add), (.amin n g s, .min), (.amax n g s, .max), (.aand n g s, .and), (.aor n g s, .or),
        (.axor n g s, .xor), (.aswp n g s, .swp), (.acas n g s, .cas)],
      ∀ pa key padded, Reach st x x.a.toNat 8 true pa key padded →
        ∃ t a e, exec r.1 st = .next t ∧ (coreOf t st.cur).accs = (slotCore st).accs ++ [a] ∧ a.atomic = some r.2 ∧
          a.chunks = [(pa, [])] ∧ a.operand = x.b ∧ a.expected = x.c ∧
          ldqOf (coreOf t st.cur) = ldqOf (coreOf (afterSource st s.toNat) st.cur) ++ [e] ∧ e.arrived = false ∧
          e.bytes.length = 8 ∧ e.due = a.due ∧ e.deps = (List.range 8).map (fun j => (j, a.id, 8 + j)) ∧
          (padded = true → a.due = (slotCore st).now + padAtomic (regionOf st.cur pa)) ∧ AccessFrame st t

/-- R133, R134, R135, R129, R130: a publish joins those in flight at its scope, and completes within the ticks of its scope where
no access is still to perform; after an acq the core's view holds every write published to a scope that reaches it; vjoin, once nothing holds it, leaves no byte to merge, and what was written through the
swizzled view stands in the linear one, other memory as before; xlpre of a legal length asks for a walk of its first page where
that has no translation, and changes no other die and no memory. Which writes an acq takes is the model's reading (log 9), and so is an
acq without an edge of R134 (log 44). -/
def Obligations.OrderingOperationsComplete : Prop :=
  ∀ (st : State) (n : BitVec 1) (g : BitVec 4) (s : BitVec 9), SlotReady st n g s.toNat →
    let x := operands st 3 s.toNat
    ((∀ q ∈ (slotCore st).pubs, q.id < st.stamp) → ∀ r ∈ [(Instr.pubD n g s, Scope.d), (.pubP n g s, .p), (.pubS n g s, .s)],
      ∃ t p, exec r.1 st = .next t ∧ (coreOf t st.cur).pubs = (slotCore st).pubs ++ [p] ∧ p.scope = r.2 ∧
        p.issued = st.stamp ∧ AccessFrame st t ∧
        ((∃ x ∈ (slotCore st).accs, x.id < st.stamp) → p.due = none) ∧
        ((∀ x ∈ (slotCore st).accs, st.stamp ≤ x.id) → ∃ d, p.due = some ((slotCore st).now + d) ∧
          d ≤ (match r.2 with | .d => 96 | .p => 240 | .s => 2400))) ∧
    (∀ r ∈ [(Instr.acqD n g s, Scope.d), (.acqP n g s, .p), (.acqS n g s, .s)],
      ∃ t, exec r.1 st = .next t ∧ (∀ a, memByte t.mem a = memByte st.mem a) ∧
        (∀ w ∈ t.wlog, reaches r.2 w st.cur = true → seenAt w st.cur t.stamp = true)) ∧
    (NotHeld st (vjoinCheck st x) → ∃ t, exec (.vjoin n g s) st = .next t ∧
      (coreOf t st.cur).views.linDirty = [] ∧ (coreOf t st.cur).views.linOwn = [] ∧ (coreOf t st.cur).views.swzDirty = [] ∧
      (∀ o ∈ (slotCore st).views.swzDirty, memByte t.mem (windowBase st.cur + o) = memByte (slotCore st).views.swz o) ∧
      (∀ a, (∀ o ∈ (slotCore st).views.swzDirty, a ≠ windowBase st.cur + o) → memByte t.mem a = memByte st.mem a)) ∧
    (x.b.toNat ≤ 2 ^ 32 → ∃ t, exec (.xlpre n g s) st = .next t ∧ (∀ a, memByte t.mem a = memByte st.mem a) ∧
      (∀ d, d ≠ dieIx st.cur → dieOf t d = dieOf st d) ∧ (coreOf t st.cur).csr = (slotCore st).csr ∧
      (coreOf t st.cur).files = (slotCore st).files ∧
      (∀ root, rootOf st st.cur = some root → 0 < x.b.toNat → (slotCore st).preloads = [] → (dieOf st (dieIx st.cur)).walks.length < 1024 →
        xlate st st.cur (slotCore st).utlb x.lvl (slotCore st).csr.asid 0 (x.a.toNat / 4096 * 4096) false = .miss →
        (dieOf t (dieIx st.cur)).walks.any (fun w => w.asid == (slotCore st).csr.asid && w.va / 4096 == x.a.toNat / 4096) = true))

/-- R125, R127, R129, R263, R266, R267: STORE_PERFORM: the stores of a core that are due leave those in flight, their bytes stand in
memory, and every byte outside them is as before; a store is due at its tick, unless its OPEN home is frozen, or when a younger PADDED access to its
bytes needs it performed, and stays then only behind an older access to one of its bytes (the order among a core's own accesses is log 46). A foreign key's line may change as a whole (R281), so the bytes of global memory are
stated for a device without key material in its slots.
R131, R132, R271: ATOMIC_PERFORM: the one atomic of a core that is due acts on the newest value at its home: the doubleword
takes the value that R131 gives, or stays when an acas comparison fails; the entry that waits for it holds the old value; every
other byte is as before. How a line changes hands between keys is the model's (log 12). -/
def Obligations.StoresAndAtomicsPerform : Prop :=
  (∀ (st : State) (c : Nat), c < 768 →
    let isDue := fun (y : Access × Option Nat) => y.1.atomic = none ∧
      ((y.1.due ≤ (coreOf st c).now ∧ homeFrozen st c y.1 = false) ∨ ∃ t, y.2 = some t ∧ t ≤ (coreOf st c).now)
    let all := withNeeds (coreOf st c).accs
    let due := (storesNow st c).1
    all.map (·.1) = (coreOf st c).accs ∧
    (∀ a ∈ due, ∃ y ∈ all, y.1 = a ∧ isDue y) ∧
    (∀ l y r, all = l ++ y :: r → isDue y → (∀ b ∈ l, overlaps y.1 b.1 = false) → y.1 ∈ due) ∧
    (∀ l y r, all = l ++ y :: r → (y.1.padded = true → ∃ u, y.2 = some u ∧ u ≤ y.1.due) ∧
      (∀ z ∈ r, overlaps y.1 z.1 = true → ∀ t, z.2 = some t → ∃ u, y.2 = some u ∧ u ≤ t)) ∧
    ∃ t, exec (.storePerform c) st = .next t ∧ ((coreOf t c).accs ++ due).Perm (coreOf st c).accs ∧
      (coreOf t c).accs.Sublist (coreOf st c).accs ∧
      (∀ x, (∀ a ∈ due, ∀ ch ∈ a.chunks, x < ch.1 ∨ ch.1 + ch.2.length ≤ x) → (globalBytes ≤ x ∨ st.host.mkeys = []) →
        memByte t.mem x = memByte st.mem x) ∧
      (∀ a pa bs key, due = [a] → a.chunks = [(pa, bs)] → a.keys = [(pa, key)] →
        ∀ j (h : j < bs.length), memByte t.mem (pa + j) = bs[j])) ∧
  (∀ (st : State) (c pa key : Nat) (a : Access) (need : Option Nat) (op : AtomOp), c < 768 → a.atomic = some op → a.chunks = [(pa, [])] →
    a.keys = [(pa, key)] →
    (withNeeds (coreOf st c).accs).filter (fun y => y.1.atomic.isSome && pubDone (coreOf st c) y.1.afterPub && ripe st c y) = [(a, need)] →
    (∀ b ∈ (coreOf st c).accs, b = a ∨ overlaps a b = false) →
    (globalBytes ≤ pa ∨ st.host.mkeys = []) →
    let old : Word := .ofNat 64 (memNat st.mem pa 8)
    let new : Word := match op with
      | .add => old + a.operand
      | .min => if a.operand.toInt < old.toInt then a.operand else old
      | .max => if old.toInt < a.operand.toInt then a.operand else old
      | .and => old &&& a.operand
      | .or => old ||| a.operand
      | .xor => old ^^^ a.operand
      | .swp => a.operand
      | .cas => if old = a.expected then a.operand else old
    ∃ t, exec (.atomicPerform c) st = .next t ∧ memNat t.mem pa 8 = new.toNat ∧
      (∀ x, x < pa ∨ pa + 8 ≤ x → memByte t.mem x = memByte st.mem x) ∧
      (∀ e ∈ (coreOf st c).ldq, e.bytes.length = 8 → e.deps = (List.range 8).map (fun j => (j, a.id, 8 + j)) →
        ∃ e' ∈ (coreOf t c).ldq, e'.id = e.id ∧ e'.deps = [] ∧ leNat e'.bytes = old.toNat))

/-- R126, R12, R266, R402: LOAD_DATA_READY: an entry completes that is due, has its bytes and reads no frozen scratchpad in OPEN timing; entries
arrive in issue order: the oldest entries of a queue that have completed, and no entry behind one that has not; nothing else changes.
R126, R263, R264, R266, R320: an access of a core that misses its padded figure, an OPEN access that is not complete 65,536 ticks
after its issue, and an uncorrectable error stop the core for a replay with UCE (24), detail 1, 1 and 0; where no access is
late, the first two events change nothing. -/
def Obligations.LoadDataArrives : Prop :=
  (∀ (st : State) (c : Nat), c < 768 →
    ∃ t, exec (.loadDataReady c) st = .next t ∧ t.mem = st.mem ∧ (∀ o, o ≠ c → coreOf t o = coreOf st o) ∧
      (coreOf t c).ldq.length = (coreOf st c).ldq.length ∧
      (∀ (j : Nat) (e : LdEntry), (coreOf st c).ldq[j]? = some e → ∃ e' : LdEntry, (coreOf t c).ldq[j]? = some e' ∧ e'.bytes = e.bytes ∧
        (e'.done = true ↔ e.done = true ∨ (e.due ≤ (coreOf st c).now ∧ e.deps = [] ∧ loadFrozen st c e = false)) ∧
        (e'.arrived = true ↔ e.arrived = true ∨
          ∀ (m : Nat) (f : LdEntry), m ≤ j → (coreOf t c).ldq[m]? = some f → f.done = true)) ∧
      (coreOf t c).files = (coreOf st c).files ∧ (coreOf t c).csr = (coreOf st c).csr) ∧
  (∀ (st : State) (c : Nat) (addr : Word), c < 768 →
    let stops := fun (i : Instr) (detail : Nat) (x : Word) => ∃ t, exec i st = .next t ∧ (coreOf t c).run = .replay ∧
      (∃ w, t.host.posted = w ++ [.replay c 24 detail x]) ∧ t.mem = st.mem
    (missed (coreOf st c) = true → stops (.accessDeadlineMiss c) 1 0) ∧
    (missed (coreOf st c) = false → exec (.accessDeadlineMiss c) st = .next st) ∧
    (overdue (coreOf st c) = true → stops (.openAccessTimeout c) 1 0) ∧
    (overdue (coreOf st c) = false → exec (.openAccessTimeout c) st = .next st) ∧
    stops (.uce c addr) 0 addr)

/-- R133, R270: PUB_COMPLETE: a publish that is due leaves those in flight, and from then on the core's own plain writes that it
covers are readable at its scope or a wider one; memory does not change. A barrier update that waited for it takes the latency to
its home from then on (log 34).
R84, R11, R145, R324: RESULT_DELIVERY: the operations of a core's level whose issue ticks have run out and that have their values
leave the operations in flight; of several that deliver to one port the later triggered has it; each writes its port, at S level cu.r,
ia0.r and ia1.r of the bank, and ORs its flags into VSTAT; no other scalar port and no memory changes. -/
def Obligations.PublishesAndResults : Prop :=
  (∀ (st : State) (c : Nat) (p : Pub) (w : WriteRec), c < 768 → (coreOf st c).pubs = [p] → p.due = some (coreOf st c).now →
    w ∈ st.wlog → w.core = c → (snapOf st c).2 ≤ w.seq → w.issued < p.issued → w.cmd = none →
    ∃ t w', exec (.pubComplete c) st = .next t ∧ (coreOf t c).pubs = [] ∧ t.mem = st.mem ∧ w' ∈ t.wlog ∧ w'.seq = w.seq ∧
      w'.addr = w.addr ∧ w'.bytes = w.bytes ∧ w'.pub = some (widerScope w.pub p.scope) ∧
      (∀ u, (coreOf st c).bups = [u] → u.afterPub = p.id → 0 < p.id → ∃ u', (coreOf t c).bups = [u'] ∧ u'.kind = u.kind ∧ u'.addr = u.addr ∧
        u'.due = max u.due ((coreOf st c).now + padLoad (regionOf c u.addr)) ∧ u'.afterPub = 0)) ∧
  (∀ (st : State) (c : Nat) (f : Flight) (v : Word), c < 768 → (coreOf st c).flight = [f] → f.rem = 0 →
    f.lvl = lvlOf (coreOf st c) → f.val = some (.s v) → f.ssid = 0 → 0x0F3 ≤ f.port →
    ∃ t, exec (.resultDelivery c) st = .next t ∧ (coreOf t c).flight = [] ∧ tget 0 (coreOf t c).ports.sRes (f.port - 0x0F0) = v ∧
      (∀ q, q ≠ f.port - 0x0F0 → tget 0 (coreOf t c).ports.sRes q = tget 0 (coreOf st c).ports.sRes q) ∧
      (coreOf t c).csr.vstat = (coreOf st c).csr.vstat ||| BitVec.ofNat 16 f.flags.toNat ∧
      (coreOf t c).files = (coreOf st c).files ∧ t.mem = st.mem) ∧
  (∀ (st : State) (c : Nat), c < 768 →
    let fs := (coreOf st c).flight
    let l := lvlOf (coreOf st c)
    let port := fun (k : Core) (p : Nat) =>
      if l = .s ∧ p < 0x0F3 then tget 0 k.sbank.sRes (p - 0x0F0) else tget 0 k.ports.sRes (p - 0x0F0)
    (∀ f ∈ fs, f.rem = 0 ∧ f.val.isSome = true ∧ f.ssid = 0 ∧ f.lvl = l ∧ 0x0F0 ≤ f.port) →
    ∃ t, exec (.resultDelivery c) st = .next t ∧ (coreOf t c).flight = [] ∧
      (∀ a f b v, fs = a ++ f :: b → f.val = some (.s v) → (∀ x ∈ b, x.port ≠ f.port) → port (coreOf t c) f.port = v) ∧
      (∀ q, 0x0F0 ≤ q → (∀ f ∈ fs, f.port ≠ q) → port (coreOf t c) q = port (coreOf st c) q) ∧
      (coreOf t c).csr.vstat = fs.foldl (fun w f => w ||| .ofNat 16 f.flags.toNat) (coreOf st c).csr.vstat ∧
      (coreOf t c).files = (coreOf st c).files ∧ t.mem = st.mem)

/-! ### Vector operations -/

/-- R143, R152, R153, R154, R160, R163: the integer operations, compares, selects and mask operations of VA0 and VA1 complete, lane
by lane, at latency 2 and with no flag, for every operand but the selectors and lane numbers that the rules exclude. -/
def Obligations.VectorIntegerResults : Prop :=
  ∀ (st : State) (n : BitVec 1) (g : BitVec 4) (s : BitVec 9) (u : BitVec 1), SlotReady st n g s.toNat →
    let x := operands st (4 + u.toNat) s.toNat
    let gives := fun (i : Instr) (f : Nat → Lane) =>
      exec i st = .next (afterTrigger st s.toNat (4 + u.toNat) (resultTo st (0x0F3 + 2 * u.toNat) (.v (lanes f)) 0 2))
    let givesMask := fun (i : Instr) (m : Word) =>
      exec i st = .next (afterTrigger st s.toNat (4 + u.toNat) (resultTo st (0x0F4 + 2 * u.toNat) (.s m) 0 2))
    (∀ r ∈ vaIntRows n g s u, gives r.1 fun i => r.2 (laneOf x.va i) (laneOf x.vb i)) ∧
    (∀ r ∈ vaIcmpRows n g s u, givesMask r.1 (maskOf fun i => r.2 (laneOf x.va i) (laneOf x.vb i))) ∧
    (MaskSelOk x.d → gives (.fsel n g s u) fun i => if (maskSel st x.d).getLsbD i then laneOf x.va i else laneOf x.vb i) ∧
    (x.b.toNat < 64 → gives (.bcast n g s u) (fun _ => laneOf x.va x.b.toNat) ∧
      gives (.lane n g s u) fun i => if i = x.b.toNat then laneOf x.vc 0 else laneOf x.va i) ∧
    (MaskSelOk x.a → givesMask (.mnot n g s u) (~~~ maskSel st x.a)) ∧
    (MaskSelOk x.a → MaskSelOk x.b → givesMask (.mand n g s u) (maskSel st x.a &&& maskSel st x.b) ∧
      givesMask (.mor n g s u) (maskSel st x.a ||| maskSel st x.b))

/-- R147 to R151, R50, R145: the floating-point operations of VA0 and VA1 complete at latency 5: a rounding mode above 4 apart, each
lane of fadd, fsub, fmul, fma and fms is its exact result rounded once by the control in port d; fmin, fmax, fabs and fneg are
exact; a compare gives a mask; the flags of all lanes are ORed. -/
def Obligations.VectorFloatResults : Prop :=
  ∀ (st : State) (n : BitVec 1) (g : BitVec 4) (s : BitVec 9) (u : BitVec 1), SlotReady st n g s.toNat →
    let x := operands st (4 + u.toNat) s.toNat
    let gives := fun (i : Instr) (f : Nat → Lane × Flags8) =>
      exec i st = .next (afterTrigger st s.toNat (4 + u.toNat)
        (resultTo st (0x0F3 + 2 * u.toNat) (.v (lanes fun j => (f j).1)) (orFlags fun j => (f j).2) 5))
    (∀ r ∈ vaRoundRows n g s u, x.d.toNat ≤ 4 → gives r.1 (roundedLane st x r.2)) ∧
    (∀ r ∈ vaExactRows n g s u, gives r.1 fun i => r.2 (laneOf x.va i) (laneOf x.vb i)) ∧
    (∀ r ∈ vaCmpRows n g s u,
      let num := fun (v : Vec) (i : Nat) => fp32.toNum (laneOf v i).toNat
      exec r.1 st = .next (afterTrigger st s.toNat (4 + u.toNat)
        (resultTo st (0x0F4 + 2 * u.toNat) (.s (maskOf fun i => r.2.1 (num x.va i) (num x.vb i)))
          (orFlags fun i => r.2.2 (num x.va i) (num x.vb i)) 5)))

/-- R155, R156, R158, R159, R90: cvt, pack and unpack with legal control words complete at latency 4. cvt outside X4 rounds each
lane's value once into the destination format; pack places element j of width W at bit P·128·W + j·W and leaves every
other bit zero; unpack delivers 64 elements from element e on, zero-extended or sign-extended. -/
def Obligations.ConversionResults : Prop :=
  ∀ (st : State) (n : BitVec 1) (g : BitVec 4) (s : BitVec 9) (u : BitVec 1), SlotReady st n g s.toNat →
    let x := operands st (4 + u.toNat) s.toNat
    let gives := fun (i : Instr) (v : Vec) (fl : Flags8) =>
      exec i st = .next (afterTrigger st s.toNat (4 + u.toNat) (resultTo st (0x0F3 + 2 * u.toNat) (.v v) fl 4))
    (cvtCtlOk x.b.toNat = true → ∃ v fl, gives (.cvt n g s u) v fl ∧
      let src := x.b.toNat % 16
      let dst := x.b.toNat / 16 % 16
      let mode := x.b.toNat / 256 % 8
      (src ≠ 8 → dst ≠ 8 → ∀ i, i < 64 →
        laneOf v i = .ofNat 32 (encodeNum dst (x.b.getLsbD 11) mode (if mode = 4 then rbOf (keyOf st x.core x.vb) i else 0)
          (.num (numOf src (laneOf x.va i).toNat))).1)) ∧
    (let w := x.c.toNat
     let wide := elemWidth (w % 4)
     let place := w / 16 % 16
     w / 256 = 0 → w / 4 % 4 = 0 → w % 4 < 3 → place < 16 / wide → ∃ v, gives (.pack n g s u) v 0 ∧
       (∀ j b, j < 128 → b < wide → v.getLsbD (place * 128 * wide + j * wide + b) =
         if j < 64 then (laneOf x.va j).getLsbD b else (laneOf x.vb (j - 64)).getLsbD b) ∧
       (∀ b, b < place * 128 * wide ∨ (place + 1) * 128 * wide ≤ b → v.getLsbD b = false)) ∧
    (let w := x.c.toNat
     let wide := elemWidth (w % 4)
     w / 512 = 0 → w / 4 % 64 = 0 → w % 4 < 3 → x.b.toNat + 64 ≤ 2048 / wide → ∃ v, gives (.unpack n g s u) v 0 ∧
       ∀ i b, i < 64 → b < 32 → (laneOf v i).getLsbD b =
         if b < wide then x.va.getLsbD ((x.b.toNat + i) * wide + b)
         else x.c.getLsbD 8 && x.va.getLsbD ((x.b.toNat + i) * wide + wide - 1))

/-- R164, R165, R41: the special functions complete, whatever the lanes, after the latency of R164; each lane is the function's
exact value rounded to the nearest FP32 value; at the infinities, the zeros and, where R165 says so, below zero the lane and its
flags are those of R165's table, and a NaN lane gives the canonical NaN, with NV when it signals. -/
def Obligations.SpecialFunctionResults : Prop :=
  (∀ (st : State) (n : BitVec 1) (g : BitVec 4) (s : BitVec 9), SlotReady st n g s.toNat →
    let x := operands st 6 s.toNat
    ∀ r ∈ vxRows n g s, exec r.1 st = .next (afterTrigger st s.toNat 6
      (resultTo st 0x0F7 (.v (lanes fun i => (specialLane r.2.2 (laneOf x.va i)).1))
        (orFlags fun i => (specialLane r.2.2 (laneOf x.va i)).2) r.2.1))) ∧
  (∀ r ∈ specialRows, specialLane r.1 0xFF800000 = r.2.1 ∧ specialLane r.1 0x80000000 = r.2.2.1 ∧
    specialLane r.1 0x00000000 = r.2.2.2.1 ∧ specialLane r.1 0x7F800000 = r.2.2.2.2.1 ∧
    (∀ p : Lane, 0x7F800000 < p.toNat % 2 ^ 31 → specialLane r.1 p = (0x7FC00000, if p.getLsbD 22 then 0 else fNV)) ∧
    (∀ p : Lane, r.2.2.2.2.2 = true → 0x80000000 < p.toNat → p.toNat < 0xFF800000 → specialLane r.1 p = (0x7FC00000, fNV)))

/-- R166, R167, R168, R161, R162, R170, R171: the other operations of VX complete, with the legal control words where they read
one. rmax and rmin deliver in every lane, at latency 8, the largest or smallest lane that is no NaN, or the canonical NaN;
rsum and twosum the sum and the error at latency 10 and 6; perm and shuf lanes at latency 3; rng and dropm draws at latency 6.
The flags of an overflowing twosum are the model's reading (log 29). -/
def Obligations.ReductionAndDrawResults : Prop :=
  ∀ (st : State) (n : BitVec 1) (g : BitVec 4) (s : BitVec 9), SlotReady st n g s.toNat →
    let x := operands st 6 s.toNat
    let gives := fun (i : Instr) (v : Vec) (fl : Flags8) (lat : Nat) =>
      exec i st = .next (afterTrigger st s.toNat 6 (resultTo st 0x0F7 (.v v) fl lat))
    let gives2 := fun (i : Instr) (v e : Vec) (fl : Flags8) (lat : Nat) =>
      exec i st = .next (afterTrigger st s.toNat 6 fun y =>
        resultTo st 0x0F8 (.v e) 0 lat (resultTo st 0x0F7 (.v v) fl lat y))
    let num := fun (j : Nat) => fp32.toNum (laneOf x.va j).toNat
    (∀ r ∈ [(Instr.rmax n g s, true), (.rmin n g s, false)], ∃ l, gives r.1 (lanes fun _ => l) (orFlags fun j => sigFlag (num j)) 8 ∧
      ((∀ j, j < 64 → isNan (num j) = true) → l = 0x7FC00000) ∧
      ((∃ j, j < 64 ∧ isNan (num j) = false) → ∃ j, j < 64 ∧ isNan (num j) = false ∧ l = laneOf x.va j ∧
        ∀ m, m < 64 → isNan (num m) = false →
          (if r.2 then fpBelow l (laneOf x.va m) else fpBelow (laneOf x.va m) l) = false)) ∧
    gives2 (.rsum n g s) (lanes fun _ => (rsumOf x.va).1) (lanes fun _ => (rsumOf x.va).2.1) (rsumOf x.va).2.2 10 ∧
    gives2 (.twosum n g s) (lanes fun i => (twosumLane (laneOf x.va i) (laneOf x.vb i)).1)
      (lanes fun i => (twosumLane (laneOf x.va i) (laneOf x.vb i)).2.1)
      (orFlags fun i => (twosumLane (laneOf x.va i) (laneOf x.vb i)).2.2) 6 ∧
    gives (.perm n g s) (lanes fun i => laneOf x.va ((laneOf x.vb i).toNat % 64)) 0 3 ∧
    (ShufOk x.c → gives (.shuf n g s) (lanes fun i => shufRow x.c.toNat x.va x.vb i) 0 3) ∧
    (x.b.toNat = 0 → gives (.rng n g s) (lanes fun i => .ofNat 32 (drawOf st x i)) 0 6) ∧
    ((x.b.toNat = 1 ∨ x.b.toNat = 2) → ∃ v, gives (.rng n g s) v 0 6 ∧ ∀ i, i < 64 →
      let h := drawOf st x i / 256
      laneOf v i = .ofNat 32 (roundFmt fp32 false 0 0 (.num (if x.b.toNat = 1 then .fin false h (-24)
        else ofScaled (2 * h + 1 - 2 ^ 24) (-24) false))).1) ∧
    (x.b.toNat ≤ 0x10000 → x.d.toNat ≤ 1 →
      exec (.dropm n g s) st = .next (afterTrigger st s.toNat 6
        (resultTo st 0x0F9 (.s (maskOf fun i => decide (drawOf st x i / 2 ^ 16 < x.b.toNat) != x.d.getLsbD 0)) 0 6)))

/-! ### Matrix operations -/

/-- R173, R174, R177 to R190, R195, R182, R198: a legal MX operation completes. One that goes through the order queue, which has
room, joins it with its ports a and b and its tag, and the array and its pairs do not change; a drain to registers schedules the
rows of mx.dl and mx.dh, the first for 140 issue ticks later (R193). scale loads in the sixth tick after (R182), mxst delivers the
command count, the entries of the queue with the running command and the follow-ons in the buffer at latency 2. -/
def Obligations.MatrixSlotsComplete : Prop :=
  ∀ (st : State) (n : BitVec 1) (g : BitVec 4) (s : BitVec 9), SlotReady st n g s.toNat →
    let x := operands st 7 s.toNat
    let m := (slotCore st).mx
    let a := x.a.toNat
    let b := x.b.toNat
    let queued := fun (i : Instr) (op : Nat) (tag : BitVec 8) => m.queue.length < 8 → ∃ t q rows, exec i st = .next t ∧
      (coreOf t st.cur).mx = { m with queue := m.queue ++ [q], regRows := m.regRows ++ rows } ∧
      q.op = op ∧ q.a = x.a ∧ q.b = x.b ∧ q.tag = tag ∧ (¬ (op = 0x0A ∧ drDst b = 0) → rows = []) ∧
      (op = 0x0A → drDst b = 0 → rows.map (·.cnt) = (List.range (drNr b + 1)).map (140 + ·)) ∧ EngineFrame st t
    let ctag := x.c.setWidth 8
    (mxRegion a (128 * imgBytes (wfmtAfter m)) = true → queued (.wld n g s) 0x04 ctag) ∧
    (a / 32 = 0 → imgPasses (a % 16) ≠ 0 → (a / 16 % 2 = 1 → a % 16 ≠ 7 ∧ a % 16 ≠ 8 ∧ mxRegion b 512 = true) →
      queued (.wfmt n g s) 0x05 ctag) ∧
    (a ≤ 2 → queued (.mode n g s) 0x06 ctag) ∧
    (a % 64 = 0 → strmCtlOk b = true → mxRegion a (strmBytes b (modeAfter m).1 (modeAfter m).2) = true →
      queued (.strm n g s) 0x08 ctag) ∧
    queued (.accz n g s) 0x09 ctag ∧
    (drainCtlOk b = true → (8 ≤ drFn b → mxRegion (drZoff b) ((drNr b + 1) * drZstride b) = true) →
      (drDst b = 1 → mxRegion (a % 2 ^ 22) ((drNr b + 1) * drStride b) = true) → queued (.drain n g s) 0x0A ctag) ∧
    queued (.dfn n g s) 0x0B ctag ∧
    (a < 2 ^ 63 → a / 2 ^ 22 = 0 → queued (.spar n g s) 0x0C ctag) ∧
    (2 ^ 63 ≤ a → (a - 2 ^ 63) / 2 ^ 22 = 0 → mxRegion (a % 2 ^ 22) 4096 = true → queued (.spar n g s) 0x0C ctag) ∧
    (a < 256 → queued (.mxAdmit n g s) 0x0D (x.a.setWidth 8)) ∧
    (b / 2 ^ 16 = 0 → b / 16 % 16 = 0 → imgPasses (b % 16) ≠ 0 → mxRegion a (imgBytes (b % 16)) = true →
      queued (.wgstep n g s) 0x0F ctag) ∧
    (mxRegion a 128 = true → ∃ t, exec (.scale n g s) st = .next t ∧
      (coreOf t st.cur).mx = { m with scales := m.scales ++ [((slotCore st).now + 6, a)] } ∧ EngineFrame st t) ∧
    exec (.mxst n g s) st = .next (afterTrigger st s.toNat 7 (resultTo st 0x0FA (.s (.ofNat 64 (m.count.toNat +
      (m.queue.length + (if m.running.isSome then 1 else 0)) % 256 * 2 ^ 32 + m.follow.length % 256 * 2 ^ 40))) 0 2))

/-! ### Stream store operations -/

/-- R202, R203, R206, R212, R215: an SS operation whose checks pass completes: it is recorded to act four ticks later, with its
ports, for sadd and ssub with the vector that port c selects; the store itself does not change yet. A read also puts its result
ports in flight with no value yet: srdn both ports and srho ss.s in 16 issue ticks, swrap ss.s in 4. A fence whose wait is over
has no other effect. -/
def Obligations.StreamSlotsComplete : Prop :=
  ∀ (st : State) (n : BitVec 1) (g : BitVec 4) (s : BitVec 9), SlotReady st n g s.toNat →
    let x := operands st 8 s.toNat
    let ss := (slotCore st).ss
    let issues := fun (i : Instr) (tr : Trigger) (op : Nat) (data : Vec) (ports : List Nat) (lat : Nat) =>
      NotHeld st (tr.check st x) → ∃ t o, exec i st = .next t ∧ (coreOf t st.cur).ss = { ss with ops := ss.ops ++ [o] } ∧
        o.op = op ∧ o.due = (slotCore st).now + 4 ∧ o.a = x.a ∧ o.b = x.b ∧ o.c = x.c ∧ o.data = data ∧
        (coreOf t st.cur).flight = (slotCore st).flight ++ ports.map (fun p =>
          { port := p, val := none, flags := 0, rem := lat, lvl := lvlOf (slotCore st), ssid := o.id }) ∧ EngineFrame st t
    issues (.salloc n g s) trigSalloc 0x04 0 [] 0 ∧
    issues (.sgain n g s) trigSgain 0x0F 0 [] 0 ∧ issues (.seps n g s) trigSeps 0x10 0 [] 0 ∧
    (∀ r ∈ [(Instr.sadd n g s, trigSadd, 0x05), (.ssub n g s, trigSsub, 0x06)],
      issues r.1 r.2.1 r.2.2 (vecSel st x.c) [] 0) ∧
    issues (.srdn n g s) trigSrdn 0x07 0 [0x0FD, 0x0FE] 16 ∧ issues (.srho n g s) trigSrho 0x08 0 [0x0FE] 16 ∧
    issues (.swrap n g s) trigSwrap 0x0E 0 [0x0FE] 4 ∧
    issues (.sevict n g s) trigSevict 0x0C 0 [] 0 ∧ issues (.srestore n g s) trigSrestore 0x0D 0 [] 0 ∧
    issues (.sview n g s) trigSview 0x11 0 [] 0 ∧
    (∀ r ∈ [(Instr.sfenceL n g s, 0), (.sfenceD n g s, 1), (.sfenceP n g s, 2)], x.a.toNat ≤ 16 →
      NotHeld st (fenceCheck st x r.2 x.a.toNat) → exec r.1 st = .next (afterTrigger st s.toNat 8 id))

/-! ### Courier operations -/

/-- R222, R227, R235, R240, R241: a courier command whose checks pass completes: it joins the queue that port d names with its ports,
and TAIL advances, the queue being what its record in memory holds; registers, control state and, for a queue whose record and rings are nowhere, memory do not change. seq
writes the one field that port a names; wpr and cqstat deliver at latency 2; a wpwait whose pointer has come far enough, of a
channel with nothing to show, has no other effect. Where a core's queue records lie is the model's choice (log 15), and the
statement about memory leaves them out. -/
def Obligations.CourierSlotsComplete : Prop :=
  ∀ (st : State) (n : BitVec 1) (g : BitVec 4) (s : BitVec 9), SlotReady st n g s.toNat →
    let x := operands st 9 s.toNat
    let cp := (slotCore st).cp
    let a := x.a.toNat
    let wrote := fun (i : Instr) (cp' : Courier) => exec i st = .next (afterTrigger st s.toNat 9 fun y =>
      modCore y st.cur fun k => { k with cp := cp' })
    let level := fun (l : Nat) (v : SortLevel) => { cp with levels := tset SortLevel.reset cp.levels l v }
    (∀ r ∈ [(Instr.cpy n g s, 0x04), (.cpymx n g s, 0x05), (.seqgo n g s, 0x07), (.cpadd n g s, 0x0A), (.cpred n g s, 0x0B),
        (.cpbc n g s, 0x0C)], NotHeld st (cpCheck r.2 st x) →
      let q := liveQueue st st.cur (x.d.toNat % 8)
      ∃ t m, exec r.1 st = .next t ∧ (queueOf (coreOf t st.cur) (x.d.toNat % 8)).cmds = q.cmds ++ [m] ∧
        (queueOf (coreOf t st.cur) (x.d.toNat % 8)).tail = q.tail + 1 ∧
        (queueOf (coreOf t st.cur) (x.d.toNat % 8)).head = q.head ∧
        m.op = r.2 ∧ m.dest = x.a ∧ m.tb = x.c ∧ m.ctl = x.d ∧
        (∀ o, o ≠ x.d.toNat % 8 → queueOf (coreOf t st.cur) o = queueOf (slotCore st) o) ∧
        (coreOf t st.cur).files = (slotCore st).files ∧ (coreOf t st.cur).csr = (slotCore st).csr ∧
        (coreOf t st.cur).pc = (slotCore st).pc ∧
        (q.ring = 0 → q.aux = 0 → q.recAddr = 0 → ∀ y, memByte t.mem y = memByte st.mem y)) ∧
    (∀ l, l ≤ 5 →
      let v := tget SortLevel.reset cp.levels l
      (a = 8 * l → x.b.toNat < 2 ^ 24 → wrote (.seq n g s) (level l { v with cnt := x.b.setWidth 24 })) ∧
      (a = 8 * l + 1 → FitsSigned 40 x.b → wrote (.seq n g s) (level l { v with sstr := x.b.setWidth 40 })) ∧
      (a = 8 * l + 2 → FitsSigned 40 x.b → wrote (.seq n g s) (level l { v with dstr := x.b.setWidth 40 }))) ∧
    (a = 48 → formOk x.b.toNat = true → wrote (.seq n g s) { cp with sbase := x.b }) ∧
    (a < 4 → ∃ t, exec (.wpr n g s) st = .next t ∧ (coreOf t st.cur).flight = (slotCore st).flight ++
        [{ port := 0x0FF, val := some (.s (tget 0 cp.wp a)), flags := 0, rem := 2, lvl := lvlOf (slotCore st), ssid := 0 }] ∧
      (coreOf t st.cur).files = (slotCore st).files ∧ (coreOf t st.cur).csr = (slotCore st).csr ∧
      (cp.landed = [] → ∀ y, memByte t.mem y = memByte st.mem y)) ∧
    (a < 4 → x.b.toNat ≤ (tget 0 cp.wp a).toNat → ∃ t, exec (.wpwait n g s) st = .next t ∧
      (coreOf t st.cur).files = (slotCore st).files ∧ (coreOf t st.cur).csr = (slotCore st).csr ∧
      (coreOf t st.cur).flight = (slotCore st).flight ∧ (cp.landed = [] → ∀ y, memByte t.mem y = memByte st.mem y)) ∧
    (a < 8 → exec (.cqstat n g s) st = .next (afterTrigger st s.toNat 9 (resultTo st 0x0FF
      (.s (.ofNat 64 (((liveQueue st st.cur a).tail - (liveQueue st st.cur a).head).toNat +
        (if (liveQueue st st.cur a).faulted then 2 ^ 32 else 0)))) 0 2)))

/-! ### Barriers, ticks, pigeonholes -/

/-- R136 to R141, R242: a legal SY operation on a barrier that can be reached completes. tbinit, tbarr and tbexp send an update to
the barrier's home, due after the padded latency of the home's region; tbarr and tbexp name the newest publish in flight, which they
wait for (R133); no register and no memory changes yet. A tbwait that observes UNDER 0 and a generation that has reached the sum of a and b goes on; tbtest delivers
bits [63:0] of the core's own barrier at latency 12; tkaln in time sets the interval tag; tkrd delivers a tick counter.
R243, R244, R361: a phsend whose checks pass completes: its flits, of the core's interval tag and the bytes that the core sees,
are on their way to the same port of the neighbouring die, each to land within 112 ticks of the package reference; a phrecv
whose positions carry the expected tag takes their flits, in order, for its destination, where they perform first in the core's next
tick (log 5; DieEvents states that). -/
def Obligations.BarrierAndPigeonholeSlots : Prop :=
  (∀ (st : State) (n : BitVec 1) (g : BitVec 4) (s : BitVec 9), SlotReady st n g s.toNat →
    let x := operands st 10 s.toNat
    let die := dieOf st (dieIx st.cur)
    (∀ r ∈ [(Instr.tbinit n g s, 2 ^ 24, BarKind.init x.b.toNat, 0), (.tbarr n g s, 2 ^ 24, .arr x.b.toNat, lastPub (slotCore st)),
        (.tbexp n g s, 2 ^ 32, .exp x.b.toNat, lastPub (slotCore st))], x.b.toNat < r.2.1 → ∀ pa, BarReach st x x.a.toNat true pa →
      ∃ t u, exec r.1 st = .next t ∧ (coreOf t st.cur).bups = (slotCore st).bups ++ [u] ∧ u.kind = r.2.2.1 ∧ u.addr = pa ∧
        u.due = (slotCore st).now + padLoad (regionOf st.cur pa) ∧ u.afterPub = r.2.2.2 ∧ EngineFrame st t) ∧
    (∀ pa, BarReach st x x.c.toNat false pa → barUnder (observedBar st st.cur pa) = false →
      0 ≤ serial (barGen (observedBar st st.cur pa)) ((x.a.toNat + x.b.toNat) % 2 ^ 32) →
      ∃ t, exec (.tbwait n g s) st = .next t ∧ (coreOf t st.cur).files = (slotCore st).files ∧
        (coreOf t st.cur).csr = (slotCore st).csr ∧ (coreOf t st.cur).flight = (slotCore st).flight ∧
        (st.barCmds = [] → t = afterTrigger st s.toNat 10 id)) ∧
    (∀ pa off, BarReach st x x.a.toNat false pa → target pa = .scratch st.cur off →
      ∃ t, exec (.tbtest n g s) st = .next t ∧ (coreOf t st.cur).files = (slotCore st).files ∧
        (coreOf t st.cur).flight = (slotCore st).flight ++
          [{ port := 0x100, val := some (.s (.ofNat 64 (memNat st.mem pa 8))), flags := 0, rem := 12, lvl := lvlOf (slotCore st), ssid := 0 }]) ∧
    (x.a.toNat ≤ die.atick → die.atick ≤ x.a.toNat + (slotCore st).csr.devctl.toNat / 2 ^ 16 % 2 ^ 16 →
      exec (.tkaln n g s) st = .next (afterTrigger st s.toNat 10 fun y =>
        modCore y st.cur fun k => { k with itag := x.a.setWidth 32 })) ∧
    (x.a = 0 → exec (.tkrd n g s) st = .next (afterTrigger st s.toNat 10 (resultTo st 0x100 (.s (.ofNat 64 die.dtick)) 0 2))) ∧
    (x.a = 1 → exec (.tkrd n g s) st = .next (afterTrigger st s.toNat 10 (resultTo st 0x100 (.s (.ofNat 64 die.atick)) 0 2)))) ∧
  (∀ (st : State) (n : BitVec 1) (g : BitVec 4) (s : BitVec 9), SlotReady st n g s.toNat → st.cur < 768 →
    let x := operands st 10 s.toNat
    let b := x.b.toNat
    let base := windowBase st.cur + x.a.toNat % 2 ^ 22
    (NotHeld st (trigPhsend.check st x) →
      let far := if b % 4 < 2 then dieIx st.cur ^^^ 1 else dieIx st.cur ^^^ 2
      ∃ t fs, exec (.phsend n g s) st = .next t ∧ (dieOf t far).phFlits = (dieOf st far).phFlits ++ fs ∧
        fs.length = x.c.toNat ∧ t.mem = st.mem ∧ (coreOf t st.cur).files = (slotCore st).files ∧
        ∀ (j : Nat) (f : PhFlit), fs[j]? = some f → f.port = b % 4 ∧ f.par = b / 4 % 2 ∧ f.pos = b / 8 % 64 + j ∧
          f.tag = (slotCore st).itag ∧ f.data = .ofNat 512 (leNat (viewRead st st.cur (slotIssue st).stamp (base + 64 * j) 64)) ∧
          refTick st < f.due ∧ f.due ≤ refTick st + 112) ∧
    (NotHeld st (trigPhrecv.check st x) →
      let count := b / 2 ^ 9 % 2 ^ 7
      let slot := fun (j : Nat) =>
        tget phEmpty (dieOf st (dieIx st.cur)).pigeon ((b % 4 * 2 + b / 4 % 2) * 64 + (b / 8 % 64 + j))
      ∃ t bs, exec (.phrecv n g s) st = .next t ∧ (coreOf t st.cur).files = (slotCore st).files ∧ t.mem = st.mem ∧
        (coreOf t st.cur).copies = (slotCore st).copies ++ [(base, bs, st.stamp)] ∧ bs.length = 64 * count ∧
        (∀ j i, j < count → i < 64 → bs[64 * j + i]? = some (.ofNat 8 ((slot j).data.toNat / 256 ^ i)))))

/-! ### The Fullers -/

/-- R246, R248, R249, R250: a legal FL operation completes. fjob, whose card is well formed and whose die has room, puts a card with
the next number behind those of the die; a fjwait whose card has completed goes on; fjstat delivers the word that it selects at
latency 2; fprog, with a bank and room, puts a routine image behind the cards. That fjwait takes its port modulo 2^32 and that the 64
entries do not count the running card are the model's reading (log 35). -/
def Obligations.FullerSlotsComplete : Prop :=
  ∀ (st : State) (n : BitVec 1) (g : BitVec 4) (s : BitVec 9), SlotReady st n g s.toNat →
    let x := operands st 11 s.toNat
    let fl := (slotCore st).fl
    let die := dieIx st.cur
    let off := x.a.toNat % 2 ^ 22
    let here := viewRead st st.cur (slotIssue st).stamp (windowBase st.cur + off) 64
    let placed := 2 ^ 63 ≤ x.a.toNat ∧ (x.a.toNat - 2 ^ 63) / 2 ^ 22 = 0 ∧ off + 64 ≤ scratchBytes
    let delivers := fun (v : Nat) => exec (.fjstat n g s) st =
      .next (afterTrigger st s.toNat 11 (resultTo st 0x101 (.s (.ofNat 64 v)) 0 2))
    ((slotCore st).issue = some (slotIssue st) → placed → off % 64 = 0 → cardBad here = false → (dieOf st die).fq.length < 64 →
      ∃ t, exec (.fjob n g s) st = .next t ∧
        (dieOf t die).fq = (dieOf st die).fq ++ [.card st.cur fl.next here (slotIssue st).stamp (slotCore st).csr.asid
          (slotCore st).csr.keyid (lvlOf (slotCore st)) (bankOf st st.cur)] ∧
        (coreOf t st.cur).fl = { fl with next := fl.next + 1 } ∧ t.mem = st.mem ∧
        (coreOf t st.cur).files = (slotCore st).files ∧ (coreOf t st.cur).csr = (slotCore st).csr) ∧
    (serial (x.a.toNat % 2 ^ 32) (fl.next - 1).toNat ≤ 0 → serial (x.a.toNat % 2 ^ 32) fl.last.toNat ≤ 0 →
      ∃ t, exec (.fjwait n g s) st = .next t ∧ (coreOf t st.cur).files = (slotCore st).files ∧
        (coreOf t st.cur).csr = (slotCore st).csr ∧ (coreOf t st.cur).flight = (slotCore st).flight ∧
        (fl.cards = [] → ∀ y, memByte t.mem y = memByte st.mem y)) ∧
    (x.a = 0 → delivers fl.last.toNat) ∧ (x.a = 1 → delivers fl.skipped) ∧ (x.a = 3 → delivers fl.flags.toNat) ∧
    (x.a = 2 → delivers (match fl.err with | none => 0 | some e => 2 ^ 63 + e.1.toNat * 2 ^ 8 + e.2)) ∧
    (placed → x.b.toNat < 16 → (bankOf st st.cur).isSome = true → (dieOf st die).fq.length < 64 →
      ∃ t, exec (.fprog n g s) st = .next t ∧ (dieOf t die).fq = (dieOf st die).fq ++
          [.prog st.cur (fl.next - 1) x.b.toNat here (bankOf st st.cur)] ∧ t.mem = st.mem ∧
        (coreOf t st.cur).fl = fl ∧ (coreOf t st.cur).files = (slotCore st).files)

/-- R252, R253: a word of a routine, run by a Fuller whose card has not passed its last word, writes its one register with the
result of the table, ORs the flags into the card's and goes on with the next word, or after `end` and the sixteenth word with
the element's writes; kadd writes the pair (fd, fc), and one of its two values where fd and fc are one register (log 42). No
other register of the Fuller, no core and no memory changes. That fsel sets no flag is the model's reading (log 29). -/
def Obligations.FullerOperations : Prop :=
  ∀ (st : State) (d0 : Nat) (r : FlRun), st.turn = .fuller d0 → d0 < 4 → (dieOf st d0).frun = some r →
    ∀ (d a b c : BitVec 4) (rm : BitVec 3) (fmt : BitVec 4) (lit : BitVec 7),
      let f := fun (y : BitVec 4) => tget 0 r.f y.toNat
      let num := fun (y : BitVec 4) => fp32.toNum (f y).toNat
      let round := fun (z : Machine.Num × Flags8) =>
        let (p, fl) := roundFmt fp32 false rm.toNat 0 (.num z.1)
        ((.ofNat 32 p : Lane), fl ||| z.2)
      let roundE := fun (mode : Nat) (z : Exact × Flags8) =>
        let (p, fl) := roundFmt fp32 false mode 0 z.1
        ((.ofNat 32 p : Lane), fl ||| z.2)
      let passes := fun (i : Instr) (ends : Bool) (p : FlRun → Prop) => ∃ t r', exec i st = .next t ∧
        (dieOf t d0).frun = some r' ∧ r'.word = r.word + 1 ∧ r'.finished = (ends || decide (15 ≤ r.word)) ∧
        t.turn = (if ends || decide (15 ≤ r.word) then Turn.agenda else .fuller d0) ∧ t.mem = st.mem ∧ t.cores = st.cores ∧
        r'.i = r.i ∧ r'.grp = r.grp ∧ p r'
      let writes := fun (i : Instr) (v : Lane × Flags8) => passes i false fun r' =>
        tget 0 r'.f d.toNat = v.1 ∧ (∀ y, y ≠ d.toNat → tget 0 r'.f y = tget 0 r.f y) ∧ r'.flags = r.flags ||| v.2
      passes .fullerEnd true (fun r' => r'.f = r.f ∧ r'.flags = r.flags) ∧
      writes (.fullerFadd d a b rm) (round (addN (rm == 2) (num a) (num b))) ∧
      writes (.fullerFsub d a b rm) (round (addN (rm == 2) (num a) (negN (num b)))) ∧
      writes (.fullerFmul d a b rm) (round (mulN (num a) (num b))) ∧
      writes (.fullerFma d a b c rm) (round (fmaN (rm == 2) (num a) (num b) (num c))) ∧
      writes (.fullerFms d a b c rm) (round (fmaN (rm == 2) (num a) (num b) (negN (num c)))) ∧
      writes (.fullerFdiv d a b rm) (roundE rm.toNat (divN (num a) (num b))) ∧
      writes (.fullerFsqrt d a rm) (roundE rm.toNat (sqrtN (num a))) ∧
      writes (.fullerFrsq d a) (roundE 0 (rsqN (num a))) ∧ writes (.fullerFrcp d a) (roundE 0 (rcpN (num a))) ∧
      writes (.fullerFmin d a b) (fpMinMax false (f a) (f b)) ∧ writes (.fullerFmax d a b) (fpMinMax true (f a) (f b)) ∧
      writes (.fullerFabs d a) (if isNan (num a) then (0x7FC00000, sigFlag (num a)) else (f a &&& 0x7FFFFFFF, 0)) ∧
      writes (.fullerFneg d a) (if isNan (num a) then (0x7FC00000, sigFlag (num a)) else (f a ^^^ 0x80000000, 0)) ∧
      writes (.fullerFsel d a b c) (if ltN (.fin false 0 0) (num c) then f a else f b, 0) ∧
      writes (.fmov d a) (f a, 0) ∧
      writes (.cvi d lit) (.ofNat 32 (roundFmt fp32 false 0 0 (.num (ofInt lit.toInt))).1, 0) ∧
      writes (.fcvt d a rm fmt) (
        let (v, f1) := encodeNum fmt.toNat false rm.toNat 0 (.num (num a))
        let (w, f2) := roundFmt fp32 false 0 0 (.num (numOf fmt.toNat v))
        (.ofNat 32 w, sigFlag (num a) ||| f1 ||| f2)) ∧
      writes (.fclamp d a b) (
        let (y, f1) := fpMinMax false (f b) (f a)
        let (z, f2) := fpMinMax true (f b ^^^ 0x80000000) y
        (z, f1 ||| f2)) ∧
      passes (.kadd d a c rm) false (fun r' =>
        let (z, f0) := addN (rm == 2) (num d) (num a)
        let (p, f1) := roundFmt fp32 false rm.toNat 0 (.num z)
        let s := fp32.toNum p
        let pair := fun (e : Lane) =>
          if d = c then tget 0 r'.f d.toNat = .ofNat 32 p ∨ tget 0 r'.f d.toNat = e
          else tget 0 r'.f d.toNat = .ofNat 32 p ∧ tget 0 r'.f c.toNat = e
        (∀ y, y ≠ d.toNat → y ≠ c.toNat → tget 0 r'.f y = tget 0 r.f y) ∧
        (isNan s || isInf s → pair 0 ∧ r'.flags = r.flags ||| (f0 ||| f1 ||| 0)) ∧
        (¬ (isNan s || isInf s) →
          let (y, g0) := addN false (num c) (addN false z (negN s)).1
          let (e, g1) := roundFmt fp32 false 0 0 (.num y)
          pair (.ofNat 32 e) ∧ r'.flags = r.flags ||| (f0 ||| f1 ||| (g0 ||| g1))))

/-! ### Events of the engines -/

/-- R35, R208, R202, R204, R209, R215, R216: the stream store of a core acts. An integer sadd of one lane at its act tick, and a flit of one S48
element accepted earlier, add exactly to their element, and SSQ and WRAPC of the row follow; salloc makes its descriptor; the
block engine moves one block a tick, data into memory as the envelope has it, and a command whose blocks have moved completes
with one decrement at its barrier. That the engine takes its commands in order is the model's reading (log 30). -/
def Obligations.StreamStoreActs : Prop :=
  ∀ (st : State) (c : Nat), c < 768 →
    let k := coreOf st c
    let added := fun (i : Instr) (d : Desc) (sid row el : Nat) (q : Int) =>
      let ix := d.first + row * d.n + el
      let old := (tget 0 k.ss.elems ix).toInt
      let new : BitVec 48 := .ofInt 48 (old + q)
      let m := tget rowZero k.ss.rows (sid * 4096 + row)
      ∃ t, exec i st = .next t ∧ tget 0 (coreOf t c).ss.elems ix = new ∧
        (∀ j, j ≠ ix → tget 0 (coreOf t c).ss.elems j = tget 0 k.ss.elems j) ∧
        (let m' := tget rowZero (coreOf t c).ss.rows (sid * 4096 + row)
         m'.ssq = .ofInt 112 ((m.ssq.toNat : Int) + new.toInt * new.toInt - old * old) ∧
         m'.wrapc = .ofInt 16 (m.wrapc.toInt + (old + q - new.toInt) / 2 ^ 48)) ∧ t.mem = st.mem
    (∀ o d, k.ss.ops = [o] → o.due ≤ k.now → o.op = 0x05 → o.b.toNat % 64 = 0 → o.b.toNat / 2 ^ 15 % 16 = 0xB →
      descOf k.ss (sidOf o.a.toNat) = some d →
      added (.ssAct c) d (sidOf o.a.toNat) (rowOf o.a.toNat) (elOf o.a.toNat)
        ((laneOf o.data 0).toInt * 2 ^ (o.b.toNat / 2 ^ 6 % 2 ^ 5))) ∧
    (∀ (f : Flit) (d : Desc), k.ss.dieQ = [f] → k.ss.pkgQ = [] → f.acc < (dieOf st (dieIx c)).dtick → f.fmt = 9 → f.data.length = 6 →
      descOf k.ss f.sid = some d → f.row < d.rows → f.el < d.n →
      added (.streamFlitPerform c) d f.sid f.row f.el
        (if f.sub then -(BitVec.ofNat 48 (leNat f.data)).toInt else (BitVec.ofNat 48 (leNat f.data)).toInt)) ∧
    (∀ o, k.ss.ops = [o] → o.due ≤ k.now → o.op = 0x04 → o.b.getLsbD 22 = false → ∃ t d, exec (.ssAct c) st = .next t ∧
      tget none (coreOf t c).ss.desc (o.a.toNat % 16) = some d ∧ d.first = o.c.toNat % 2 ^ 18 ∧
      d.rows = o.c.toNat / 2 ^ 18 % 2 ^ 12 + 1 ∧ d.n = o.b.toNat % 2 ^ 16 + 1 ∧ d.f = o.b.toNat / 2 ^ 16 % 2 ^ 6 ∧
      (∀ row el, row < d.rows → el < d.n → tget 0 (coreOf t c).ss.elems (d.first + row * d.n + el) = 0) ∧
      (∀ s, s ≠ o.a.toNat % 16 → tget none (coreOf t c).ss.desc s = tget none k.ss.desc s)) ∧
    (∀ e rest, enginesStopped k = false → k.ss.eng = e :: rest → e.acted < k.now → e.pos < engBlocks e →
      let b := engBlockAt e e.pos
      let at' := spanAt e.spans (64 * b)
      homeAway st at'.1 = false → ∃ t, exec (.ssBlockMove c) st = .next t ∧
        (coreOf t c).ss.eng = { e with pos := e.pos + 1 } :: rest ∧
        (e.op ≠ 0x0D → (globalBytes ≤ at'.1 ∨ st.host.mkeys = []) →
          ∀ j, j < 64 → 64 * b + j < e.bytes.length → memByte t.mem (at'.1 + j) = e.bytes.getD (64 * b + j) 0)) ∧
    (∀ e rest, enginesStopped k = false → k.ss.eng = e :: rest → engBlocks e ≤ e.pos → e.op ≠ 0x0D → ∃ t u, exec (.ssEngineComplete c) st = .next t ∧
      (coreOf t c).ss.eng = rest ∧ (coreOf t c).bups = k.bups ++ [u] ∧ u.kind = .dec 1 ∧ u.addr = e.tb ∧ u.cmd = e.cmd ∧
      t.mem = st.mem)

/-- R183, R38, R178 to R182, R187, R188, R190, R194, R195, R199: the matrix array of a core acts. A stream that ends has added to each
pair the products of R181 in its order, each by the update of R38: of a dense forward or a backward stream to the rows of its vectors, of
a WGRAD stream to every pair; its images are what it has read pass by pass. A wld latches one row a tick, under the latched format and
factors. A NaN of an image counts as quiet (log 44). The next command starts when the array is
free and the tick of its trigger has passed; in its last tick it takes effect, and the count of completed commands advances;
the edge latches load 128 bytes of the swizzled view; a drain reads a row a tick, clearing it only for CLR, and a row to
scratchpad is written 139 ticks later through the swizzled view; a follow-on enters a buffer with room, or is discarded as an
MX error when its tag stands there. That a discarded follow-on counts as completed is the model's reading (log 31). -/
def Obligations.MatrixArrayActs : Prop :=
  ∀ (st : State) (c : Nat), c < 768 →
    let k := coreOf st c
    let m := k.mx
    (∀ q rest, m.queue = q :: rest → m.running = none → k.run = .run → q.trig < k.now → q.op ≠ 0x0D → q.op ≠ 0x08 →
      ∃ t r, exec (.mxCommandStart c) st = .next t ∧ (coreOf t c).mx.running = some r ∧ (coreOf t c).mx.queue = rest ∧
        r.cmd = q ∧ r.start = k.now ∧ r.err = mxStartErr k q false ∧
        (q.op = 0x04 → r.len = 128 ∧ (coreOf t c).mx.latched = m.pendFmt) ∧ (q.op ∈ [0x06, 0x09, 0x0B, 0x0F] → r.len = 1) ∧
        (coreOf t c).mx.pairs = m.pairs ∧ t.mem = st.mem) ∧
    (∀ r, m.running = some r → r.start + r.len ≤ k.now + 1 → r.err = 0 → ∃ t, exec (.mxCommandEnd c) st = .next t ∧
      (coreOf t c).mx.running = none ∧ (coreOf t c).mx.count = m.count + 1 ∧ (coreOf t c).mx.queue = m.queue ∧
      (r.cmd.op = 0x09 → (coreOf t c).mx.pairs = []) ∧ (r.cmd.op ≠ 0x09 → r.cmd.op ≠ 0x08 → (coreOf t c).mx.pairs = m.pairs) ∧
      (r.cmd.op = 0x0B → (coreOf t c).mx.dfn = r.cmd.a) ∧ (r.cmd.op ≠ 0x0B → (coreOf t c).mx.dfn = m.dfn) ∧
      (r.cmd.op = 0x06 → (coreOf t c).mx.mode = if r.cmd.a = 0 then .fwd else if r.cmd.a = 1 then .bwd else .wgrad) ∧
      t.mem = st.mem) ∧
    (∀ r, m.running = some r → r.start + r.len ≤ k.now + 1 → r.err = 0 → r.cmd.op = 0x08 →
      let b := r.cmd.b.toNat
      let x := fun (v j : Nat) => elemVal (strmFmt b) (r.images.getD v []) j
      let xs := fun (v j : Nat) => if m.latched.smooth = true then fp32.toNum
          (roundFmt fp32 false 0 0 (divN (x v j) (fp32.toNum (tget 0 m.latched.fac j).toNat)).1).1 else x v j
      let dy := fun (v j : Nat) => elemVal m.gradFmt.toNat (r.images2.getD v []) j
      let esc := fun (v j : Nat) => escNum (tget 0x7F (r.edges.getD v []) j)
      let latch := fun (i j : Nat) => tget numZero m.latch (128 * i + j)
      let old := fun (i j : Nat) => tget pairZero m.pairs (128 * i + j)
      let plus := fun (y : BitVec 36 × BitVec 36) (l : List (Machine.Num × Machine.Num × Machine.Num)) =>
        let z := l.foldl (fun y u => pairTerm y u.1 u.2.1 u.2.2) (a36Num y.1, a36Num y.2, 0)
        (a36Pat z.1, a36Pat z.2.1)
      let row := strmRow b
      ∃ t, exec (.mxCommandEnd c) st = .next t ∧
        let new := fun (i j : Nat) => tget pairZero (coreOf t c).mx.pairs (128 * i + j)
        (∀ v n, v ≤ strmVc b → n < 128 →
          (r.mode = .fwd → m.sparse = false →
            new (row + v) n = plus (old (row + v) n) ((List.range 128).map fun j => (xs v j, latch j n, esc v j))) ∧
          (r.mode = .bwd → new (row + v) n = plus (old (row + v) n) ((List.range 128).map fun j => (x v j, latch n j, esc v j)))) ∧
        (r.mode ≠ .wgrad → ∀ i n, n < 128 → i < row ∨ row + strmVc b < i → new i n = old i n) ∧
        (r.mode = .wgrad → ∀ i n, i < 128 → n < 128 → new i n = (List.range (strmVc b + 1)).foldl (fun y v =>
          plus y [(x v i, dy v n, (mulN (esc v i) (escNum m.gradScale)).1)]) (old i n))) ∧
    (∀ s e p : Machine.Num, isNan s = false → isInf s = false → isNan p = false → isInf p = false →
      let ph := a36RN p
      let pl := a36RN (addN false p (negN ph)).1
      let sum := (addN false s ph).1
      (pairStep s e p).1 = a36RN sum ∧ (isInf (a36RN sum) = true → (pairStep s e p).2.1 = numZero) ∧
      (isInf (a36RN sum) = false → (pairStep s e p).2.1 =
        a36RN (addN false (a36RN (addN false (addN false sum (negN (a36RN sum))).1 pl).1) e).1)) ∧
    (let y := (mxTryStart k).mx
     ∀ r, y.running = some r → r.err = 0 →
      let i := k.now - r.start
      let a := r.cmd.a.toNat
      ∃ t r', exec (.mxCommandStart c) st = .next t ∧ (coreOf t c).mx.running = some r' ∧ (coreOf t c).mx.pairs = m.pairs ∧
        (r.cmd.op = 0x04 → i < 128 → let f := y.latched.fmt.toNat
          (∀ n, n < 128 → tget numZero (coreOf t c).mx.latch (128 * i + n) =
            (latchWeight y.latched i (elemVal f (readImage st c (a + i * imgBytes f) f) n)).1) ∧
          ∀ p, p < 128 * i ∨ 128 * i + 128 ≤ p → tget numZero (coreOf t c).mx.latch p = tget numZero m.latch p) ∧
        (r.cmd.op = 0x08 → i < r.len → r.mode ≠ .wgrad → m.sparse = false → let f := strmFmt r.cmd.b.toNat
          let u := i % imgPasses f
          let off := a + i / imgPasses f * imgBytes f
          (u = 0 → r'.images = r.images ++ [readRest st c off f ++ swzRead st c off 64] ∧ r'.edges = r.edges ++ [m.edge]) ∧
          (0 < u → ∀ l z, r.images = l ++ [z] → r'.images = l ++ [z ++ swzRead st c (off + 64 * u) 64] ∧ r'.edges = r.edges))) ∧
    (∀ tick off, m.scales = [(tick, off)] → tick ≤ k.now → off + 128 ≤ scratchBytes →
      ∃ t, exec (.scaleLatchLoad c) st = .next t ∧ (coreOf t c).mx.scales = [] ∧
        ∀ j, j < 128 → tget 0x7F (coreOf t c).mx.edge j = memByte k.views.swz (off + j)) ∧
    (∀ r, m.running = some r → r.cmd.op = 0x0A → r.err = 0 → k.now - r.start ≤ drNr r.cmd.b.toNat →
      let row := drRow0 r.cmd.b.toNat + (k.now - r.start)
      ∃ t x, exec (.drainRowRead c) st = .next t ∧ (coreOf t c).mx.rows = m.rows ++ [x] ∧ x.i = k.now - r.start ∧
        x.cmd = r.cmd ∧ x.due = k.now + 139 ∧ (r.cmd.b.getLsbD 3 = false → (coreOf t c).mx.pairs = m.pairs) ∧
        (r.cmd.b.getLsbD 3 = true → ∀ p, tget pairZero (coreOf t c).mx.pairs p =
          if p / 128 = row then pairZero else tget pairZero m.pairs p)) ∧
    (∀ r, enginesStopped k = false → m.rows = [r] → r.due ≤ k.now → drDst r.cmd.b.toNat = 1 →
      let off := r.cmd.a.toNat % 2 ^ 22 + r.i * drStride r.cmd.b.toNat
      ∃ t, exec (.drainRowWrite c) st = .next t ∧ (coreOf t c).mx.rows = [] ∧ t.mem = st.mem ∧
        (∀ j (h : j < (drainBytes r).1.length), memByte (coreOf t c).views.swz (off + j) = (drainBytes r).1[j]) ∧
        (∀ x, x < off ∨ off + (drainBytes r).1.length ≤ x → memByte (coreOf t c).views.swz x = memByte k.views.swz x)) ∧
    (∀ f, m.arriving = [f] → ∃ t, exec (.followOnArrive c) st = .next t ∧
      (m.follow.any (·.tag == f.tag) = true → (coreOf t c).mx.follow = m.follow ∧ (coreOf t c).mx.arriving = [] ∧
        (coreOf t c).csr.mxstat.getLsbD 16 = true ∧ (coreOf t c).mx.count = m.count + 1) ∧
      (m.follow.any (·.tag == f.tag) = false → m.follow.length < 8 →
        (coreOf t c).mx.follow = m.follow ++ [f] ∧ (coreOf t c).mx.arriving = []) ∧
      (m.follow.any (·.tag == f.tag) = false → 8 ≤ m.follow.length →
        (coreOf t c).mx.follow = m.follow ∧ (coreOf t c).mx.arriving = [f]))

/-- R229, R209, R232, R337: each event of a courier queue completes. COURIER_COMMAND_START: with no command running, the head command
starts, as its entry in memory has it (R222), from the bytes that PROG counts. COURIER_LINE_LAND: a line whose places, and with the last line whose barrier, are ready lands
once the latency of its destination has passed: its units stand in memory, the write pointer of the channel counts their bytes, and no
other byte changes but of the queue's record; with the last line HEAD advances. What a unit lands (R229, R233, R238): its converted bytes,
or for a reduction what R238 makes of the element at its home, at its place in every core that it goes to, or in the swizzled view. STREAM_FLIT_ACCEPT: the next flit of a cpadd to the
core's own stream store enters its queue, with the place, sign and bytes of its elements. COURIER_QUEUE_POLL: a halted queue whose
record shows FAULT 0, and no reserved bit set, resumes from the PROG of the record, unless its core's context is away (R231). -/
def Obligations.CouriersAct : Prop :=
  ∀ (st : State) (c q : Nat), c < 768 → q < 8 →
    let k := coreOf st c
    let x := queueOf k q
    (let y := liveQueue st c q
     ∀ m rest m', y.cmds = m :: rest → x.running = none → x.faulted = false → k.run = .run → k.mx.arriving = [] →
      headCmd (syncQueue st c q) c q m = .ok m' →
      ∃ t r, exec (.courierCommandStart c q) st = .next t ∧ (queueOf (coreOf t c) q).running = some r ∧
        r.start = cpNow st c q ∧ r.landed = y.prog ∧ (queueOf (coreOf t c) q).cmds = m' :: rest ∧ t.mem = st.mem) ∧
    (∀ m r, startedOf x = some (m, r) → x.faulted = false → m.op ≠ 0x0A → k.run = .run → k.resident = true → r.next ≤ cpNow st c q →
      atomsAhead k m = false →
      let us := lineUnits m r.elem
      let image := r.elem / (imgBytes (cmdFmt m) / 64)
      let srcs := if cmdPlanes m then (List.range (unitsPerImage m)).map (image * unitsPerImage m + ·) else us
      firstFind (srcs.flatMap (findSrc st c m) ++ us.flatMap (findDst st c m)
        ++ findBar st c m (decide (landUnits m ≤ r.elem + us.length))) = .ok →
      r.start + (landCores c m).foldl (fun y o => max y (cpLat c (landXlate st c o m (dstAddr m r.elem)))) 0 ≤ cpNow st c q →
      let z := us.foldl (fun s u => (landOne s c m u).1) (lineGap st c q).2
      let z' := modCore z c fun y => modQueue y q fun w => { w with prog := w.prog + us.length * landBytes m }
      let clear := fun (s : State) (o n b : Nat) =>
        x.recAddr = 0 ∨ ∀ p, recordPa s c (x.recAddr.toNat + o) = some p → b < p.1 ∨ p.1 + n ≤ b
      ∃ t, exec (.courierLineLand c q) st = .next t ∧
        (q < 4 → tget 0 (coreOf t c).cp.wp q = tget 0 k.cp.wp q + .ofNat 64 (us.length * landBytes m)) ∧
        (st.host.mkeys = [] → x.recAddr.toNat % 4096 + 64 ≤ 4096 → ∀ b, clear z 32 8 b →
          (landUnits m ≤ r.elem + us.length → clear (mirrorProg z' c q) 24 16 b) → memByte t.mem b = memByte z.mem b) ∧
        (landUnits m ≤ r.elem + us.length → (queueOf (coreOf t c) q).head = x.head + 1 ∧
          (queueOf (coreOf t c) q).cmds = x.cmds.drop 1 ∧ (queueOf (coreOf t c) q).running = none) ∧
        (r.elem + us.length < landUnits m → (queueOf (coreOf t c) q).head = x.head ∧
          ∃ r', (queueOf (coreOf t c) q).running = some r' ∧ r'.elem = r.elem + us.length)) ∧
    (∀ (m : CpCmd) (u : Nat) (pa key : Nat → Nat) (padded : Nat → Bool),
      let d := m.ctl.toNat
      let dst := dstAddr m u
      let out := (unitOut st c m u).1
      let b := if m.op = 0x0B then
        leBytes 4 (reduceEl (cpDfmt d) (cpOp d) (cpRm d) (leNat (homeBytes st c m dst)) (leNat out)).1 else out
      dst % 4096 + b.length ≤ 4096 → (∀ o ∈ landCores c m, landXlate st c o m dst = .ok (pa o) (key o) (padded o)) →
      ((∀ o ∈ landCores c m, dstSwizzled m = false ∨ ∀ h off, target (pa o) ≠ .scratch h off) →
        st.host.mkeys = [] ∨ (∀ o ∈ landCores c m, globalBytes ≤ pa o) →
        (landOne st c m u).1.mem = (landCores c m).foldl (fun mem o => memWrite mem (pa o) b) st.mem) ∧
      (∀ off, dstSwizzled m = true → landCores c m = [c] → target (pa c) = .scratch c off →
        (landOne st c m u).1.mem = st.mem ∧
        ∀ j (h : j < b.length), memByte (coreOf (landOne st c m u).1 c).views.swz (off + j) = b[j])) ∧
    (∀ m r, startedOf x = some (m, r) → x.faulted = false → m.op = 0x0A → k.run = .run → r.next ≤ cpNow st c q →
      atomsAhead k m = false → cpaddTarget m.dest.toNat = c → r.start + 12 ≤ cpNow st c q → k.resident = true → ctxSuspended st c = false →
      k.ss.dieQ.length < 16 →
      firstFind ((flitUnits m r.n r.elem).flatMap (findSrc st c m)
        ++ findBar st c m (decide (srcUnits m ≤ r.elem + (flitUnits m r.n r.elem).length))) = .ok →
      ∃ t f, exec (.streamFlitAccept c q) st = .next t ∧ (coreOf t c).ss.dieQ = k.ss.dieQ ++ [f] ∧
        f.sid = sidOf m.dest.toNat ∧ (f.row, f.el) = addPlace m r.n r.elem ∧ f.sub = m.ctl.getLsbD 19 ∧ f.acc = (dieOf st (dieIx c)).dtick ∧
        f.data = (flitUnits m r.n r.elem).flatMap (srcRead st c m)) ∧
    (x.faulted = true → courierGone k = false → ∀ b, readRecord st c x.recAddr.toNat 64 = some b → (field b 17 1).testBit 0 = false → queueBad b = false →
      ∃ t, exec (.courierQueuePoll c q) st = .next t ∧ (queueOf (coreOf t c) q).faulted = false ∧
        (queueOf (coreOf t c) q).prog = field b 32 8 ∧ (queueOf (coreOf t c) q).cmds = (liveQueue st c q).cmds ∧ t.mem = st.mem)

/-- R246, R247, R250, R338: each event of a die's Fuller completes. FULLER_CARD_RUN: an idle Fuller takes the next card. FULLER_CARD_COMPLETE:
a card whose elements are done, with no step to apply, completes: its number and its flags are its core's. FULLER_ROUTINE_LOAD: an
fprog at the head loads its slot; an image that fails its checks leaves the slot empty and error 4. FULLER_FAULT_RETRY: the walk of a
halted card that succeeds lets it go on. -/
def Obligations.FullersAct : Prop :=
  ∀ (st : State) (d : Nat), d < 4 →
    let x := dieOf st d
    (∀ c seq card stamp asid keyid lvl bank, x.frun = none → x.fq = [.card c seq card stamp asid keyid lvl bank] →
      (coreOf st c).run = .run → ∃ t r, exec (.fullerCardRun d) st = .next t ∧ (dieOf t d).frun = some r ∧ r.core = c ∧
        r.seq = seq ∧ r.card = card ∧ r.i = 0 ∧ (dieOf t d).fq = [] ∧ t.mem = st.mem) ∧
    (∀ r, x.frun = some r → r.halted = none → r.inElem = false → r.grp ≠ [] → cardCount r.card ≤ r.i → cardApply r.card = false →
      cardStops (coreOf st r.core) r = false → ∃ t, exec (.fullerCardComplete d) st = .next t ∧ (dieOf t d).frun = none ∧ (coreOf t r.core).fl.last = r.seq ∧
        (coreOf t r.core).fl.flags = (coreOf st r.core).fl.flags ||| r.flags ∧ t.mem = st.mem) ∧
    (∀ c last slot image b, x.frun = none → x.fq = [.prog c last slot image (some b)] → (coreOf st c).run = .run →
      ∃ t, exec (.fullerRoutineLoad d) st = .next t ∧ (dieOf t d).fq = [] ∧
        tget none (tget Bank.free (dieOf t d).banks b).slots slot = (if routineOk image then some image else none) ∧
        (routineOk image = false → (coreOf st c).fl.err = none → (coreOf t c).fl.err = some (last, 4)) ∧
        (routineOk image = true → (coreOf t c).fl = (coreOf st c).fl)) ∧
    (∀ r va root e a pte pa key padded, x.frun = some r → r.halted = some va → rootOf st r.core = some root →
      walk st.mem root r.asid va.toNat (haltDirty st r va.toNat) = .ok (e, a, pte) →
      checkEntry st r.core r.lvl r.keyid e va.toNat (haltWrites r) = .ok pa key padded →
      ∃ t, exec (.fullerFaultRetry d) st = .next t ∧ (dieOf t d).frun = some { r with halted := none })

/-- R243, R244, R375, R376, R377: each event of the pigeonholes completes. PIGEONHOLE_FLIT_LAND: a flit whose time has come stands in its
position with its tag, and no other position changes. PHLATE: a held phrecv that finds a tag that is not its own after the hold of
ALN_OVR asks for the replay of its phase; with anything else the event changes nothing. What a phrecv finds: an older tag or an empty
position holds it for at most ALN_OVR ticks and is then detail 0, a newer tag is detail 1, and with its own tag everywhere it goes on.
PIGEONHOLE_SCRUB: the positions whose tags are older than ATICK − 2^30 lose V and keep tag and flit, and no other changes. That a held
phrecv looks once a tick, and the tick in which PHLATE finds the hold over, are the model's reading (log 33). -/
def Obligations.PigeonholesAct : Prop :=
  (∀ (st : State) (d : Nat), d < 4 →
    let x := dieOf st d
    (∀ f, x.phFlits = [f] → f.due ≤ refTick st → ∃ t, exec (.pigeonholeFlitLand d) st = .next t ∧ (dieOf t d).phFlits = [] ∧
      tget phEmpty (dieOf t d).pigeon ((f.port * 2 + f.par) * 64 + f.pos) = { valid := true, tag := f.tag, data := f.data } ∧
      ∀ j, j ≠ (f.port * 2 + f.par) * 64 + f.pos → tget phEmpty (dieOf t d).pigeon j = tget phEmpty x.pigeon j) ∧
    (let stale := fun (p : PhPos) => p.valid = true ∧ serial p.tag.toNat (wrap 32 ((x.atick : Int) - 2 ^ 30)) < 0
     ∃ t, exec (.pigeonholeScrub d) st = .next t ∧ t.mem = st.mem ∧ ∀ y, y ∈ (dieOf t d).pigeon ↔ ∃ p ∈ x.pigeon,
      (stale p.2 ∧ y = (p.1, { p.2 with valid := false }) ∧ y.2 ≠ phEmpty) ∨ (¬ stale p.2 ∧ y = p))) ∧
  (∀ (st : State) (c : Nat), c < 768 →
    (∀ detail xaddr, heldBy (coreOf st c) .phrecv = true → heldCheck st c = .fault 26 detail xaddr →
      ∃ t w, exec (.phlate c) st = .next t ∧ (coreOf t c).run = .replay ∧
        t.host.posted = w ++ [.replay c 26 detail (.ofNat 64 xaddr)] ∧ t.mem = st.mem) ∧
    ((heldBy (coreOf st c) .phrecv = false ∨ ∀ detail xaddr, heldCheck st c ≠ .fault 26 detail xaddr) →
      exec (.phlate c) st = .next st)) ∧
  (∀ (st : State) (a : Args),
    let ps := phSample st a.core a.b.toNat
    let off := a.a.toNat % 2 ^ 22
    ((∀ p ∈ ps, p.valid = true ∧ p.tag.toNat = a.c.toNat) → phrecvWait st a = .ok) ∧
    (∀ p ∈ ps, p.valid = false →
      phrecvWait st a = (if phHeldFor st a.core ≤ alnOvr (coreOf st a.core) then .hold .phrecv (budgetOf a) else .fault 26 0 off)) ∧
    ((∀ p ∈ ps, p.valid = true ∧ 0 ≤ serial p.tag.toNat a.c.toNat) → (∃ p ∈ ps, p.tag.toNat ≠ a.c.toNat) →
      phrecvWait st a = .fault 26 1 off) ∧
    (∀ p ∈ ps, p.valid = true → serial p.tag.toNat a.c.toNat < 0 →
      phrecvWait st a = (if phHeldFor st a.core ≤ alnOvr (coreOf st a.core) then .hold .phrecv (budgetOf a) else .fault 26 0 off)))


/-! ### Events of the dies, the fabric and the translation service -/

/-- R27, R137: the combined update of a barrier by what reaches it in a tick. Arrivals come off ARRV, expected units raise SECT
and decrements lower it, netted exactly; a field that would go below zero becomes zero and SECT above 2^32 − 1 becomes that, and
both set UNDER; ARRV and SECT at zero with UNDER 0 advance GEN and reload ARRV from ARRVI; under UNDER, GEN stays until a tbinit,
which discards the others, and a tbwait that observes it raises TBERR. BARRIER_UPDATE stores the update of all that reaches a
barrier in the tick. -/
def Obligations.BarriersUpdate : Prop :=
  (∀ (old : Nat) (l : List BarKind), old < 2 ^ 128 →
    let arr := (l.map fun u => match u with | .arr n => n | _ => 0).sum
    let inc := (l.map fun u => match u with | .exp n => n | _ => 0).sum
    let dec := (l.map fun u => match u with | .dec n => n | _ => 0).sum
    let new := barUpdate old l
    (∀ u ∈ l, ∀ v, u ≠ .init v) →
    (arr ≤ barArrv old → dec ≤ barSect old + inc → barSect old + inc - dec < 2 ^ 32 → barUnder old = false →
      barUnder new = false ∧ barArrvi new = barArrvi old ∧ barSect new = barSect old + inc - dec ∧
      (if barArrv old = arr ∧ barSect old + inc = dec then barGen new = (barGen old + 1) % 2 ^ 32 ∧ barArrv new = barArrvi old
        else barGen new = barGen old ∧ barArrv new = barArrv old - arr)) ∧
    (barUnder old = true ∨ barArrv old < arr ∨ barSect old + inc < dec ∨ 2 ^ 32 ≤ barSect old + inc - dec →
      barUnder new = true ∧ barGen new = barGen old ∧ barArrvi new = barArrvi old ∧ barArrv new = barArrv old - arr ∧
        barSect new = min (2 ^ 32 - 1) (barSect old + inc - dec))) ∧
  (∀ (old v : Nat) (l r : List BarKind), v < 2 ^ 24 → (∀ u ∈ l ++ r, ∀ w, u ≠ .init w) → let new := barUpdate old (l ++ .init v :: r)
    barGen new = 0 ∧ barArrv new = v ∧ barArrvi new = v ∧ barSect new = 0 ∧ barUnder new = false) ∧
  (∀ (st : State) (d pa : Nat), d < 4 → barArrivals st d ≠ [] → (∀ x ∈ barArrivals st d, x.2.addr = pa) →
    ∃ t, exec (.barrierUpdate d) st = .next t ∧
      memNat t.mem pa 16 = barUpdate (memNat st.mem pa 16) ((barArrivals st d).map (·.2.kind)) ∧
      (∀ x, x < pa ∨ pa + 16 ≤ x → memByte t.mem x = memByte st.mem x) ∧ t.dies = st.dies) ∧
  (∀ (st : State) (n : BitVec 1) (g : BitVec 4) (s : BitVec 9) (pa : Nat), SlotReady st n g s.toNat → lvlOf (slotCore st) = .t →
    let x := operands st 10 s.toNat
    BarReach st x x.c.toNat false pa → (∀ o off, target pa = .scratch o off → homeHeld st o = false) →
    barUnder (observedBar st st.cur pa) = true →
    ∃ t, exec (.tbwait n g s) st = .next t ∧ (coreOf t st.cur).pc = .ofNat 14 (9898 + 11) ∧ (coreOf t st.cur).csr.xaddr = x.c ∧
      t.mem = st.mem) ∧
  (∀ (st : State) (c : Nat), c < 768 → ∃ t, exec (.genNotice c) st = .next t ∧ t.mem = st.mem ∧ t.cores = st.cores ∧
    ∀ r ∈ st.bars, r.tick + gwDelay c r.addr ≤ (dieOf st (homeDie r.addr)).dtick →
      ∃ r' ∈ t.bars, r'.addr = r.addr ∧ r'.before = r.before ∧ r'.told.contains c = true)

/-- R28, R266, R278, R280, R353, R362, R366, R368 to R370, R393, R397: what happens on a die. A freeze lasts 48 ticks and ends; a walk that
finds its leaf fills the die's TLB and leaves the entry with its A and D bits; beacons leave on every port that is up and
refresh the receiver's estimate; an estimate without one for 256 ticks is stale and reported; a retry is counted, a link goes up
or down at both ends at once (log 37); a shootdown takes the next generation and removes what it names, and is acknowledged once what could use it
has performed; a tick advances DTICK by one and ATICK by at most one, never back, and the bytes that a core's phrecv took
in its last tick then stand at their destination (log 5), but for a tick after a fatal error, which changes no core and no memory. A
beacon arrives at the 40th or the 41st tick of the receiver from its sending, the model's reading (log 7). A freeze is counted as 49 for 48 ticks to
come, the model's count (log 38). -/
def Obligations.DieEvents : Prop :=
  (∀ (st : State) (c : Nat), c < 768 →
    (∃ t, exec (.correctableErrorFreeze (.core c)) st = .next t ∧
      (coreOf t c).freeze = (if (coreOf st c).freeze = 0 then 1 else (coreOf st c).freeze) + 48 ∧
      (coreOf t c).files = (coreOf st c).files ∧ t.mem = st.mem) ∧
    ((coreOf st c).freeze = 1 → ∃ t, exec (.freezeEnd (.core c)) st = .next t ∧ (coreOf t c).freeze = 0 ∧ t.mem = st.mem)) ∧
  (∀ (st : State) (d : Nat), d < 4 →
    let x := dieOf st d
    (∀ w due e a pte, x.walks = [w] → w.due = some due → due ≤ x.dtick → walk st.mem w.root w.asid w.va (walkDirty st w) = .ok (e, a, pte) →
      (∀ y ∈ st.cores, dieIx y.1 = d → y.2.preloads = []) →
      ∃ t, exec (.translationWalkComplete d) st = .next t ∧ (dieOf t d).walks = [] ∧
        (dieOf t d).tlb = tlbFill 16384 x.tlb e ∧ memNat t.mem a 8 = pte ∧
        (∀ y, y < a ∨ a + 8 ≤ y → memByte t.mem y = memByte st.mem y)) ∧
    (∃ t, exec (.beaconSend d) st = .next t ∧ ∀ p, p < 4 → x.up.getLsbD p = true →
      ∃ b ∈ (dieOf t (neighbour d p)).beacons, b.port = p ∧ b.dval = x.dtick ∧
        (b.due = (dieOf st (neighbour d p)).dtick + 40 ∨ b.due = (dieOf st (neighbour d p)).dtick + 41)) ∧
    (∀ b, x.beacons = [b] → b.due ≤ x.dtick → ∃ t, exec (.beaconReceive d) st = .next t ∧ (dieOf t d).beacons = [] ∧
      (b.bad = false →
        estOf (dieOf t d) (neighbour d b.port) = { val := b.dval + 40, valid := true, age := 0, stale := false }) ∧
      (b.bad = true → (dieOf t d).est = x.est ∧ (dieOf t d).blost.toNat = min 255 (x.blost.toNat + 1)) ∧
      (dieOf t d).dtick = x.dtick) ∧
    (∀ j, j < 4 → j ≠ d → (estOf x j).stale = false → 256 ≤ (estOf x j).age → ∃ t, exec (.estimateStale d j) st = .next t ∧
      (estOf (dieOf t d) j).stale = true ∧ (estOf (dieOf t d) j).val = (estOf x j).val ∧
      t.host.posted = st.host.posted ++ [.stale d j]) ∧
    (∀ p, p < 5 → ∃ t, exec (.linkRetry d p) st = .next t ∧
      (dieOf t d).retry = (if x.retry = 0xFFFF then x.retry else x.retry + 1) ∧ (dieOf t d).up = x.up ∧ t.cores = st.cores) ∧
    (∀ p up, p < 5 → ∃ t, exec (.linkStateChange d p up) st = .next t ∧ (dieOf t d).up.getLsbD p = up ∧
      (p < 4 → (dieOf t (neighbour d p)).up.getLsbD p = up) ∧
      (∀ r, r ≠ p → (dieOf t d).up.getLsbD r = x.up.getLsbD r) ∧ t.cores = st.cores) ∧
    (∀ val : Word, ∃ t s, exec (.xlcmd d val) st = .next t ∧ (dieOf t d).xlgen = x.xlgen + 1 ∧
      (dieOf t d).shoots = x.shoots ++ [s] ∧ s.gen = x.xlgen + 1 ∧ s.asid = val.setWidth 16 ∧ s.va = x.xlva.toNat ∧
      (dieOf t d).tlb = x.tlb.filter (fun e => !shootHits s e) ∧ t.mem = st.mem) ∧
    (∀ s rest, x.shoots = s :: rest → s.due ≤ x.dtick → shootDone st s = true → ∃ t, exec (.shootdownAck d) st = .next t ∧
      (dieOf t d).xlack = s.gen ∧ (dieOf t d).shoots = rest ∧ t.cores = st.cores) ∧
    (stubBusy st d = false → ∃ t, exec (.stubcmd d) st = .next t ∧ t.mem = st.mem ∧
      ∀ c, dieIx c = d → c < 768 → stubDeferred (coreOf st c) = true →
        (coreOf t c).stubNew.isSome = true ∧ (coreOf t c).code = (coreOf st c).code) ∧
    (∀ r rest pa key s, x.dbg.buffer = r :: rest → ringXlate st d (ringNext x.dbg r.postmark) = some (pa, key, s) →
      ∃ t, exec (.traceRingWrite d) st = .next t ∧ (dieOf t d).dbg.buffer = rest ∧
        (r.postmark = true → (dieOf t d).dbg.pkwp = x.dbg.pkwp + 16) ∧ (r.postmark = false → (dieOf t d).dbg.trwp = x.dbg.trwp + 16)) ∧
    (∃ t, exec (.trquiesce d true) st = .next t ∧ (dieOf t d).dbg.trctl.getLsbD 5 = true ∧
      (x.dbg.buffer = [] → (dieOf t d).dbg.trctl.getLsbD 6 = true)) ∧
    (∃ t, exec (.trquiesce d false) st = .next t ∧ (dieOf t d).dbg.trctl.getLsbD 5 = false ∧
      (dieOf t d).dbg.trctl.getLsbD 6 = false) ∧
    (∃ t, exec (.tick d) st = .next t ∧ (dieOf t d).dtick = x.dtick + 1 ∧ x.atick ≤ (dieOf t d).atick ∧
      (dieOf t d).atick ≤ x.atick + 1 ∧ (∀ o, o ≠ d → ∃ b r, dieOf t o = { dieOf st o with ticked := b, isRef := r }) ∧
      ((∀ y ∈ st.cores, dieIx y.1 = d → y.2.copies = []) → t.mem = st.mem) ∧
      (st.host.fatal.isSome = true → t.cores = st.cores ∧ t.mem = st.mem) ∧
      ∀ c pa bs s, (coreOf st c).copies = [(pa, bs, s)] → dieIx c = d → st.host.fatal = none →
        (∀ y ∈ st.cores, dieIx y.1 = d → y.1 ≠ c → y.2.copies = []) → (coreOf t c).copies = [] ∧
          (∀ j (h : j < bs.length), memByte t.mem (pa + j) = bs[j]) ∧
          ∀ y, y < pa ∨ pa + bs.length ≤ y → memByte t.mem y = memByte st.mem y))

/-! ### The Postmaster -/

/-- R292 to R297, R299, R303: the commands of queue slots and the Postmaster's own work, each in the state of a slot that it is for; a
command that does not fit its slot's state is counted and changes nothing else.
R299: a cancel cancels the units of what it names that no cursor has reached, marks the graph, or empties the queues of a job;
a cancel that names nothing live is counted in CMDSTAT.ERRS and changes nothing else. That a MAP before the feature lock is counted as an
unknown OP is but leaves the code, and that the entry at a core's cursor counts as reached, are the model's choice (log 25). -/
def Obligations.QueuesAndCancels : Prop :=
  (∀ (st : State) (slot : BitVec 8),
    let q := slot.toNat
    let s := slotOf st q
    let counted := fun (i : Instr) => exec i st = .next { st with pm := { st.pm with errs := st.pm.errs + 1 } }
    (∀ addr : BitVec 48, st.host.locked = true → st.host.service = none → s.state = .unmapped →
      let r := addr.toNat
      ∃ t, exec (.mapQueue slot addr) st = .next t ∧ (slotOf t q).recAddr = some r ∧ (slotOf t q).lastrec = some r ∧
        (slotOf t q).head = .ofNat 32 (memNat st.mem (r + 24) 4) ∧ (slotOf t q).tail = .ofNat 32 (memNat st.mem (r + 28) 4) ∧
        (slotOf t q).prio = .ofNat 4 (memNat st.mem (r + 17) 1) ∧ (slotOf t q).age = 0 ∧
        (slotOf t q).state = (if memNat st.mem (r + 32) 8 = 0 then .mapped else .suspended) ∧
        (∀ p, p ≠ q → slotOf t p = slotOf st p) ∧ (∀ y, y ≠ r + 18 → memByte t.mem y = memByte st.mem y)) ∧
    (∀ addr, st.host.locked = false ∨ s.state ≠ .unmapped → counted (.mapQueue slot addr)) ∧
    (∀ r, s.state = .mapped → s.recAddr = some r → ∃ t, exec (.unmap slot) st = .next t ∧ (slotOf t q).state = .unmapped ∧
      (slotOf t q).recAddr = none ∧ (slotOf t q).lastrec = s.lastrec ∧ memNat t.mem (r + 24) 4 = s.head.toNat ∧
      memNat t.mem (r + 28) 4 = s.tail.toNat ∧ (∀ p, p ≠ q → slotOf t p = slotOf st p)) ∧
    (s.state = .unmapped ∨ s.state = .draining → counted (.unmap slot)) ∧
    (∀ g, s.state = .running → s.graph = some g → ∃ t, exec (.preempt slot) st = .next t ∧ (slotOf t q).state = .draining ∧
      (∀ c ∈ phaseCores g, (coreOf t c).stopReq = true) ∧ t.mem = st.mem) ∧
    (s.state = .bound ∨ s.state = .selected → ∃ t, exec (.preempt slot) st = .next t ∧ (slotOf t q).heldPreempt = true ∧
      (slotOf t q).state = s.state) ∧
    (s.state = .unmapped ∨ s.state = .mapped ∨ s.state = .suspended → counted (.preempt slot)) ∧
    (∀ val r, s.state ≠ .unmapped → s.recAddr = some r → ∃ t, exec (.prio slot val) st = .next t ∧ (slotOf t q).prio = val ∧
      (slotOf t q).latched = s.latched ∧ memByte t.mem (r + 17) = .ofNat 8 val.toNat) ∧
    (s.state = .unmapped → ∀ val, counted (.prio slot val)) ∧
    (∀ op, ∃ t, exec (.cmdReject op) st = .next t ∧ t.pm.errs = st.pm.errs + 1 ∧ t.pm.cmdcode = op.setWidth 8 ∧
      t.pm.slots = st.pm.slots ∧ t.mem = st.mem) ∧
    (∀ (tail : BitVec 32) r, s.state ≠ .unmapped → s.recAddr = some r → (tail - s.head).toNat ≤ ringSize st r →
      ∃ t, exec (.doorbell slot tail) st = .next t ∧ (slotOf t q).tail = tail ∧ (slotOf t q).head = s.head ∧ t.mem = st.mem) ∧
    (∀ (tail : BitVec 32) r, s.state ≠ .unmapped → s.recAddr = some r → ringSize st r < (tail - s.head).toNat →
      exec (.doorbell slot tail) st = .next { st with pm := { st.pm with dbdrop := st.pm.dbdrop + 1 } }) ∧
    (∀ r, st.pm.slots = [] → st.pm.dirlen = 1 → st.host.service = none → memNat st.mem st.pm.dirbase.toNat 8 = r →
      memNat st.mem (r + 18) 1 % 4 = 3 → ∃ t, exec .directoryScan st = .next t ∧ (slotOf t 0).recAddr = some r ∧
        (slotOf t 0).state ≠ .unmapped ∧ t.host.posted = st.host.posted ++ [.remap 0]) ∧
    (∀ r, st.pm.slots = [(q, s)] → s.state = .mapped → s.recAddr = some r → eligible st s = true →
      selectedOk st s (graphAtHead st s r) = true → ∃ t, exec .selectionRound st = .next t ∧ (slotOf t q).state = .selected ∧
        (slotOf t q).age = 0 ∧ (slotOf t q).latched = min 15 (s.prio.toNat + s.age.toNat / st.pm.agestep.toNat) ∧
        (slotOf t q).graph = some (graphAtHead st s r)) ∧
    (∀ r, s.state = .mapped → s.recAddr = some r → s.head ≠ s.tail →
      let e := entryAt st r s.head.toNat
      let addr := memNat st.mem (e + 8) 8
      queueRecOk st r = true → entryOk st e = true → memNat st.mem e 1 = 2 → addr + 8 ≤ e + 24 ∨ e + 32 ≤ addr →
      ∃ t, exec (.queueSignal slot) st = .next t ∧ memNat t.mem addr 8 = memNat st.mem (e + 16) 8 ∧
        memNat t.mem (e + 24) 8 = 256 ∧ (slotOf t q).head = s.head + 1 ∧ (slotOf t q).state = .mapped) ∧
    (∀ g, s.state = .selected → s.graph = some g → setFree st q g = true → g.resumed = false →
      bindRefused (toState st q .bound) g = none → ∃ t, exec (.bind slot) st = .next t ∧ (slotOf t q).state = .bound ∧
        (slotOf t q).graph.isSome = true ∧ (slotOf t q).susp = 0) ∧
    (∀ g c, s.graph = some g → holding s = true → g.replay = none → c ∈ phaseCores g → startsNow st g.start c = true →
      (firstEntry (coreOf st c)).isSome = true → ∃ t, exec (.launchStart slot) st = .next t ∧ (coreOf t c).run = .run) ∧
    (∀ g j l v, j < 64 → s.graph = some g → g.launches[j]? = some l → tget none l.rep l.base = some v →
      tget none l.rep (l.base + 1) = none → ∃ t g' l', exec (.reorderWindowReport slot j) st = .next t ∧
        (slotOf t q).graph = some g' ∧ g'.launches[j]? = some l' ∧ l'.base = l.base + 1 ∧
        l'.ucanc = l.ucanc + (if v.getLsbD 8 then 1 else 0) ∧ l'.udone = l.udone + (if v = 0 then 1 else 0) ∧
        l'.ufail = l.ufail + (if v.getLsbD 8 = false ∧ v ≠ 0 then 1 else 0)) ∧
    (∀ g r, s.graph = some g → holding s = true → phaseOver st g = true → g.cancelled = false → g.nph ≤ g.phase + 1 →
      s.recAddr = some r → s.unmapPending = false → ∃ t, exec (.phaseEnd slot) st = .next t ∧ (slotOf t q).state = .mapped ∧
        (slotOf t q).graph = none ∧ (slotOf t q).head = g.cut.getD (s.head + 1)) ∧
    (∀ g b, s.state = .draining → s.graph = some g → g.budget = some b → b ≤ refTick st →
      ∃ t, exec (.preemptBudgetExpire slot) st = .next t ∧ (∀ c ∈ phaseCores g, (coreOf t c).stopNow = true) ∧ t.mem = st.mem)) ∧
  (∀ (st : State) (slot : BitVec 8) (carg : Word),
    let q := slot.toNat
    let s := slotOf st q
    let counted := fun (i : Instr) => exec i st = .next { st with pm := { st.pm with errs := st.pm.errs + 1 } }
    let hits := fun (i : Instr) (c u : Nat) => ∃ t, exec i st = .next t ∧ u ∈ (coreOf t c).cancelled ∧
      (∀ x ∈ (coreOf st c).cancelled, x ∈ (coreOf t c).cancelled) ∧ t.pm.errs = st.pm.errs ∧ t.mem = st.mem
    (∀ g l c j e, holding s = true → s.graph = some g → g.launches = [l] → l.cores = [c] → (coreOf st c).run ≠ .ended →
      (coreOf st c).sched[j]? = some e → (coreOf st c).cursor < j → e.tidx ∉ (coreOf st c).cancelled → e.tidx < 2 ^ 24 →
      (carg.toNat = l.launchid.toNat % 2 ^ 40 * 2 ^ 24 + e.tidx → e ∈ lrSched st l.recAddr 0 → hits (.cancelUnit slot carg) c e.tidx) ∧
      (carg = l.launchid → hits (.cancelLaunch slot carg) c e.tidx) ∧
      (carg = phaseIdOf g → hits (.cancelPhase slot carg) c e.tidx)) ∧
    (∀ g, s.state = .running ∨ s.state = .bound → s.graph = some g → g.gseq.toNat = carg.toNat →
      g.launches ≠ [] ∨ g.resumed = true →
      ∃ t g', exec (.cancelGraph slot carg) st = .next t ∧ (slotOf t q).graph = some g' ∧ g'.cancelled = true ∧
        (slotOf t q).state = s.state) ∧
    (∀ r, st.pm.slots = [(q, s)] → s.state = .mapped → s.graph = none → s.recAddr = some r →
      memNat st.mem (recCtx st r + 16) 8 = carg.toNat → ∃ t, exec (.cancelJob slot carg) st = .next t ∧
        (slotOf t q).head = s.tail ∧ (slotOf t q).tail = s.tail ∧ t.pm.errs = st.pm.errs) ∧
    (st.pm.slots = [] → counted (.cancelUnit slot carg) ∧ counted (.cancelLaunch slot carg) ∧ counted (.cancelPhase slot carg) ∧
      counted (.cancelGraph slot carg) ∧ counted (.cancelJob slot carg)))

/-! ### Suspension, replay, debug -/

/-- R301, R327, R332, R339, R340: SATCHEL_SAVE of a settled core that parks writes its frame, leaves it parked and reports the fault to
the host, and a save that fails leaves it stopped with SAVEFLT; a time-sliced core gives way between bundles to a partner with an
entry to run; PHASE_REPLAY stops the cores of its phase, and the fourth failure ends the graph with result 5, DONE and
5 in the RES word of its entry; RESUME of a parked
core whose frame is good, and of one whose save failed, re-enters at XPC, and of any other core is counted. -/
def Obligations.SuspensionAndReplay : Prop :=
  (∀ (st : State) (c : Nat), c < 768 → settledCore st c = true → (coreOf st c).run = .parking →
    let w := saveFrame st c 1 false none
    ∃ t, exec (.satchelSave c) st = .next t ∧ t.mem = w.2.mem ∧
      (match w.1 with
       | none => (coreOf t c).run = .parked ∧ t.host.posted = w.2.host.posted ++ [.park c (coreOf st c).csr.xcause]
       | some f => (coreOf t c).run = .saveFailed ∧ t.host.posted = w.2.host.posted ++ [.saveflt c f.1 (.ofNat 64 f.2)])) ∧
  (∀ (st : State) (c : Nat), c < 768 → settledCore st c = false → (coreOf st c).run = .parking ∨ (coreOf st c).run = .settling →
    exec (.satchelSave c) st = .next st) ∧
  (∀ (st : State) (c p : Nat), c < 768 → partnerOf st c = some p → waitsForTurn st p = true → (coreOf st c).resident = true →
    (coreOf st c).run = .run → (coreOf st c).issue = none → (coreOf st c).reenter = none → lvlOf (coreOf st c) = .t →
    ∃ t, exec (.timeSliceYield c) st = .next t ∧ (coreOf t c).run = .settling ∧
      (coreOf t c).csr.xpc = .ofNat 64 (coreOf st c).pc.toNat ∧ (coreOf t c).files = (coreOf st c).files ∧ t.mem = st.mem) ∧
  (∀ (st : State) (slot : BitVec 8) (g : GraphRun) (r : Nat), (slotOf st slot.toNat).graph = some g → g.replay.isSome = true →
    holding (slotOf st slot.toNat) = true →
    (replayQuiet (stopForReplay st (phaseCores g)) (phaseCores g) = false → ∃ t, exec (.phaseReplay slot) st = .next t ∧
      t.mem = st.mem ∧ ∀ c ∈ phaseCores g, (coreOf st c).run ≠ .dead → (coreOf t c).run = .replay ∧ (coreOf t c).issue = none) ∧
    (replayQuiet (stopForReplay st (phaseCores g)) (phaseCores g) = true → 3 ≤ g.replays → (slotOf st slot.toNat).recAddr = some r →
      (slotOf st slot.toNat).unmapPending = false → ∃ t, exec (.phaseReplay slot) st = .next t ∧
        (slotOf t slot.toNat).state = .mapped ∧ (slotOf t slot.toNat).graph = none ∧
        (g.entry + 64 ≤ r ∨ r + 64 ≤ g.entry → g.entry + 64 ≤ recCtx st r ∨ recCtx st r + 128 ≤ g.entry →
          memNat t.mem (g.entry + 24) 8 = 256 + 5))) ∧
  (∀ (st : State) (slot : BitVec 8) (carg : Word), let c := carg.toNat % 1024
    let here := c < 768 ∧ ∃ j, (coreOf st c).launch = some (slot.toNat, j)
    (∀ s, here → (coreOf st c).run = .parked → restoreFrame st c 1 = (.ok, s) → ∃ t, exec (.resume slot carg) st = .next t ∧
      (coreOf t c).run = .run ∧ (coreOf t c).pc = .ofNat 14 (coreOf s c).csr.xpc.toNat ∧
      (coreOf t c).csr.xstat.getLsbD 16 = (coreOf s c).csr.xstat.getLsbD 17) ∧
    (here → (coreOf st c).run = .saveFailed → lvlOf (coreOf st c) = .s → ∃ t, exec (.resume slot carg) st = .next t ∧
      (coreOf t c).run = .run ∧ (coreOf t c).pc = .ofNat 14 (coreOf st c).csr.xpc.toNat ∧ t.mem = st.mem) ∧
    (768 ≤ c ∨ (coreOf st c).launch = none ∨ ((coreOf st c).run ≠ .parked ∧ (coreOf st c).run ≠ .saveFailed) →
      exec (.resume slot carg) st = .next { st with pm := { st.pm with errs := st.pm.errs + 1 } }))

/-- R342 to R345: haltreq of a hart that exists is latched; a halted hart that resumes re-enters at DPC, at level LVL, without its
resume group none other does; a member of a halt group halts between bundles at its next bundle with HCAUSE 2, where that is re-entered with MID 1 and what has
committed (log 45); an Access
Register command of a halted hart moves 64 bits between data and the register, a command of another type sets cmderr 2, a hart
that is not halted 4, an unassigned number or a write of a read-only register 3. The bit places of command are the model's (log 49, PRESUMED). -/
def Obligations.DebugCore : Prop :=
  (∀ (st : State) (c : Nat), c < 768 → hartExists st c = true →
    (∃ t, exec (.haltreq c) st = .next t ∧ (coreOf t c).dbg.haltreq = true ∧ (coreOf t c).run = (coreOf st c).run ∧
      (coreOf t c).csr = (coreOf st c).csr ∧ ∀ o, o ≠ c → coreOf t o = coreOf st o) ∧
    ((coreOf st c).run = .halted → (coreOf st c).dbg.rgroup = 0 → ∃ t, exec (.resumereq c) st = .next t ∧
      (coreOf t c).run = .run ∧ (coreOf t c).pc = (coreOf st c).dbg.dpc ∧
      (coreOf t c).csr.xstat.getLsbD 16 = (coreOf st c).dbg.dstat.getLsbD 16 ∧ (coreOf t c).csr.xpc = (coreOf st c).csr.xpc ∧
      (coreOf t c).files = (coreOf st c).files ∧ t.mem = st.mem ∧ ∀ o, o ≠ c → coreOf t o = coreOf st o)) ∧
  (∀ (st : State) (c due : Nat), c < 768 → (coreOf st c).dbg.haltAt = some due → 0 < due → due ≤ (dieOf st (dieIx c)).dtick →
    (coreOf st c).run = .run → (coreOf st c).issue = none →
    ∃ t, exec (.haltGroupHalt c) st = .next t ∧ (coreOf t c).run = .halted ∧ (coreOf t c).dbg.dpc = (coreOf st c).pc ∧
      (coreOf t c).dbg.dstat.extractLsb' 8 4 = 2 ∧ (coreOf t c).dbg.dstat.getLsbD 19 = (coreOf st c).reenter.isSome ∧
      (∀ done w, (coreOf st c).reenter = some (done, w) → (coreOf t c).dbg.dstat.extractLsb' 24 8 = done) ∧
      (coreOf t c).csr.xpc = (coreOf st c).csr.xpc ∧ (coreOf t c).csr.xcause = (coreOf st c).csr.xcause ∧
      (coreOf t c).csr.xaddr = (coreOf st c).csr.xaddr ∧ t.mem = st.mem) ∧
  (∀ (st : State) (d : Nat) (command : BitVec 32), d < 4 → (dieOf st d).dbg.cmderr = 0 →
    let x := command.toNat
    let c := 192 * d + (dieOf st d).dbg.hartsel
    let halted := (dieOf st d).dbg.hartsel < 192 ∧ hartExists st c = true ∧ (coreOf st c).run = .halted
    let legal := x / 2 ^ 24 = 0 ∧ x / 2 ^ 20 % 8 = 3 ∧ x.testBit 18 = false
    let fails := fun (e : Nat) => ∃ t, exec (.accessRegister d command) st = .next t ∧ (dieOf t d).dbg.cmderr = e ∧
      t.cores = st.cores ∧ t.mem = st.mem
    (x / 2 ^ 24 ≠ 0 ∨ x / 2 ^ 20 % 8 ≠ 3 → fails 2) ∧
    (legal → ¬ halted → fails 4) ∧
    (legal → halted → x.testBit 17 = true → dbgReg (x % 2 ^ 16) = none → fails 3) ∧
    (∀ n, legal → halted → x.testBit 17 = true → x.testBit 16 = true → dbgReg (x % 2 ^ 16) = some (.csr n) →
      n ∈ [0x060, 0x061, 0x062, 0x063, 0x080, 0x081, 0x082, 0x083] → fails 3) ∧
    (∀ r, legal → halted → x.testBit 17 = true → x.testBit 16 = false → dbgReg (x % 2 ^ 16) = some r →
      ∃ t, exec (.accessRegister d command) st = .next t ∧ (dieOf t d).dbg.data = dbgRead st (coreOf st c) r ∧ t.cores = st.cores) ∧
    (∀ n, legal → halted → x.testBit 17 = true → x.testBit 16 = true → x % 2 ^ 16 = 0x1000 + n → 0 < n → n < 128 →
      ∃ t, exec (.accessRegister d command) st = .next t ∧ tget 0 (coreOf t c).files.g n = (dieOf st d).dbg.data ∧
        (∀ m, m ≠ n → tget 0 (coreOf t c).files.g m = tget 0 (coreOf st c).files.g m) ∧
        (coreOf t c).csr = (coreOf st c).csr ∧ t.mem = st.mem))

/-! ### Keys, features, power, reset -/

/-- R401, R402, R403, R400: a key command runs for a free time (log 8) and one that comes meanwhile is ignored; then the slot takes the key
that was loaded (the first 32 bytes of it for Post) or some key, or is empty, and no other slot changes; no core changes but for loads in flight (log 12); the feature lock sets
FEATk := FSUPPk & (FWANTk | FMANDk) once; an attestation request captures what its report is to hold, with the firmware's SVN, the nonce
and FEAT0 at their places; one made while a report is under way is ignored; and the report appears, 352 bytes, at a free later time
(log 8). -/
def Obligations.KeysAndFeatures : Prop :=
  ∀ st : State,
    (∀ (post : Bool) (slot : BitVec 10),
      let held := fun (t : State) (n : Nat) => if post then tget none t.host.pkeys n else tget none t.host.mkeys n
      let runs := fun (i : Instr) (k : KeySlot) => ∃ t due, exec i st = .next t ∧ refTick st < due ∧
        t.host.keyRun = some (due, post, slot.toNat, k) ∧ t.host.mkeys = st.host.mkeys ∧ t.host.pkeys = st.host.pkeys ∧
        t.mem = st.mem ∧ t.cores = st.cores
      (st.host.keyRun = none →
        runs (.keyLoad post slot) (some (if post then .ofNat 512 (st.host.keyIn.toNat % 2 ^ 256) else st.host.keyIn)) ∧
        (∃ k, runs (.keyGenerate post slot) (some k)) ∧ runs (.keyEmpty post slot) none) ∧
      (st.host.keyRun.isSome = true → ∀ i ∈ [Instr.keyLoad post slot, .keyGenerate post slot, .keyEmpty post slot],
        exec i st = .next st) ∧
      (∀ due k, st.host.keyRun = some (due, post, slot.toNat, k) →
        (refTick st < due → endKey st = st) ∧
        (due ≤ refTick st → held (endKey st) slot.toNat = k ∧ (∀ n, n ≠ slot.toNat → held (endKey st) n = held st n) ∧
          (if post then (endKey st).host.mkeys = st.host.mkeys else (endKey st).host.pkeys = st.host.pkeys) ∧
          (endKey st).host.keyRun = none ∧ (endKey st).mem = st.mem ∧ (post = true → (endKey st).cores = st.cores) ∧
          ∀ c, (coreOf (endKey st) c).files = (coreOf st c).files ∧ (coreOf (endKey st) c).csr = (coreOf st c).csr ∧
            (coreOf (endKey st) c).accs = (coreOf st c).accs ∧ (coreOf (endKey st) c).ldq.length = (coreOf st c).ldq.length ∧
            ((coreOf st c).ldq = [] → (coreOf st c).sbank.ldq = [] → coreOf (endKey st) c = coreOf st c)))) ∧
    (st.host.locked = false → ∃ t, exec .flock st = .next t ∧ t.host.locked = true ∧ t.host.fwant = st.host.fwant ∧
      tget 0 t.host.feat 0 = 0x3F0001 &&& (tget 0 st.host.fwant 0 ||| 1) ∧ ∀ k, 0 < k → tget 0 t.host.feat k = 0) ∧
    (st.host.locked = true → exec .flock st = .next st) ∧
    (st.host.attReq = none → ∃ t due b, exec .attestationRequest st = .next t ∧ t.host.attReq = some (due, b) ∧ refTick st < due ∧
      t.mem = st.mem ∧ b.length = 256 ∧ field b 0 2 = 1 ∧ field b 4 4 = st.host.fwSvn.toNat ∧
      (st.host.nonce.length = 48 → (b.drop 8).take 48 = st.host.nonce) ∧ field b 152 8 = (tget 0 st.host.feat 0).toNat ∧
      ∀ s : State, s.host.attReq = some (due, b) → due ≤ refTick s → (showReport s).host.report.length = 352 ∧
        (showReport s).host.report.take 256 = b ∧ (showReport s).host.attReq = none ∧
        (showReport s).host.reports = s.host.reports + 1) ∧
    (st.host.attReq.isSome = true → exec .attestationRequest st = .next st)

/-- R407, R408, R398, R401: without a TIMED launch the governor lowers the clock of a die by one step while the power or the die
exceeds its limit, down to 133 steps, and raises it again by one; with one it leaves the clocks while a limit has not been exceeded for
20 ms, then posts THROTTLE and steps all dies down, and with none exceeded has all dies at the nominal clock; a fatal error stops every
core that has a launch and has not ended it, and writes the dump, whose header has VALID and the cause, no input but a reset acts then (R408), and a second changes nothing; the boot sequence stops at a step that fails with the step and the
condition in BOOTSTAT, or clears global memory, leaves one key in memory slot 0 and starts the loader; a module reset empties the
module and starts the sequence again. The step counts, the samples in 20 ms and the copy whose condition is reported are the
model's (logs 13 and 23). -/
def Obligations.PowerBootAndReset : Prop :=
  ∀ st : State,
    (∀ (watts : Nat) (temps : List Nat), (∀ d, d < 4 → temps.getD d 0 < 115) →
      let hot := ∃ d, d < 4 ∧ 105 < temps.getD d 0
      (timedBound st = false → ∃ t, exec (.governorSample watts temps) st = .next t ∧ t.cores = st.cores ∧ t.mem = st.mem ∧
        t.host.watts = watts ∧ ∀ d, d < 4 → (dieOf t d).clkStep =
          if 3600 < watts ∨ 105 < temps.getD d 0 then min 133 ((dieOf st d).clkStep + 1) else (dieOf st d).clkStep - 1) ∧
      (timedBound st = true → ¬ (3600 < watts ∨ hot) → ∃ t, exec (.governorSample watts temps) st = .next t ∧
        t.host.overFor = 0 ∧ ∀ d, d < 4 → dieOf t d = { dieOf st d with clkStep := 0 }) ∧
      (timedBound st = true → 3600 < watts ∨ hot → st.host.overFor < 1999 →
        ∃ t, exec (.governorSample watts temps) st = .next t ∧ t.host.overFor = st.host.overFor + 1 ∧ ∀ d, dieOf t d = dieOf st d) ∧
      (timedBound st = true → 3600 < watts ∨ hot → 1999 ≤ st.host.overFor →
        ∃ t, exec (.governorSample watts temps) st = .next t ∧ t.host.posted = st.host.posted ++ [.throttle] ∧
          ∀ d, d < 4 → (dieOf t d).clkStep = min 133 ((dieOf st d).clkStep + 1))) ∧
    (∀ (watts : Nat) (temps : List Nat) (d : Nat), d < 4 → 115 ≤ temps.getD d 0 → st.host.fatal = none →
      ∃ t, exec (.governorSample watts temps) st = .next t ∧ t.host.fatal = some 2) ∧
    (∀ cause : BitVec 32, (st.host.fatal = none → ∃ t, exec (.fatalError cause) st = .next t ∧ t.host.fatal = some cause ∧
        t.host.dumped = true ∧ t.turn = .agenda ∧ t.agenda = [] ∧
        (∀ c, c < 768 → (coreOf st c).launch.isSome = true →
          (coreOf t c).run = if (coreOf st c).run = .ended then .ended else .dead) ∧
        memNat t.mem 0x059482F00000 2 = 1 ∧ memNat t.mem 0x059482F00002 2 = 1 ∧ memNat t.mem 0x059482F00004 4 = cause.toNat ∧
        ∀ y rest, t.inbox = y :: rest → y.2 = .moduleReset) ∧
      (st.host.fatal.isSome = true → exec (.fatalError cause) st = .next st)) ∧
    (let copy := if flashCond st 0 1 = 0 then 0 else 1;
      (flashCond st copy 1 ≠ 0 → ∃ t, exec .powerOnBoot st = .next t ∧ t.host.bootStat = .ofNat 64 (2 + 16 * flashCond st copy 1) ∧
        t.host.entry = st.host.entry ∧ t.mem = st.mem ∧ t.cores = st.cores) ∧
      (flashCond st copy 1 = 0 → ∃ t, exec .powerOnBoot st = .next t ∧ t.cores = st.cores ∧
        (∀ a, a < globalBytes → memByte t.mem a = 0) ∧ (∀ a, globalBytes ≤ a → memByte t.mem a = memByte st.mem a) ∧
        (tget none t.host.mkeys 0).isSome = true ∧ (∀ n, 0 < n → tget none t.host.mkeys n = none) ∧ t.host.pkeys = [] ∧
        (flashCond st 2 2 ≠ 0 → t.host.bootStat = .ofNat 64 (4 + 16 * flashCond st 2 2) ∧ t.host.entry = st.host.entry) ∧
        (flashCond st 2 2 = 0 → t.host.bootStat = st.host.bootStat ∧ t.host.entry = some (wordAt (flashHeader 2) 16)))) ∧
    (∃ t, exec .moduleReset st = .next t ∧ t.turn = .agenda ∧ t.agenda = [.powerOnBoot] ∧ t.cores = [] ∧ t.dies = [] ∧ t.pm = .reset ∧
      t.host.locked = false ∧ t.host.mkeys = [] ∧ t.host.pkeys = [] ∧ t.host.fatal = none ∧
      (∀ kind, fusedSvn st kind ≤ fusedSvn t kind) ∧ (st.host.fwOn = false → t.host.svn = st.host.svn) ∧
      ∀ a, a < globalBytes → memByte t.mem a = memByte st.mem a)

/-! ### Device registers -/

/-- R4, R293, R294, R280, R392, R393, R397, R400, R401, R403, R407, R408: what a write of a device register does: CARG, AGESTEP but for 0, PRDELTA from 1 to
16, FWANT before the lock; a CMD is the command that its OP names, a doorbell page the doorbell of its slot, XLCMD a shootdown,
KCMD, FLOCK and the request registers what they request; an address that is not assigned, or only reads, changes nothing. What the host
reads: a write-only register as zero, CARG, CMDSTAT, SLOTST, XLACK, FSUPP, FWANT and the input power as they stand, and STUBSTAT, KSTAT
and the attestation request as 1 while what they started runs. -/
def Obligations.RegisterWrites : Prop :=
  ∀ (st : State) (v : Word),
    let write := fun (a : Nat) => exec (.registerWrite (.ofNat 48 a) v) st
    let slot : BitVec 8 := v.extractLsb' 52 8
    let op := v.toNat / 2 ^ 60
    write 0x800000000008 = .next { st with pm := { st.pm with carg := v } } ∧
    (v.toNat % 256 ≠ 0 → write 0x800000000018 = .next { st with pm := { st.pm with agestep := .ofNat 8 v.toNat } }) ∧
    (v.toNat % 256 = 0 → write 0x800000000018 = .next st) ∧
    (1 ≤ v.toNat % 32 → v.toNat % 32 ≤ 16 → write 0x800000000020 = .next { st with pm := { st.pm with prdelta := .ofNat 5 v.toNat } }) ∧
    (v.toNat % 32 = 0 ∨ 16 < v.toNat % 32 → write 0x800000000020 = .next st) ∧
    write 0x800000000028 = .next { st with pm := { st.pm with dirbase := v } } ∧
    (op = 1 → write 0x800000000000 = exec (.mapQueue slot (.ofNat 48 v.toNat)) st) ∧
    (op = 2 → write 0x800000000000 = exec (.unmap slot) st) ∧ (op = 3 → write 0x800000000000 = exec (.preempt slot) st) ∧
    (op = 4 → write 0x800000000000 = exec (.prio slot (v.extractLsb' 48 4)) st) ∧
    (op = 5 → v.toNat / 2 ^ 48 % 16 = 0 → write 0x800000000000 = exec (.cancelUnit slot st.pm.carg) st) ∧
    (op = 5 → v.toNat / 2 ^ 48 % 16 = 1 → write 0x800000000000 = exec (.cancelLaunch slot st.pm.carg) st) ∧
    (op = 5 → v.toNat / 2 ^ 48 % 16 = 2 → write 0x800000000000 = exec (.cancelPhase slot st.pm.carg) st) ∧
    (op = 5 → v.toNat / 2 ^ 48 % 16 = 3 → write 0x800000000000 = exec (.cancelGraph slot st.pm.carg) st) ∧
    (op = 5 → v.toNat / 2 ^ 48 % 16 = 4 → write 0x800000000000 = exec (.cancelJob slot st.pm.carg) st) ∧
    (op = 6 → write 0x800000000000 = exec (.resume slot st.pm.carg) st) ∧
    (op = 0 ∨ 7 ≤ op → write 0x800000000000 = exec (.cmdReject (.ofNat 4 op)) st) ∧
    (∀ q : BitVec 8, write (0x800000100000 + 4096 * q.toNat) = exec (.doorbell q (.ofNat 32 v.toNat)) st) ∧
    (∀ d, d < 4 → write (0x800000600010 + 0x1000 * d) = exec (.xlcmd d v) st) ∧
    (∀ d, d < 4 → v = 1 → write (0x800000700008 + 0x1000 * d) = exec (.stubcmd d) st) ∧
    (v.toNat / 2 ^ 62 = 1 → write 0x800000800000 = exec (.keyLoad (v.getLsbD 61) (.ofNat 10 v.toNat)) st) ∧
    (v.toNat / 2 ^ 62 = 2 → write 0x800000800000 = exec (.keyGenerate (v.getLsbD 61) (.ofNat 10 v.toNat)) st) ∧
    (v.toNat / 2 ^ 62 = 3 → write 0x800000800000 = exec (.keyEmpty (v.getLsbD 61) (.ofNat 10 v.toNat)) st) ∧
    (v.toNat % 2 = 1 → write 0x800000A00040 = exec .flock st) ∧
    (v = 1 → write 0x800000900008 = exec .attestationRequest st ∧ write 0x800000900020 = exec (.fatalError 4) st) ∧
    (∀ k, k < 4 → st.host.locked = false → ∃ t, write (0x800000A00020 + 8 * k) = .next t ∧ tget 0 t.host.fwant k = v ∧
      (∀ j, j ≠ k → tget 0 t.host.fwant j = tget 0 st.host.fwant j) ∧ t.host.feat = st.host.feat) ∧
    (∀ k, k < 4 → st.host.locked = true → write (0x800000A00020 + 8 * k) = .next st) ∧
    (∀ a, a < 0x800000000000 → write a = .next st) ∧ write 0x800000000010 = .next st ∧ write 0x800000A00000 = .next st ∧
    (∀ a ∈ [0x800000000000, 0x800000600010, 0x800000700008, 0x800000800000, 0x800000800040], hostRead st a = 0) ∧
    (∀ q, q < 256 → hostRead st (0x800000100000 + 4096 * q) = 0) ∧
    hostRead st 0x800000000008 = st.pm.carg.toNat ∧ hostRead st 0x800000000010 = cmdStat st ∧
    (∀ q, q < 256 → hostRead st (0x800000002000 + 8 * q) = slotStat st q) ∧
    (∀ d, d < 4 → hostRead st (0x800000600018 + 0x1000 * d) = (dieOf st d).xlack.toNat + (dieOf st d).xlgen.toNat * 2 ^ 32 ∧
      hostRead st (0x800000700010 + 0x1000 * d) = if stubBusy st d then 1 else 0) ∧
    (hostRead st 0x800000800008 = if st.host.keyRun.isSome then 1 else 0) ∧
    (hostRead st 0x800000900008 = if st.host.attReq.isSome then 1 else 0) ∧
    (∀ k, k < 4 → hostRead st (0x800000A00000 + 8 * k) = (if k = 0 then 0x3F0001 else 0) ∧
      hostRead st (0x800000A00020 + 8 * k) = (tget 0 st.host.fwant k).toNat) ∧
    hostRead st 0x800000B00008 = st.host.watts

/-! ### Gwynsum Post -/

/-- R381 to R385: a packet that is taken on its connection. A COMMAND in sequence whose queue belongs to the connection's job and has
room writes its entry at TAIL, advances the record's TAIL and sets PN, and is acknowledged; one without room is refused with FULL
and one for another job with NOTOWNED, and nothing is written. DATA in sequence within its region is written at its offset and
acknowledged, beyond it refused with BOUNDS. An ACK takes what it covers off the sender's list; a NAK is reported to the host.
A packet out of sequence changes nothing, one whose tag, key or connection is wrong is counted only. That a refused packet
does not advance the sequence, and that a malformed one is dropped uncounted, is the model's choice (log 24). -/
def Obligations.PostPackets : Prop :=
  ∀ (st : State) (port : Nat) (p : List Byte), port < 8 →
    let psn := pktPsn p
    let sent := fun (t : State) (peer : BitVec 32) (ty tgt : Nat) => ∃ q, t.post.out = st.post.out ++ [(peer, q)] ∧ field q 0 1 = 1 ∧
      field q 1 1 = ty ∧ field q 16 8 = tgt
    let expects := fun (t : State) (i : Nat) (n : BitVec 32) => ∃ c, tget none t.post.conns i = some c ∧ c.expect = n
    let counted := fun (i : Instr) => exec i st = .next { st with post := { st.post with dropped := st.post.dropped + 1 } }
    (∀ i c, feature st 18 = true → arrival st 1 p = .take i c → psn = c.expect.toNat → pktTgt p / 2 ^ 48 = 1 → pktLen p = 64 →
      pktTgt p / 2 ^ 12 % 2 ^ 36 = 0 →
      let ix := pktTgt p % 2 ^ 12
      let r := memNat st.mem (st.pm.dirbase.toNat + 8 * ix) 8
      let tail := (queueEnds st r).2
      let e := entryAt st r tail.toNat
      let fits := (tail - (queueEnds st r).1).toNat + 1 ≤ ringSize st r
      let owned := ix < st.pm.dirlen.toNat ∧ memNat st.mem (recCtx st r + 16) 8 = c.job.toNat
      (owned → fits → slotHolding st r = none → e + 64 ≤ r ∨ r + 64 ≤ e → ∃ t, exec (.postCommand port p) st = .next t ∧
        (∀ j, j < 64 → memByte t.mem (e + j) = (pktData p).getD j 0) ∧ memNat t.mem (r + 28) 4 = (tail + 1).toNat ∧
        memNat t.mem (r + 18) 1 / 2 % 2 = 1 ∧ sent t c.peer 3 psn ∧ expects t i (.ofNat 32 (psn + 1))) ∧
      (owned → ¬ fits → ∃ t, exec (.postCommand port p) st = .next t ∧ t.mem = st.mem ∧ sent t c.peer 4 (psn + 2 ^ 32) ∧
        t.post.conns = st.post.conns) ∧
      (¬ owned → ∃ t, exec (.postCommand port p) st = .next t ∧ t.mem = st.mem ∧ sent t c.peer 4 (psn + 3 * 2 ^ 32) ∧
        t.post.conns = st.post.conns)) ∧
    (∀ i c, feature st 19 = true → arrival st 2 p = .take i c → psn = c.expect.toNat →
      let handle := pktTgt p / 2 ^ 40
      let off := pktTgt p % 2 ^ 40
      (∀ r, c.regions.find? (fun x => x.handle == handle) = some r → off + pktLen p ≤ r.size →
        ∃ t, exec (.postData port p) st = .next t ∧
          (∀ j, j < pktLen p → memByte t.mem (r.base + off + j) = (pktData p).getD j 0) ∧
          (∀ a, a < r.base + off ∨ r.base + off + pktLen p ≤ a → memByte t.mem a = memByte st.mem a) ∧
          sent t c.peer 3 psn ∧ expects t i (.ofNat 32 (psn + 1))) ∧
      (∀ r, c.regions.find? (fun x => x.handle == handle) = some r → r.size < off + pktLen p →
        ∃ t, exec (.postData port p) st = .next t ∧ t.mem = st.mem ∧ sent t c.peer 4 (psn + 2 * 2 ^ 32) ∧
          t.post.conns = st.post.conns)) ∧
    (∀ i c, arrival st 3 p = .take i c → ∃ t c', exec (.postAck port p) st = .next t ∧ tget none t.post.conns i = some c' ∧
      c'.unacked = c.unacked.filter (fun x => decide (0 < serial x.1.toNat (pktTgt p % 2 ^ 32))) ∧ c'.expect = c.expect ∧
      t.mem = st.mem) ∧
    (∀ i c, arrival st 4 p = .take i c → ∃ t, exec (.postNak port p) st = .next t ∧ t.post = st.post ∧ t.mem = st.mem ∧
      t.host.posted = st.host.posted ++ [.nak (.ofNat 32 i) (.ofNat 32 (pktTgt p)) (pktTgt p / 2 ^ 32 % 256)]) ∧
    (∀ i c, arrival st 1 p = .take i c → psn ≠ c.expect.toNat → exec (.postCommand port p) st = .next st) ∧
    (∀ i c, arrival st 2 p = .take i c → psn ≠ c.expect.toNat → exec (.postData port p) st = .next st) ∧
    (feature st 18 = true → arrival st 1 p = .count → counted (.postCommand port p)) ∧
    (feature st 19 = true → arrival st 2 p = .count → counted (.postData port p)) ∧
    (arrival st 3 p = .count → counted (.postAck port p)) ∧ (arrival st 4 p = .count → counted (.postNak port p)) ∧
    (feature st 18 = false → exec (.postCommand port p) st = .next st) ∧
    (feature st 19 = false → exec (.postData port p) st = .next st)

/-- R383, R385: a poll sends the message of one descriptor below TAIL: a DATA packet with LAST on the ring's connection, kept with the
barrier that its acknowledgement decrements; with no connection it sends nothing. After 20 µs without progress every unacknowledged
packet is sent again, from the oldest; before, none. The places of a descriptor's fields and the 64-bit TAIL word (log 24) and 20 µs as 72,000 ticks of REF
(log 16) are the model's choice. -/
def Obligations.PostSends : Prop :=
  ∀ st : State,
    (st.post.conns = [] → exec .postSendPoll st = .next { st with post := { st.post with lastPoll := refTick st } }) ∧
    (∀ i c r key l s, st.post.conns = [(i, some c)] → c.rings = [r] → 0 < r.size → publishedNat st r.core r.tailAddr 8 = r.taken + 1 →
      postKey st c.kslot = some key →
      let d := (List.range 32).map fun i => publishedByte st r.core (r.ring + 32 * (r.taken % r.size) + i)
      let len := field d 16 8
      let pkt := makePkt key 2 c.kslot c.peer.toNat c.nextPsn.toNat (field d 0 8) 1 (l.take 8192)
      len ≤ 8192 →
      postRead r.core (pagesOf len) { st with post := { st.post with lastPoll := refTick st } } (field d 8 8) len [] = (some l, s) →
      ∃ t c', exec .postSendPoll st = .next t ∧ t.post.out = st.post.out ++ [(c.peer, pkt)] ∧
        tget none t.post.conns i = some c' ∧ c'.nextPsn = c.nextPsn + 1 ∧
        c'.unacked = c.unacked ++ [(c.nextPsn, pkt, some (windowBase r.core + localOff (field d 24 8)))] ∧
        c'.rings = [{ r with taken := r.taken + 1 }]) ∧
    (∀ (conn : BitVec 32) c, tget none st.post.conns conn.toNat = some c → c.unacked ≠ [] →
      (c.lastAck + 72000 ≤ refTick st → ∃ t, exec (.postResendTimeout conn) st = .next t ∧
        t.post.out = st.post.out ++ c.unacked.map (fun x => (c.peer, x.2.1)) ∧ t.mem = st.mem) ∧
      (refTick st < c.lastAck + 72000 → exec (.postResendTimeout conn) st = .next st))

/-! ### The machine as a whole -/

/-- Memory is in its canonical form after every step from a state in which it is: a write of what an unlisted address reads as
removes the entry, and equal memories are equal lists. -/
def Obligations.StepKeepsMemory : Prop := ∀ st t : State, MemorySafe st → step st = .next t → MemorySafe t

/-- R28: no operation of a bundle slot writes a tick counter. -/
def Obligations.NoOperationWritesTicks : Prop :=
  ∀ (i : Instr) (w : SlotWord) (st t : State) (d : Nat), encode i = .slot w → exec i st = .next t →
    (dieOf t d).dtick = (dieOf st d).dtick ∧ (dieOf t d).atick = (dieOf st d).atick

/-- R16, R18, R20, R28, R292, R293, R334, R366, R401, R403: the reset values that the spec gives: the control registers of every
core, S level among them; the tick counts and link bits of every die; the slots and registers of the Postmaster; no key but those
that the boot makes, no lock. The boot is the first thing to happen (R398). Memory that nothing has written reads as zero, which is
the model's choice (log 2), and stands in its canonical form. -/
def Obligations.ResetState : Prop :=
  let s := State.reset
  MemorySafe s ∧ (∀ a, memByte s.mem a = 0) ∧ s.turn = .agenda ∧ s.agenda = [.powerOnBoot] ∧
  (∀ c, let r := (coreOf s c).csr
    r.xstat = 0x10000 ∧ lvlOf (coreOf s c) = .s ∧ r.xpc = 0 ∧ r.xcause = 0 ∧ r.xaddr = 0 ∧ r.grb = 0 ∧ r.vrb = 0 ∧ r.prb = 0 ∧
    r.trip = 0 ∧ r.stgw = 0 ∧ r.vstat = 0 ∧ r.mxstat = 0 ∧ r.ssstat = 0 ∧ r.devctl = 0x01000001 ∧
    (∀ j, tget 0 r.wpb j = 0 ∧ tget 0 r.wpm j = 0) ∧ r.savebase = 0 ∧ r.savelim = 0 ∧ r.lrtbase = 0 ∧ r.tileidx = 0 ∧
    r.phaseid = 0 ∧ r.launchid = 0 ∧ r.jobid = 0 ∧ r.asid = 0 ∧ r.keyid = 0 ∧ r.seed = 0 ∧ (coreOf s c).launch = none) ∧
  (∀ d, (dieOf s d).dtick = 0 ∧ (dieOf s d).up = 0 ∧ (dieOf s d).retry = 0 ∧ (dieOf s d).blost = 0) ∧
  (∀ q, (slotOf s q).state = .unmapped ∧ (slotOf s q).lastrec = none) ∧
  s.pm.agestep = 16 ∧ s.pm.prdelta = 4 ∧ s.pm.pbudget = 100000 ∧
  (∀ k, tget 0 s.host.feat k = 0 ∧ tget none s.host.mkeys k = none ∧ tget none s.host.pkeys k = none) ∧ s.host.locked = false
end

