-- ==== Sys2Proof/Laws/Tab.lean ====
section
/-! SUPPORT. Sparse tables and byte memory: a read after a write gives the value written, a write leaves every other key
alone, and every operation keeps the canonical form. -/

namespace Sys2Proof.Machine

/-! ### Reads and writes -/

@[simp] theorem tget_nil {α : Type} (d : α) (k : Nat) : tget d [] k = d := rfl

theorem tget_cons {α : Type} (d : α) (k' : Nat) (v : α) (t : Tab α) (k : Nat) :
    tget d ((k', v) :: t) k = if k' = k then v else tget d t k := rfl

@[simp] theorem tget_terase_same {α : Type} (d : α) (t : Tab α) (k : Nat) : tget d (terase t k) k = d := by
  induction t with
  | nil => rfl
  | cons x t ih =>
    obtain ⟨a, b⟩ := x
    simp only [terase]
    split
    · exact ih
    · rename_i hne
      rw [tget_cons, if_neg hne]
      exact ih

theorem tget_terase_other {α : Type} (d : α) (t : Tab α) {k j : Nat} (h : j ≠ k) :
    tget d (terase t k) j = tget d t j := by
  induction t with
  | nil => rfl
  | cons x t ih =>
    obtain ⟨k', v⟩ := x
    simp only [terase]
    split
    · subst_vars; simp [ih, tget_cons, Ne.symm h]
    · simp [tget_cons, ih]

theorem tget_tinsert_same {α : Type} (d : α) (t : Tab α) (k : Nat) (v : α) (h : ∀ x ∈ t, x.1 ≠ k) :
    tget d (tinsert t k v) k = v := by
  induction t with
  | nil => simp [tinsert, tget_cons]
  | cons x t ih =>
    obtain ⟨k', v'⟩ := x
    simp only [List.mem_cons, forall_eq_or_imp] at h
    simp only [tinsert]
    split
    · simp [tget_cons]
    · simp [tget_cons, h.1, ih h.2]

theorem tget_tinsert_other {α : Type} (d : α) (t : Tab α) {k j : Nat} (v : α) (h : j ≠ k) :
    tget d (tinsert t k v) j = tget d t j := by
  induction t with
  | nil => simp [tinsert, tget_cons, Ne.symm h]
  | cons x t ih =>
    obtain ⟨k', v'⟩ := x
    simp only [tinsert]
    split
    · simp [tget_cons, Ne.symm h]
    · simp [tget_cons, ih]

theorem terase_keys {α : Type} (t : Tab α) (k : Nat) : ∀ x ∈ terase t k, x.1 ≠ k := by
  induction t with
  | nil => simp [terase]
  | cons x t ih =>
    simp only [terase]
    split
    · exact ih
    · simpa using ⟨‹_›, by simpa using ih⟩

@[simp] theorem tget_tset_same {α : Type} [DecidableEq α] (d : α) (t : Tab α) (k : Nat) (v : α) :
    tget d (tset d t k v) k = v := by
  unfold tset
  split
  · simp [*]
  · exact tget_tinsert_same d _ k v (terase_keys t k)

theorem tget_tset_other {α : Type} [DecidableEq α] (d : α) (t : Tab α) {k j : Nat} (v : α) (h : j ≠ k) :
    tget d (tset d t k v) j = tget d t j := by
  unfold tset
  split
  · exact tget_terase_other d t h
  · rw [tget_tinsert_other d _ v h, tget_terase_other d t h]

theorem tget_tset {α : Type} [DecidableEq α] (d : α) (t : Tab α) (k j : Nat) (v : α) :
    tget d (tset d t k v) j = if j = k then v else tget d t j := by
  split
  · subst_vars; simp
  · exact tget_tset_other d t v ‹_›

/-! ### The canonical form -/

theorem tabWfFrom_mono {α : Type} [DecidableEq α] (d : α) {t : Tab α} {lo lo' : Nat} (h : lo' ≤ lo)
    (w : tabWfFrom d lo t = true) : tabWfFrom d lo' t = true := by
  cases t with
  | nil => rfl
  | cons x t =>
    obtain ⟨k, v⟩ := x
    simp only [tabWfFrom, Bool.and_eq_true, decide_eq_true_eq] at w ⊢
    exact ⟨⟨by omega, w.1.2⟩, w.2⟩

theorem tabWfFrom_terase {α : Type} [DecidableEq α] (d : α) (t : Tab α) (k lo : Nat) (w : tabWfFrom d lo t = true) :
    tabWfFrom d lo (terase t k) = true := by
  induction t generalizing lo with
  | nil => rfl
  | cons x t ih =>
    obtain ⟨k', v⟩ := x
    simp only [tabWfFrom, Bool.and_eq_true, decide_eq_true_eq] at w
    simp only [terase]
    split
    · exact tabWfFrom_mono d (by omega) (ih (k' + 1) w.2)
    · simp only [tabWfFrom, Bool.and_eq_true, decide_eq_true_eq]
      exact ⟨w.1, ih (k' + 1) w.2⟩

theorem tabWfFrom_tinsert {α : Type} [DecidableEq α] (d : α) (t : Tab α) (k lo : Nat) (v : α) (hv : v ≠ d)
    (hk : ∀ x ∈ t, x.1 ≠ k) (hl : lo ≤ k) (w : tabWfFrom d lo t = true) : tabWfFrom d lo (tinsert t k v) = true := by
  induction t generalizing lo with
  | nil => simp [tinsert, tabWfFrom, hv, hl]
  | cons x t ih =>
    obtain ⟨k', v'⟩ := x
    simp only [List.mem_cons, forall_eq_or_imp] at hk
    simp only [tabWfFrom, Bool.and_eq_true, decide_eq_true_eq] at w
    simp only [tinsert]
    split
    · simp only [tabWfFrom, Bool.and_eq_true, decide_eq_true_eq]
      exact ⟨⟨hl, hv⟩, ⟨by omega, w.1.2⟩, w.2⟩
    · simp only [tabWfFrom, Bool.and_eq_true, decide_eq_true_eq]
      exact ⟨w.1, ih (k' + 1) hk.2 (by have := hk.1; omega) w.2⟩

/-- A write keeps the canonical form of a table. -/
theorem tabWf_tset {α : Type} [DecidableEq α] (d : α) (t : Tab α) (k : Nat) (v : α) (w : tabWf d t = true) :
    tabWf d (tset d t k v) = true := by
  unfold tset tabWf at *
  split
  · exact tabWfFrom_terase d t k 0 w
  · exact tabWfFrom_tinsert d _ k 0 v ‹_› (terase_keys t k) (by omega) (tabWfFrom_terase d t k 0 w)

/-- A change of one entry keeps the canonical form of a table. -/
theorem tabWf_tmod {α : Type} [DecidableEq α] (d : α) (t : Tab α) (k : Nat) (f : α → α) (w : tabWf d t = true) :
    tabWf d (tmod d t k f) = true := tabWf_tset d t k _ w

/-! ### Splices -/

theorem tabWfFrom_filter {α : Type} [DecidableEq α] (d : α) (t : Tab α) (p : Nat × α → Bool) (lo : Nat)
    (w : tabWfFrom d lo t = true) : tabWfFrom d lo (t.filter p) = true := by
  induction t generalizing lo with
  | nil => rfl
  | cons x t ih =>
    obtain ⟨k, v⟩ := x
    simp only [tabWfFrom, Bool.and_eq_true, decide_eq_true_eq] at w
    simp only [List.filter_cons]
    split
    · simp only [tabWfFrom, Bool.and_eq_true, decide_eq_true_eq]
      exact ⟨w.1, ih (k + 1) w.2⟩
    · exact tabWfFrom_mono d (by omega) (ih (k + 1) w.2)

theorem tabWfFrom_append {α : Type} [DecidableEq α] (d : α) (t u : Tab α) (lo mid : Nat) (h : lo ≤ mid)
    (ht : tabWfFrom d lo t = true) (hb : ∀ x ∈ t, x.1 < mid) (hu : tabWfFrom d mid u = true) :
    tabWfFrom d lo (t ++ u) = true := by
  induction t generalizing lo with
  | nil => exact tabWfFrom_mono d h hu
  | cons x t ih =>
    obtain ⟨k, v⟩ := x
    simp only [List.mem_cons, forall_eq_or_imp] at hb
    simp only [tabWfFrom, Bool.and_eq_true, decide_eq_true_eq] at ht
    simp only [List.cons_append, tabWfFrom, Bool.and_eq_true, decide_eq_true_eq]
    exact ⟨ht.1, ih (k + 1) (by omega) ht.2 hb.2⟩

theorem tabWfFrom_above {α : Type} [DecidableEq α] (d : α) (t : Tab α) (lo hi : Nat) (w : tabWfFrom d lo t = true)
    (h : ∀ x ∈ t, hi ≤ x.1) : tabWfFrom d hi t = true := by
  cases t with
  | nil => rfl
  | cons x t =>
    obtain ⟨k, v⟩ := x
    simp only [List.mem_cons, forall_eq_or_imp] at h
    simp only [tabWfFrom, Bool.and_eq_true, decide_eq_true_eq] at w ⊢
    exact ⟨⟨h.1, w.1.2⟩, w.2⟩

/-- Replacing a window of a table by that of another keeps the canonical form. -/
theorem tabWf_tsplice {α : Type} [DecidableEq α] (d : α) (t new : Tab α) (lo n : Nat) (w : tabWf d t = true)
    (wn : tabWf d new = true) : tabWf d (tsplice t lo n new) = true := by
  unfold tabWf tsplice tslice at *
  rw [List.append_assoc]
  refine tabWfFrom_append d _ _ 0 lo (by omega) (tabWfFrom_filter d t _ 0 w) (by simp) ?_
  refine tabWfFrom_append d _ _ lo (lo + n) (by omega) ?_ (by simp) ?_
  · exact tabWfFrom_above d _ 0 lo (tabWfFrom_filter d new _ 0 wn) (by simp; omega)
  · exact tabWfFrom_above d _ 0 (lo + n) (tabWfFrom_filter d t _ 0 w) (by simp)

theorem tabWfFrom_tcanon {α : Type} [DecidableEq α] (d : α) (t : Tab α) (lo : Nat) : tabWfFrom d lo (tcanon d lo t) = true := by
  induction t generalizing lo with
  | nil => rfl
  | cons x t ih =>
    obtain ⟨k, v⟩ := x
    simp only [tcanon]
    split
    · simp only [tabWfFrom, Bool.and_eq_true, decide_eq_true_eq]
      exact ⟨‹_›, ih (k + 1)⟩
    · exact ih lo

/-- A table in canonical form is what `tcanon` leaves of it. -/
theorem tcanon_of_wf {α : Type} [DecidableEq α] (d : α) (t : Tab α) (lo : Nat) (w : tabWfFrom d lo t = true) :
    tcanon d lo t = t := by
  induction t generalizing lo with
  | nil => rfl
  | cons x t ih =>
    obtain ⟨k, v⟩ := x
    simp only [tabWfFrom, Bool.and_eq_true, decide_eq_true_eq] at w
    simp only [tcanon, w.1, and_self, ne_eq, not_false_eq_true, ↓reduceIte, ih (k + 1) w.2]

/-! ### Memory -/

/-- A byte read after a write of it gives the byte written. -/
@[simp] theorem memByte_memPut_same (m : Memory) (a : Nat) (b : Byte) : memByte (memPut m a b) a = b :=
  tget_tset_same 0 m a b

/-- A write of a byte leaves every other byte alone. -/
theorem memByte_memPut_other (m : Memory) {a x : Nat} (b : Byte) (h : x ≠ a) : memByte (memPut m a b) x = memByte m x :=
  tget_tset_other 0 m b h

/-- Writing a byte keeps the canonical form. -/
theorem memPut_wf (m : Memory) (a : Nat) (b : Byte) (w : m.wf = true) : (memPut m a b).wf = true := tabWf_tset 0 m a b w

/-- Writing bytes keeps the canonical form. -/
theorem memWrite_wf (m : Memory) (a : Nat) (l : List Byte) (w : m.wf = true) : (memWrite m a l).wf = true := by
  induction l generalizing m a with
  | nil => exact w
  | cons b l ih => exact ih _ _ (memPut_wf m a b w)

/-- A write of bytes leaves every byte outside them alone. -/
theorem memByte_memWrite_other (m : Memory) (a : Nat) (l : List Byte) {x : Nat} (h : x < a ∨ a + l.length ≤ x) :
    memByte (memWrite m a l) x = memByte m x := by
  induction l generalizing m a with
  | nil => rfl
  | cons b l ih =>
    simp only [List.length_cons] at h
    rw [memWrite, ih _ _ (by omega), memByte_memPut_other m b (by omega)]

/-- A byte of a write reads as written. -/
theorem memByte_memWrite_same (m : Memory) (a : Nat) (l : List Byte) {i : Nat} (h : i < l.length) :
    memByte (memWrite m a l) (a + i) = l[i] := by
  induction l generalizing m a i with
  | nil => simp at h
  | cons b l ih =>
    cases i with
    | zero => rw [memWrite, memByte_memWrite_other _ _ _ (by omega)]; simp
    | succ i =>
      rw [memWrite, show a + (i + 1) = a + 1 + i by omega, ih _ _ (by simpa using h)]
      simp

theorem bytesTab_wf_from (a j : Nat) (l : List Byte) :
    tabWfFrom (0 : Byte) (a + j) ((l.zipIdx j).filterMap fun x => if x.1 = 0 then none else some (a + x.2, x.1)) = true := by
  induction l generalizing j with
  | nil => rfl
  | cons b l ih =>
    simp only [List.zipIdx_cons, List.filterMap_cons]
    split
    · exact tabWfFrom_mono 0 (by omega) (ih (j + 1))
    · rename_i y hy
      split at hy
      · simp at hy
      · simp only [Option.some.injEq] at hy
        subst hy
        simp only [tabWfFrom, Bool.and_eq_true, decide_eq_true_eq]
        exact ⟨⟨by omega, by assumption⟩, ih (j + 1)⟩

/-- Writing a long run of bytes keeps the canonical form. -/
theorem memBlit_wf (m : Memory) (a : Nat) (l : List Byte) (w : m.wf = true) : (memBlit m a l).wf = true :=
  tabWf_tsplice 0 m _ a l.length w (tabWfFrom_mono 0 (by omega) (bytesTab_wf_from a 0 l))

end Sys2Proof.Machine
end

