-- ==== Sys2Proof/Laws/State.lean ====
section
/-! SUPPORT. The fields of the state after each update of it, and agents read after an agent is written. -/

namespace Sys2Proof.Machine

/-! ### After replacing a core -/

@[simp] theorem setCore_cur (st : State) (c : Nat) (k : Core) : (setCore st c k).cur = st.cur := rfl
@[simp] theorem setCore_turn (st : State) (c : Nat) (k : Core) : (setCore st c k).turn = st.turn := rfl
@[simp] theorem setCore_agenda (st : State) (c : Nat) (k : Core) : (setCore st c k).agenda = st.agenda := rfl
@[simp] theorem setCore_inbox (st : State) (c : Nat) (k : Core) : (setCore st c k).inbox = st.inbox := rfl
@[simp] theorem setCore_dies (st : State) (c : Nat) (k : Core) : (setCore st c k).dies = st.dies := rfl
@[simp] theorem setCore_mem (st : State) (c : Nat) (k : Core) : (setCore st c k).mem = st.mem := rfl
@[simp] theorem setCore_wlog (st : State) (c : Nat) (k : Core) : (setCore st c k).wlog = st.wlog := rfl
@[simp] theorem setCore_wseq (st : State) (c : Nat) (k : Core) : (setCore st c k).wseq = st.wseq := rfl
@[simp] theorem setCore_bars (st : State) (c : Nat) (k : Core) : (setCore st c k).bars = st.bars := rfl
@[simp] theorem setCore_barCmds (st : State) (c : Nat) (k : Core) : (setCore st c k).barCmds = st.barCmds := rfl
@[simp] theorem setCore_pm (st : State) (c : Nat) (k : Core) : (setCore st c k).pm = st.pm := rfl
@[simp] theorem setCore_host (st : State) (c : Nat) (k : Core) : (setCore st c k).host = st.host := rfl
@[simp] theorem setCore_post (st : State) (c : Nat) (k : Core) : (setCore st c k).post = st.post := rfl
@[simp] theorem setCore_stamp (st : State) (c : Nat) (k : Core) : (setCore st c k).stamp = st.stamp := rfl
@[simp] theorem setCore_tickStamp (st : State) (c : Nat) (k : Core) : (setCore st c k).tickStamp = st.tickStamp := rfl
@[simp] theorem setCore_fresh (st : State) (c : Nat) (k : Core) : (setCore st c k).fresh = st.fresh := rfl

/-! ### After changing a core -/

@[simp] theorem modCore_cur (st : State) (c : Nat) (f : Core → Core) : (modCore st c f).cur = st.cur := rfl
@[simp] theorem modCore_turn (st : State) (c : Nat) (f : Core → Core) : (modCore st c f).turn = st.turn := rfl
@[simp] theorem modCore_agenda (st : State) (c : Nat) (f : Core → Core) : (modCore st c f).agenda = st.agenda := rfl
@[simp] theorem modCore_inbox (st : State) (c : Nat) (f : Core → Core) : (modCore st c f).inbox = st.inbox := rfl
@[simp] theorem modCore_dies (st : State) (c : Nat) (f : Core → Core) : (modCore st c f).dies = st.dies := rfl
@[simp] theorem modCore_mem (st : State) (c : Nat) (f : Core → Core) : (modCore st c f).mem = st.mem := rfl
@[simp] theorem modCore_wlog (st : State) (c : Nat) (f : Core → Core) : (modCore st c f).wlog = st.wlog := rfl
@[simp] theorem modCore_wseq (st : State) (c : Nat) (f : Core → Core) : (modCore st c f).wseq = st.wseq := rfl
@[simp] theorem modCore_bars (st : State) (c : Nat) (f : Core → Core) : (modCore st c f).bars = st.bars := rfl
@[simp] theorem modCore_barCmds (st : State) (c : Nat) (f : Core → Core) : (modCore st c f).barCmds = st.barCmds := rfl
@[simp] theorem modCore_pm (st : State) (c : Nat) (f : Core → Core) : (modCore st c f).pm = st.pm := rfl
@[simp] theorem modCore_host (st : State) (c : Nat) (f : Core → Core) : (modCore st c f).host = st.host := rfl
@[simp] theorem modCore_post (st : State) (c : Nat) (f : Core → Core) : (modCore st c f).post = st.post := rfl
@[simp] theorem modCore_stamp (st : State) (c : Nat) (f : Core → Core) : (modCore st c f).stamp = st.stamp := rfl
@[simp] theorem modCore_tickStamp (st : State) (c : Nat) (f : Core → Core) : (modCore st c f).tickStamp = st.tickStamp := rfl
@[simp] theorem modCore_fresh (st : State) (c : Nat) (f : Core → Core) : (modCore st c f).fresh = st.fresh := rfl

/-! ### After replacing a die -/

@[simp] theorem setDie_cur (st : State) (d : Nat) (x : Die) : (setDie st d x).cur = st.cur := rfl
@[simp] theorem setDie_turn (st : State) (d : Nat) (x : Die) : (setDie st d x).turn = st.turn := rfl
@[simp] theorem setDie_agenda (st : State) (d : Nat) (x : Die) : (setDie st d x).agenda = st.agenda := rfl
@[simp] theorem setDie_inbox (st : State) (d : Nat) (x : Die) : (setDie st d x).inbox = st.inbox := rfl
@[simp] theorem setDie_cores (st : State) (d : Nat) (x : Die) : (setDie st d x).cores = st.cores := rfl
@[simp] theorem setDie_mem (st : State) (d : Nat) (x : Die) : (setDie st d x).mem = st.mem := rfl
@[simp] theorem setDie_wlog (st : State) (d : Nat) (x : Die) : (setDie st d x).wlog = st.wlog := rfl
@[simp] theorem setDie_wseq (st : State) (d : Nat) (x : Die) : (setDie st d x).wseq = st.wseq := rfl
@[simp] theorem setDie_bars (st : State) (d : Nat) (x : Die) : (setDie st d x).bars = st.bars := rfl
@[simp] theorem setDie_barCmds (st : State) (d : Nat) (x : Die) : (setDie st d x).barCmds = st.barCmds := rfl
@[simp] theorem setDie_pm (st : State) (d : Nat) (x : Die) : (setDie st d x).pm = st.pm := rfl
@[simp] theorem setDie_host (st : State) (d : Nat) (x : Die) : (setDie st d x).host = st.host := rfl
@[simp] theorem setDie_post (st : State) (d : Nat) (x : Die) : (setDie st d x).post = st.post := rfl
@[simp] theorem setDie_stamp (st : State) (d : Nat) (x : Die) : (setDie st d x).stamp = st.stamp := rfl
@[simp] theorem setDie_tickStamp (st : State) (d : Nat) (x : Die) : (setDie st d x).tickStamp = st.tickStamp := rfl
@[simp] theorem setDie_fresh (st : State) (d : Nat) (x : Die) : (setDie st d x).fresh = st.fresh := rfl

/-! ### After changing a die -/

@[simp] theorem modDie_cur (st : State) (d : Nat) (f : Die → Die) : (modDie st d f).cur = st.cur := rfl
@[simp] theorem modDie_turn (st : State) (d : Nat) (f : Die → Die) : (modDie st d f).turn = st.turn := rfl
@[simp] theorem modDie_agenda (st : State) (d : Nat) (f : Die → Die) : (modDie st d f).agenda = st.agenda := rfl
@[simp] theorem modDie_inbox (st : State) (d : Nat) (f : Die → Die) : (modDie st d f).inbox = st.inbox := rfl
@[simp] theorem modDie_cores (st : State) (d : Nat) (f : Die → Die) : (modDie st d f).cores = st.cores := rfl
@[simp] theorem modDie_mem (st : State) (d : Nat) (f : Die → Die) : (modDie st d f).mem = st.mem := rfl
@[simp] theorem modDie_wlog (st : State) (d : Nat) (f : Die → Die) : (modDie st d f).wlog = st.wlog := rfl
@[simp] theorem modDie_wseq (st : State) (d : Nat) (f : Die → Die) : (modDie st d f).wseq = st.wseq := rfl
@[simp] theorem modDie_bars (st : State) (d : Nat) (f : Die → Die) : (modDie st d f).bars = st.bars := rfl
@[simp] theorem modDie_barCmds (st : State) (d : Nat) (f : Die → Die) : (modDie st d f).barCmds = st.barCmds := rfl
@[simp] theorem modDie_pm (st : State) (d : Nat) (f : Die → Die) : (modDie st d f).pm = st.pm := rfl
@[simp] theorem modDie_host (st : State) (d : Nat) (f : Die → Die) : (modDie st d f).host = st.host := rfl
@[simp] theorem modDie_post (st : State) (d : Nat) (f : Die → Die) : (modDie st d f).post = st.post := rfl
@[simp] theorem modDie_stamp (st : State) (d : Nat) (f : Die → Die) : (modDie st d f).stamp = st.stamp := rfl
@[simp] theorem modDie_tickStamp (st : State) (d : Nat) (f : Die → Die) : (modDie st d f).tickStamp = st.tickStamp := rfl
@[simp] theorem modDie_fresh (st : State) (d : Nat) (f : Die → Die) : (modDie st d f).fresh = st.fresh := rfl

/-! ### After changing a queue slot -/

@[simp] theorem modSlot_cur (st : State) (q : Nat) (f : Slot → Slot) : (modSlot st q f).cur = st.cur := rfl
@[simp] theorem modSlot_turn (st : State) (q : Nat) (f : Slot → Slot) : (modSlot st q f).turn = st.turn := rfl
@[simp] theorem modSlot_agenda (st : State) (q : Nat) (f : Slot → Slot) : (modSlot st q f).agenda = st.agenda := rfl
@[simp] theorem modSlot_inbox (st : State) (q : Nat) (f : Slot → Slot) : (modSlot st q f).inbox = st.inbox := rfl
@[simp] theorem modSlot_cores (st : State) (q : Nat) (f : Slot → Slot) : (modSlot st q f).cores = st.cores := rfl
@[simp] theorem modSlot_dies (st : State) (q : Nat) (f : Slot → Slot) : (modSlot st q f).dies = st.dies := rfl
@[simp] theorem modSlot_mem (st : State) (q : Nat) (f : Slot → Slot) : (modSlot st q f).mem = st.mem := rfl
@[simp] theorem modSlot_wlog (st : State) (q : Nat) (f : Slot → Slot) : (modSlot st q f).wlog = st.wlog := rfl
@[simp] theorem modSlot_wseq (st : State) (q : Nat) (f : Slot → Slot) : (modSlot st q f).wseq = st.wseq := rfl
@[simp] theorem modSlot_bars (st : State) (q : Nat) (f : Slot → Slot) : (modSlot st q f).bars = st.bars := rfl
@[simp] theorem modSlot_barCmds (st : State) (q : Nat) (f : Slot → Slot) : (modSlot st q f).barCmds = st.barCmds := rfl
@[simp] theorem modSlot_host (st : State) (q : Nat) (f : Slot → Slot) : (modSlot st q f).host = st.host := rfl
@[simp] theorem modSlot_post (st : State) (q : Nat) (f : Slot → Slot) : (modSlot st q f).post = st.post := rfl
@[simp] theorem modSlot_stamp (st : State) (q : Nat) (f : Slot → Slot) : (modSlot st q f).stamp = st.stamp := rfl
@[simp] theorem modSlot_tickStamp (st : State) (q : Nat) (f : Slot → Slot) : (modSlot st q f).tickStamp = st.tickStamp := rfl
@[simp] theorem modSlot_fresh (st : State) (q : Nat) (f : Slot → Slot) : (modSlot st q f).fresh = st.fresh := rfl

/-! ### After a fresh stamp -/

@[simp] theorem nextStamp_cur (st : State) : (nextStamp st).cur = st.cur := rfl
@[simp] theorem nextStamp_turn (st : State) : (nextStamp st).turn = st.turn := rfl
@[simp] theorem nextStamp_agenda (st : State) : (nextStamp st).agenda = st.agenda := rfl
@[simp] theorem nextStamp_inbox (st : State) : (nextStamp st).inbox = st.inbox := rfl
@[simp] theorem nextStamp_cores (st : State) : (nextStamp st).cores = st.cores := rfl
@[simp] theorem nextStamp_dies (st : State) : (nextStamp st).dies = st.dies := rfl
@[simp] theorem nextStamp_mem (st : State) : (nextStamp st).mem = st.mem := rfl
@[simp] theorem nextStamp_wlog (st : State) : (nextStamp st).wlog = st.wlog := rfl
@[simp] theorem nextStamp_wseq (st : State) : (nextStamp st).wseq = st.wseq := rfl
@[simp] theorem nextStamp_bars (st : State) : (nextStamp st).bars = st.bars := rfl
@[simp] theorem nextStamp_barCmds (st : State) : (nextStamp st).barCmds = st.barCmds := rfl
@[simp] theorem nextStamp_pm (st : State) : (nextStamp st).pm = st.pm := rfl
@[simp] theorem nextStamp_host (st : State) : (nextStamp st).host = st.host := rfl
@[simp] theorem nextStamp_post (st : State) : (nextStamp st).post = st.post := rfl
@[simp] theorem nextStamp_tickStamp (st : State) : (nextStamp st).tickStamp = st.tickStamp := rfl
@[simp] theorem nextStamp_fresh (st : State) : (nextStamp st).fresh = st.fresh := rfl

/-! ### After a report -/

@[simp] theorem report_cur (st : State) (r : Report) : (report st r).cur = st.cur := rfl
@[simp] theorem report_turn (st : State) (r : Report) : (report st r).turn = st.turn := rfl
@[simp] theorem report_agenda (st : State) (r : Report) : (report st r).agenda = st.agenda := rfl
@[simp] theorem report_inbox (st : State) (r : Report) : (report st r).inbox = st.inbox := rfl
@[simp] theorem report_cores (st : State) (r : Report) : (report st r).cores = st.cores := rfl
@[simp] theorem report_dies (st : State) (r : Report) : (report st r).dies = st.dies := rfl
@[simp] theorem report_mem (st : State) (r : Report) : (report st r).mem = st.mem := rfl
@[simp] theorem report_wlog (st : State) (r : Report) : (report st r).wlog = st.wlog := rfl
@[simp] theorem report_wseq (st : State) (r : Report) : (report st r).wseq = st.wseq := rfl
@[simp] theorem report_bars (st : State) (r : Report) : (report st r).bars = st.bars := rfl
@[simp] theorem report_barCmds (st : State) (r : Report) : (report st r).barCmds = st.barCmds := rfl
@[simp] theorem report_pm (st : State) (r : Report) : (report st r).pm = st.pm := rfl
@[simp] theorem report_post (st : State) (r : Report) : (report st r).post = st.post := rfl
@[simp] theorem report_stamp (st : State) (r : Report) : (report st r).stamp = st.stamp := rfl
@[simp] theorem report_tickStamp (st : State) (r : Report) : (report st r).tickStamp = st.tickStamp := rfl
@[simp] theorem report_fresh (st : State) (r : Report) : (report st r).fresh = st.fresh := rfl

@[simp] theorem nextStamp_stamp (st : State) : (nextStamp st).stamp = st.stamp + 1 := rfl

/-! ### Agents read after a write -/

theorem modCore_eq (st : State) (c : Nat) (f : Core → Core) : modCore st c f = setCore st c (f (coreOf st c)) := rfl

@[simp] theorem coreOf_setCore_same (st : State) (c : Nat) (k : Core) : coreOf (setCore st c k) c = k :=
  tget_tset_same _ _ _ _

theorem coreOf_setCore_other (st : State) {c o : Nat} (k : Core) (h : o ≠ c) : coreOf (setCore st c k) o = coreOf st o :=
  tget_tset_other _ _ _ h

@[simp] theorem coreOf_modCore_same (st : State) (c : Nat) (f : Core → Core) :
    coreOf (modCore st c f) c = f (coreOf st c) := tget_tset_same _ _ _ _

theorem coreOf_modCore_other (st : State) {c o : Nat} (f : Core → Core) (h : o ≠ c) :
    coreOf (modCore st c f) o = coreOf st o := tget_tset_other _ _ _ h

@[simp] theorem coreOf_setDie (st : State) (d : Nat) (x : Die) (c : Nat) : coreOf (setDie st d x) c = coreOf st c := rfl

@[simp] theorem coreOf_modDie (st : State) (d : Nat) (f : Die → Die) (c : Nat) : coreOf (modDie st d f) c = coreOf st c := rfl

@[simp] theorem coreOf_modSlot (st : State) (q : Nat) (f : Slot → Slot) (c : Nat) :
    coreOf (modSlot st q f) c = coreOf st c := rfl

@[simp] theorem coreOf_nextStamp (st : State) (c : Nat) : coreOf (nextStamp st) c = coreOf st c := rfl

@[simp] theorem coreOf_report (st : State) (r : Report) (c : Nat) : coreOf (report st r) c = coreOf st c := rfl

@[simp] theorem dieOf_setDie_same (st : State) (d : Nat) (x : Die) : dieOf (setDie st d x) d = x := tget_tset_same _ _ _ _

theorem dieOf_setDie_other (st : State) {d e : Nat} (x : Die) (h : e ≠ d) : dieOf (setDie st d x) e = dieOf st e :=
  tget_tset_other _ _ _ h

@[simp] theorem dieOf_modDie_same (st : State) (d : Nat) (f : Die → Die) : dieOf (modDie st d f) d = f (dieOf st d) :=
  tget_tset_same _ _ _ _

theorem dieOf_modDie_other (st : State) {d e : Nat} (f : Die → Die) (h : e ≠ d) : dieOf (modDie st d f) e = dieOf st e :=
  tget_tset_other _ _ _ h

@[simp] theorem dieOf_setCore (st : State) (c : Nat) (k : Core) (d : Nat) : dieOf (setCore st c k) d = dieOf st d := rfl

@[simp] theorem dieOf_modCore (st : State) (c : Nat) (f : Core → Core) (d : Nat) : dieOf (modCore st c f) d = dieOf st d := rfl

@[simp] theorem dieOf_modSlot (st : State) (q : Nat) (f : Slot → Slot) (d : Nat) :
    dieOf (modSlot st q f) d = dieOf st d := rfl

@[simp] theorem slotOf_modSlot_same (st : State) (q : Nat) (f : Slot → Slot) : slotOf (modSlot st q f) q = f (slotOf st q) :=
  tget_tset_same _ _ _ _

theorem slotOf_modSlot_other (st : State) {q r : Nat} (f : Slot → Slot) (h : r ≠ q) :
    slotOf (modSlot st q f) r = slotOf st r := tget_tset_other _ _ _ h

@[simp] theorem slotOf_modCore (st : State) (c : Nat) (f : Core → Core) (q : Nat) :
    slotOf (modCore st c f) q = slotOf st q := rfl

@[simp] theorem slotOf_modDie (st : State) (d : Nat) (f : Die → Die) (q : Nat) :
    slotOf (modDie st d f) q = slotOf st q := rfl

/-- A core written twice holds the second value. -/
theorem tset_tset {α : Type} [DecidableEq α] (d : α) (t : Tab α) (k : Nat) (v w : α) :
    tget d (tset d (tset d t k v) k w) = tget d (tset d t k w) := by
  funext j
  simp only [tget_tset]
  split <;> rfl

/-! ### Memory -/

@[simp] theorem reset_mem_wf : State.reset.mem.wf = true := rfl

theorem setCore_cores_wf (st : State) (c : Nat) (k : Core) (w : tabWf Core.reset st.cores = true) :
    tabWf Core.reset (setCore st c k).cores = true := tabWf_tset _ _ _ _ w

theorem modCore_cores_wf (st : State) (c : Nat) (f : Core → Core) (w : tabWf Core.reset st.cores = true) :
    tabWf Core.reset (modCore st c f).cores = true := tabWf_tset _ _ _ _ w

theorem setDie_dies_wf (st : State) (d : Nat) (x : Die) (w : tabWf Die.reset st.dies = true) :
    tabWf Die.reset (setDie st d x).dies = true := tabWf_tset _ _ _ _ w

end Sys2Proof.Machine
end

