-- ==== Sys2Proof/Laws/Ops.lean ====
section
/-! SUPPORT. What the shared operations over memory and the exception entry do, each said once. -/

namespace Sys2Proof.Machine

/-! ### Writes that perform (R267) -/

/-- The marks that a linear write leaves touch one core's views, or nothing. -/
theorem markLinear_cases (st : State) (c addr n seq : Nat) (src : WriteSrc) :
    markLinear st c addr n seq src = st ∨
      ∃ o f, markLinear st c addr n seq src = modCore st o f ∧ ∀ k, ∃ v, f k = { k with views := v } ∧ v.swz = k.views.swz := by
  unfold markLinear
  split
  · refine .inr ⟨_, _, rfl, fun k => ?_⟩
    dsimp only
    repeat' split
    all_goals exact ⟨_, rfl, rfl⟩
  · exact .inl rfl

@[simp] theorem markLinear_mem (st : State) (c addr n seq : Nat) (src : WriteSrc) : (markLinear st c addr n seq src).mem = st.mem := by
  rcases markLinear_cases st c addr n seq src with h | ⟨o, f, h, -⟩ <;> rw [h]; rfl

@[simp] theorem markLinear_dies (st : State) (c addr n seq : Nat) (src : WriteSrc) : (markLinear st c addr n seq src).dies = st.dies := by
  rcases markLinear_cases st c addr n seq src with h | ⟨o, f, h, -⟩ <;> rw [h]; rfl

/-- Every core keeps all but its views. -/
theorem markLinear_core (st : State) (c addr n seq : Nat) (src : WriteSrc) (x : Nat) :
    ∃ v, coreOf (markLinear st c addr n seq src) x = { coreOf st x with views := v } ∧ v.swz = (coreOf st x).views.swz := by
  rcases markLinear_cases st c addr n seq src with h | ⟨o, f, h, hf⟩
  · rw [h]; exact ⟨_, rfl, rfl⟩
  · rw [h]
    by_cases e : x = o
    · subst e; rw [coreOf_modCore_same]; exact hf _
    · rw [coreOf_modCore_other _ _ e]; exact ⟨_, rfl, rfl⟩

/-- A plain write performs: memory holds its bytes, and the coherence order has one more record. -/
theorem perform_mem (st : State) (c addr : Nat) (bytes : List Byte) (issued : Nat) (seen : List (Nat × Nat)) (pub : Option Scope)
    (src : WriteSrc) (cmd : Option Nat) : (perform st c addr bytes issued seen pub src cmd).mem = memWrite st.mem addr bytes := by
  simp only [perform, markLinear_mem]

theorem perform_dies (st : State) (c addr : Nat) (bytes : List Byte) (issued : Nat) (seen : List (Nat × Nat)) (pub : Option Scope)
    (src : WriteSrc) (cmd : Option Nat) : (perform st c addr bytes issued seen pub src cmd).dies = st.dies := by
  simp only [perform, markLinear_dies]

theorem perform_memory_wf (st : State) (c addr : Nat) (bytes : List Byte) (issued : Nat) (seen : List (Nat × Nat)) (pub : Option Scope)
    (src : WriteSrc) (cmd : Option Nat) (h : st.mem.wf = true) : (perform st c addr bytes issued seen pub src cmd).mem.wf = true := by
  rw [perform_mem]; exact memWrite_wf _ _ _ h

/-- Every core keeps all but its views. -/
theorem perform_core (st : State) (c addr : Nat) (bytes : List Byte) (issued : Nat) (seen : List (Nat × Nat)) (pub : Option Scope)
    (src : WriteSrc) (cmd : Option Nat) (x : Nat) :
    ∃ v, coreOf (perform st c addr bytes issued seen pub src cmd) x = { coreOf st x with views := v } ∧ v.swz = (coreOf st x).views.swz := by
  unfold perform
  exact markLinear_core _ c addr bytes.length st.wseq src x

/-! ### Records of the trace unit and ticks lost (R351, R355) -/

/-- A trace record reaches the trace unit of the core's die, or is not taken; nothing else changes. -/
theorem traceRec_cases (st : State) (c kind src dst data : Nat) :
    traceRec st c kind src dst data = st ∨ ∃ g : Die → DieDbg, traceRec st c kind src dst data = modDie st (dieIx c) fun x => { x with dbg := g x } := by
  unfold traceRec
  dsimp only
  by_cases h : bit (coreOf st c).csr.devctl.toNat 3
  · exact .inr ⟨_, by rw [if_pos h]⟩
  · exact .inl (by rw [if_neg h])

@[simp] theorem traceRec_mem (st : State) (c kind src dst data : Nat) : (traceRec st c kind src dst data).mem = st.mem := by
  rcases traceRec_cases st c kind src dst data with h | ⟨g, h⟩ <;> rw [h]; rfl

@[simp] theorem traceRec_cores (st : State) (c kind src dst data : Nat) : (traceRec st c kind src dst data).cores = st.cores := by
  rcases traceRec_cases st c kind src dst data with h | ⟨g, h⟩ <;> rw [h]; rfl

@[simp] theorem coreOf_traceRec (st : State) (c kind src dst data x : Nat) : coreOf (traceRec st c kind src dst data) x = coreOf st x :=
  congrArg (fun t => tget Core.reset t x) (traceRec_cores st c kind src dst data)

/-- A postmark adds the ticks lost to DEVT and DEV of the core and may leave a record; nothing else changes. -/
theorem postmark_cases (st : State) (c bundle slot cause ticks : Nat) :
    ∃ s, (s = st ∨ s = loseTicks st c ticks) ∧
      (postmark st c bundle slot cause ticks = s ∨
        ∃ g : Die → DieDbg, postmark st c bundle slot cause ticks = modDie s (dieIx c) fun x => { x with dbg := g x }) := by
  refine ⟨if cause = 5 then st else loseTicks st c ticks, ?_, ?_⟩
  · split
    · exact .inl rfl
    · exact .inr rfl
  · unfold postmark
    dsimp only
    by_cases h : (cause = 5 ∨ 0 < ticks) ∧ bit (coreOf st c).csr.devctl.toNat 2
    · exact .inr ⟨_, by rw [if_pos h]⟩
    · exact .inl (by rw [if_neg h])

@[simp] theorem postmark_mem (st : State) (c bundle slot cause ticks : Nat) : (postmark st c bundle slot cause ticks).mem = st.mem := by
  obtain ⟨s, hs, h⟩ := postmark_cases st c bundle slot cause ticks
  have e : s.mem = st.mem := by rcases hs with rfl | rfl <;> rfl
  rcases h with h | ⟨g, h⟩ <;> rw [h]
  · exact e
  · exact e

/-- The core keeps all but DEVT and DEV. -/
theorem coreOf_postmark (st : State) (c bundle slot cause ticks : Nat) :
    ∃ a b, coreOf (postmark st c bundle slot cause ticks) c = { coreOf st c with devt := a, dev := b } := by
  obtain ⟨s, hs, h⟩ := postmark_cases st c bundle slot cause ticks
  have e : ∃ a b, coreOf s c = { coreOf st c with devt := a, dev := b } := by
    rcases hs with rfl | rfl
    · exact ⟨_, _, rfl⟩
    · exact ⟨_, _, coreOf_modCore_same _ _ _⟩
  rcases h with h | ⟨g, h⟩ <;> rw [h]
  · exact e
  · rw [coreOf_modDie]; exact e

theorem coreOf_postmark_other (st : State) (c bundle slot cause ticks : Nat) {x : Nat} (hx : x ≠ c) :
    coreOf (postmark st c bundle slot cause ticks) x = coreOf st x := by
  obtain ⟨s, hs, h⟩ := postmark_cases st c bundle slot cause ticks
  have e : coreOf s x = coreOf st x := by
    rcases hs with rfl | rfl
    · rfl
    · exact coreOf_modCore_other _ _ hx
  rcases h with h | ⟨g, h⟩ <;> rw [h]
  · exact e
  · rw [coreOf_modDie]; exact e

/-- A hold that ends leaves the core as it is but for the hold, DEVT and DEV. -/
theorem coreOf_chargeHold (st : State) (c : Nat) (h : (coreOf st c).held.isSome = true) :
    ∃ a b, coreOf (chargeHold st c) c = { coreOf st c with held := none, devt := a, dev := b } := by
  unfold chargeHold
  dsimp only
  cases e : (coreOf st c).held with
  | none => simp [e] at h
  | some x =>
    dsimp only
    have base : coreOf (modCore st c fun k => { k with held := none }) c = { coreOf st c with held := none } := coreOf_modCore_same _ _ _
    split
    · exact ⟨_, _, by unfold loseTicks; rw [coreOf_modCore_same, base]⟩
    split
    · exact ⟨_, _, base⟩
    · split
      · obtain ⟨a, b, hp⟩ := coreOf_postmark (modCore st c fun k => { k with held := none }) c (coreOf st c).pc.toNat x.slot
          (holdCode x.cause) ((coreOf st c).now - x.first - x.budget)
        exact ⟨a, b, by rw [hp, base]⟩
      · exact ⟨_, _, base⟩

theorem coreOf_chargeHold_other (st : State) (c : Nat) {x : Nat} (hx : x ≠ c) : coreOf (chargeHold st c) x = coreOf st x := by
  unfold chargeHold
  dsimp only
  cases (coreOf st c).held with
  | none => rfl
  | some y =>
    dsimp only
    split
    · unfold loseTicks; rw [coreOf_modCore_other _ _ hx, coreOf_modCore_other _ _ hx]
    split
    · exact coreOf_modCore_other _ _ hx
    · split
      · rw [coreOf_postmark_other _ _ _ _ _ _ hx, coreOf_modCore_other _ _ hx]
      · exact coreOf_modCore_other _ _ hx

@[simp] theorem chargeHold_mem (st : State) (c : Nat) : (chargeHold st c).mem = st.mem := by
  unfold chargeHold
  dsimp only
  cases (coreOf st c).held with
  | none => rfl
  | some y => dsimp only; split <;> (try split) <;> (try split) <;> simp [loseTicks]

/-! ### Taking an exception (R321, R327) -/

/-- The core as a trap finds it: its hold has ended. -/
theorem trapCore (st : State) (c : Nat) (k : Core) :
    ∃ a b, coreOf (if k.held.isSome then chargeHold (setCore st c k) c else setCore st c k) c = { k with held := none, devt := a, dev := b } := by
  split
  · rename_i h
    have := coreOf_chargeHold (setCore st c k) c (by rw [coreOf_setCore_same]; exact h)
    rwa [coreOf_setCore_same] at this
  · rename_i h
    rw [coreOf_setCore_same]
    have e : k.held = none := by simpa using h
    exact ⟨k.devt, k.dev, by cases k; simp_all⟩

/-- A cause that replays nothing and is no translation fault enters the stub of its code: the trap registers hold the stop and the
cause, the pc is the vector, the level is S, whether a WATCHX stub runs follows (R349), and of the rest of the core only the end of its hold shows. -/
theorem takeTrap_enters (st : State) (c : Nat) (k : Core) (s : Stop) (f : Cause) (hr : replayCode f.code = false) (h8 : f.code ≠ 8) :
    ∃ a b, coreOf (takeTrap st c k s f) c =
      { setTrap { k with held := none, devt := a, dev := b } s f with
        pc := BitVec.ofNat 14 (stubVector f.code), wxStub := f.code == 20 || (k.wxStub && lvlOf k == .s) } := by
  obtain ⟨a, b, h⟩ := trapCore st c k
  refine ⟨a, b, ?_⟩
  unfold takeTrap
  simp only [hr, h8, if_false, Bool.false_eq_true, coreOf_traceRec, coreOf_setCore_same, h, lvlOf]

/-- Translation faults park the core with its trap registers set (R327). -/
theorem takeTrap_parks (st : State) (c : Nat) (k : Core) (s : Stop) (f : Cause) (h8 : f.code = 8) :
    ∃ a b, coreOf (takeTrap st c k s f) c =
      { dueRow (setTrap { k with held := none, devt := a, dev := b } s f) with run := .parking, xlFault := [] } := by
  obtain ⟨a, b, h⟩ := trapCore st c k
  refine ⟨a, b, ?_⟩
  unfold takeTrap
  have hr : replayCode 8 = false := by decide
  simp only [h8, hr, if_true, if_false, Bool.false_eq_true, coreOf_setCore_same, h]

/-- The vector of a code lies in the protected partition (R14, R321). -/
theorem stubVector_range (code : Nat) (h : code < 1024) : 9898 ≤ stubVector code ∧ stubVector code ≤ 10921 := by
  unfold stubVector; omega

/-- An exception writes no memory. -/
@[simp] theorem takeTrap_mem (st : State) (c : Nat) (k : Core) (s : Stop) (f : Cause) : (takeTrap st c k s f).mem = st.mem := by
  have e : (if k.held.isSome then chargeHold (setCore st c k) c else setCore st c k).mem = st.mem := by split <;> simp
  unfold takeTrap
  dsimp only
  split
  · unfold requestReplay
    dsimp only
    split <;> simpa using e
  · split <;> simpa using e

/-- No other core sees it, unless the phase is to be replayed. -/
theorem coreOf_takeTrap_other (st : State) (c : Nat) (k : Core) (s : Stop) (f : Cause) {x : Nat} (hx : x ≠ c) :
    coreOf (takeTrap st c k s f) x = coreOf st x := by
  have e : coreOf (if k.held.isSome then chargeHold (setCore st c k) c else setCore st c k) x = coreOf st x := by
    split
    · rw [coreOf_chargeHold_other _ _ hx, coreOf_setCore_other _ _ hx]
    · exact coreOf_setCore_other _ _ hx
  unfold takeTrap
  dsimp only
  split
  · unfold requestReplay
    dsimp only
    split <;> simp only [coreOf_modSlot, coreOf_modCore_other _ _ hx, coreOf_report, e]
  · split
    · rw [coreOf_setCore_other _ _ hx, e]
    · rw [coreOf_traceRec, coreOf_setCore_other _ _ hx, e]

end Sys2Proof.Machine
end

