-- ==== Sys2Proof/Laws/Post.lean ====
section
/-! SUPPORT. A packet that carries the tag of its own header and payload is taken on its connection. -/

namespace Sys2Proof.Machine

/-- A field that ends within the first part of a record is that part's field. -/
theorem field_append (l t : List Byte) (a n : Nat) (h : a + n ≤ l.length) : field (l ++ t) a n = field l a n := by
  unfold field
  rw [List.drop_append_of_le_length (by omega), List.take_append_of_le_length (by rw [List.length_drop]; omega)]

theorem leBytes_length (n x : Nat) : (leBytes n x).length = n := by
  induction n generalizing x with
  | zero => rfl
  | succ n ih => simp [leBytes, ih]

theorem pktTag_length (key : BitVec 512) (conn psn ty : Nat) (l : List Byte) : (pktTag key conn psn ty l).length = 16 := by
  simp only [pktTag, gmac, beBytes, List.length_reverse, leBytes_length]

/-- A header and payload of a type, with the length that the header states. -/
def signable (ty : Nat) (l : List Byte) : Bool :=
  field l 0 1 == 1 && field l 1 1 == ty && decide (field l 2 2 < 1024) && decide (field l 12 4 ≤ 8192) && l.length == 32 + field l 12 4

/-- Such a packet with the tag under the connection's key is taken; its fields are those of the header. -/
theorem arrival_signed {st : State} {ty : Nat} {l : List Byte} {c : Conn} {key : BitVec 512} (hl : signable ty l = true)
    (hc : tget none st.post.conns (field l 4 4) = some c) (hs : c.kslot.toNat = field l 2 2) (hk : postKey st c.kslot = some key) :
    let p := l ++ pktTag key (field l 4 4) (field l 8 4) ty l
    arrival st ty p = .take (field l 4 4) c ∧ pktPsn p = field l 8 4 ∧ pktTgt p = field l 16 8 ∧ pktLen p = field l 12 4 := by
  intro p
  simp only [signable, Bool.and_eq_true, beq_iff_eq, decide_eq_true_eq] at hl
  obtain ⟨⟨⟨⟨h1, h2⟩, h3⟩, h4⟩, h5⟩ := hl
  have hf : ∀ a n, a + n ≤ 32 → field p a n = field l a n := fun a n h => field_append l _ a n (by omega)
  have hlen : pktLen p = field l 12 4 := hf 12 4 (by omega)
  have hpsn : pktPsn p = field l 8 4 := hf 8 4 (by omega)
  refine ⟨?_, hpsn, hf 16 8 (by omega), hlen⟩
  have hshape : pktShape ty p = true := by
    simp only [pktShape, hlen, hf 0 1 (by omega), hf 1 1 (by omega), hf 2 2 (by omega), h1, h2, h3, h4, Bool.and_eq_true, beq_iff_eq,
      decide_eq_true_eq, true_and]
    simp only [p, List.length_append, pktTag_length, h5]; omega
  have htake : p.take (32 + pktLen p) = l := by rw [hlen, ← h5]; exact List.take_left
  have hdrop : p.drop (32 + pktLen p) = pktTag key (field l 4 4) (field l 8 4) ty l := by rw [hlen, ← h5]; exact List.drop_left
  simp only [arrival, hshape, hf 4 4 (by omega), hf 2 2 (by omega), hc, hs, hk, hpsn, htake, hdrop, Bool.not_true, Bool.false_eq_true,
    if_false, ne_eq, not_true_eq_false, if_true]

end Sys2Proof.Machine
end

