-- ==== Sys2Proof/Laws/Slot.lean ====
section
/-! SUPPORT. One slot of a bundle: a disabled slot commits with no effect, a ready slot whose checks pass commits with its
effect, and a check that fails decides what happens instead. -/

namespace Sys2Proof.Machine

@[simp] theorem operands_core (st : State) (u s : Nat) : (operands st u s).core = st.cur := by
  unfold operands argsOf; dsimp only; split <;> rfl

@[simp] theorem operands_lvl (st : State) (u s : Nat) : (operands st u s).lvl = lvlOf (slotCore st) := by
  unfold operands argsOf; dsimp only; split <;> rfl

theorem sourceCheck_ok {st : State} {s : Nat} (h : SourceReadable st s) :
    sourceCheck (slotCore st) (slotIssue st) s = .ok := by
  obtain ⟨hl, hp⟩ := h
  unfold sourceCheck
  split
  · rename_i c; have := hl c.1; omega
  · split
    · rename_i c
      rcases hp c.1 with h | h
      · simp only [popHeld, Bool.or_eq_true] at h
        rcases h with h | h
        · simp [List.any_eq_true] at h
          simp only [Option.isNone_iff_eq_none, List.find?_eq_none] at c
          obtain ⟨x, hx, he⟩ := h
          exact absurd (by simp [he]) (c.2.1 x hx)
        · simp [List.any_eq_true] at h
          simp only [Option.isNone_iff_eq_none, List.find?_eq_none] at c
          obtain ⟨v, hx⟩ := h
          exact absurd (by simp) (c.2.2 _ hx)
      · cases hq : (ldqOf (slotCore st)).head? with
        | none => simp [hq] at h
        | some e => simp only [hq, Option.any_some] at h; simp [h]
    · rfl

theorem settled_of_notHeld {st : State} {x : Check} (hn : stopHere (slotIssue st) = none) (h : NotHeld st x) :
    settled (slotIssue st) x = .ok := by
  rcases h with rfl | ⟨⟨c, b, rfl⟩, hs⟩
  · simp [settled, hn]
  · simp [settled, hn, hs]

/-- A fault that a check finds stays. -/
theorem settled_fault {i : Issue} (hn : stopHere i = none) (code detail xaddr : Nat) :
    settled i (.fault code detail xaddr) = .fault code detail xaddr := by
  simp [settled, hn]

/-- What the scan has found at the slot stops it there, whatever its check now says (R63). -/
theorem settled_stop {i : Issue} {y : Check} (h : stopHere i = some y) (x : Check) : settled i x = y := by
  simp [settled, h]

/-- A disabled slot commits with no effect (R64). -/
theorem runSlot_disabled (st : State) (n : BitVec 1) (g : BitVec 4) (s d : Nat) (chk : Core → Issue → Val → Check)
    (act : State → Core → Issue → Val → State) (h : slotEnabled (slotCore st) (slotIssue st) n g = false) :
    runSlot st n g s d chk act =
      commitSlot (setCore st st.cur { slotCore st with issue := some (slotIssue st) }) (slotIssue st) (slotWidth s) [] := by
  unfold slotCore slotIssue slotCore at *
  simp only [runSlot, h, slotWidth, Bool.false_eq_true, if_false]

/-- A ready slot whose checks pass commits with its effect (R64, R65). -/
theorem runSlot_ready (st : State) (n : BitVec 1) (g : BitVec 4) (s d : Nat) (chk : Core → Issue → Val → Check)
    (act : State → Core → Issue → Val → State) (h : SlotReady st n g s)
    (hc : NotHeld st (chk (slotCore st) (slotIssue st) (sourceVal st s))) :
    runSlot st n g s d chk act =
      commitSlot (act (afterSource st s) (slotCore st) (slotIssue st) (sourceVal st s)) (slotIssue st) (slotWidth s)
        (writtenBy (slotCore st) d) := by
  have hs := sourceCheck_ok h.2.1
  have he := h.1
  have hn := settled_of_notHeld h.2.2 hc
  unfold afterSource slotWidth sourceVal slotIssue slotCore at *
  simp only [runSlot, he, hs, hn, Check.andThen, if_true]

/-- A ready slot whose checks fail stops or holds its bundle. -/
theorem runSlot_refused (st : State) (n : BitVec 1) (g : BitVec 4) (s d : Nat) (chk : Core → Issue → Val → Check)
    (act : State → Core → Issue → Val → State) (h : SlotReady st n g s)
    (hc : settled (slotIssue st) (chk (slotCore st) (slotIssue st) (sourceVal st s)) ≠ .ok) :
    runSlot st n g s d chk act =
      refuseSlot (setCore st st.cur { slotCore st with issue := some (slotIssue st) }) st.cur (slotIssue st) s d
        (settled (slotIssue st) (chk (slotCore st) (slotIssue st) (sourceVal st s))) := by
  have hs := sourceCheck_ok h.2.1
  have he := h.1
  unfold sourceVal slotIssue slotCore at *
  simp only [runSlot, he, hs, Check.andThen, if_true]

@[simp] theorem writtenBy_trigger (k : Core) (u low : Nat) : writtenBy k (0x100 + 64 * u + low) = [] := by
  simp only [writtenBy, show ¬ (0x100 + 64 * u + low < 0x100) by omega, if_false]

/-- A ready trigger whose checks pass commits with its effect (R10, R65). -/
theorem runTrigger_ready (t : Trigger) (low : Nat) (n : BitVec 1) (g : BitVec 4) (s : BitVec 9) (st : State)
    (h : SlotReady st n g s.toNat) (hc : NotHeld st (t.check st (operands st t.unit s.toNat))) :
    runTrigger t low n g s st =
      .next (afterTrigger st s.toNat t.unit fun x => t.act x (operands st t.unit s.toNat)) := by
  unfold runTrigger
  rw [runSlot_ready st n g s.toNat _ _ _ h hc, writtenBy_trigger]
  rfl

/-- A ready trigger that fails a check raises its fault at its slot (R65). -/
theorem runTrigger_fault (t : Trigger) (low : Nat) (n : BitVec 1) (g : BitVec 4) (s : BitVec 9) (st : State)
    (h : SlotReady st n g s.toNat) {code detail xaddr : Nat}
    (hc : t.check st (operands st t.unit s.toNat) = .fault code detail xaddr) :
    runTrigger t low n g s st =
      .next (slotFault (setCore st st.cur { slotCore st with issue := some (slotIssue st) }) st.cur (slotIssue st) s.toNat
        (0x100 + 64 * t.unit + low) code detail xaddr) := by
  unfold runTrigger
  have hc' : t.check st (argsOf st.cur (slotCore st) (slotIssue st) t.unit (sourceVal st s.toNat)) =
      .fault code detail xaddr := hc
  rw [runSlot_refused st n g s.toNat _ _ _ h (by rw [hc', settled_fault h.2.2]; simp)]
  simp only [hc', settled_fault h.2.2, refuseSlot]

/-- A disabled trigger commits with no effect (R64). -/
theorem runTrigger_disabled (t : Trigger) (low : Nat) (n : BitVec 1) (g : BitVec 4) (s : BitVec 9) (st : State)
    (h : slotEnabled (slotCore st) (slotIssue st) n g = false) :
    runTrigger t low n g s st =
      .next (commitSlot (setCore st st.cur { slotCore st with issue := some (slotIssue st) }) (slotIssue st)
        (slotWidth s.toNat) []) := by
  unfold runTrigger
  rw [runSlot_disabled st n g s.toNat _ _ _ h]

/-- A ready move writes its destination (R69). -/
theorem runMove_ready (n : BitVec 1) (g : BitVec 4) (s d : Nat) (st : State) (h : SlotReady st n g s) :
    runMove n g s d st =
      .next (commitSlot (modCore (afterSource st s) st.cur fun k => putDest k (slotIssue st) d (sourceVal st s))
        (slotIssue st) (slotWidth s) (writtenBy (slotCore st) d)) := by
  unfold runMove
  rw [runSlot_ready st n g s d _ _ h (.inl rfl)]
  rfl

/-- Every slot runs into a next state. -/
theorem runTrigger_next (t : Trigger) (low : Nat) (n : BitVec 1) (g : BitVec 4) (s : BitVec 9) (st : State) :
    ∃ u, runTrigger t low n g s st = .next u := ⟨_, rfl⟩

/-! ### The state after a trigger -/

theorem afterSource_cur (st : State) (s : Nat) : (afterSource st s).cur = st.cur := rfl

theorem coreOf_commitSlot_other (st : State) (i : Issue) (w : Nat) (l : List Nat) {c : Nat} (h : c ≠ st.cur) :
    coreOf (commitSlot st i w l) c = coreOf st c := coreOf_modCore_other _ _ h

@[simp] theorem commitSlot_mem (st : State) (i : Issue) (w : Nat) (l : List Nat) : (commitSlot st i w l).mem = st.mem := rfl

@[simp] theorem commitSlot_cur (st : State) (i : Issue) (w : Nat) (l : List Nat) : (commitSlot st i w l).cur = st.cur := rfl

/-- A slot that commits keeps everything of its core but the record of the bundle. -/
theorem coreOf_commitSlot (st : State) (i : Issue) (w : Nat) (l : List Nat) :
    coreOf (commitSlot st i w l) st.cur =
      { coreOf st st.cur with issue := some { (coreOf st st.cur).issue.getD i with
          slot := i.slot + w, done := doneBits i.done i.slot w, written := l ++ i.written } } :=
  coreOf_modCore_same _ _ _

end Sys2Proof.Machine
end

