-- ==== Sys2Proof/Laws/Units.lean ====
section
/-! SUPPORT. The operations of IA, VA and VX that only deliver a result: a ready one whose check passes puts its result in flight
to its port (R84), and lane by lane results are vectors and masks in the terms of the claims. -/

namespace Sys2Proof.Machine

/-- An IA operation puts its result in flight. -/
theorem iaOp_ready (u : BitVec 2) (lat : Nat) (f : Args → Word) (low : Nat) (n : BitVec 1) (g : BitVec 4) (s : BitVec 9) (st : State)
    (h : SlotReady st n g s.toNat) :
    runTrigger (iaOp u lat f) low n g s st = .next (afterTrigger st s.toNat (iaUnit u)
      (resultTo st (iaPort u) (.s (f (operands st (iaUnit u) s.toNat))) 0 lat)) := by
  rw [runTrigger_ready (iaOp u lat f) low n g s st h (.inl rfl)]
  simp only [iaOp, operands_core]
  rfl

/-- A VA operation that delivers a vector. -/
theorem vaOp_ready (u : BitVec 1) (lat : Nat) (chk : Args → Check) (f : State → Args → Vec × Flags8) (low : Nat) (n : BitVec 1)
    (g : BitVec 4) (s : BitVec 9) (st : State) (h : SlotReady st n g s.toNat) (hc : chk (operands st (vaUnit u) s.toNat) = .ok) :
    runTrigger (vaOp u lat chk f) low n g s st = .next (afterTrigger st s.toNat (vaUnit u) fun x =>
      let r := f x (operands st (vaUnit u) s.toNat)
      resultTo st (vaR u) (.v r.1) r.2 lat x) := by
  rw [runTrigger_ready (vaOp u lat chk f) low n g s st h (.inl hc)]
  simp only [vaOp, operands_core]
  rfl

/-- A VA operation that delivers a mask. -/
theorem vaMaskOp_ready (u : BitVec 1) (lat : Nat) (chk : Args → Check) (f : State → Args → Word × Flags8) (low : Nat) (n : BitVec 1)
    (g : BitVec 4) (s : BitVec 9) (st : State) (h : SlotReady st n g s.toNat) (hc : chk (operands st (vaUnit u) s.toNat) = .ok) :
    runTrigger (vaMaskOp u lat chk f) low n g s st = .next (afterTrigger st s.toNat (vaUnit u) fun x =>
      let r := f x (operands st (vaUnit u) s.toNat)
      resultTo st (vaM u) (.s r.1) r.2 lat x) := by
  rw [runTrigger_ready (vaMaskOp u lat chk f) low n g s st h (.inl hc)]
  simp only [vaMaskOp, operands_core]
  rfl

/-- A VX operation that delivers to vx.r. -/
theorem vxOp_ready (lat : Nat) (chk : Args → Check) (f : State → Args → Vec × Flags8) (low : Nat) (n : BitVec 1) (g : BitVec 4)
    (s : BitVec 9) (st : State) (h : SlotReady st n g s.toNat) (hc : chk (operands st 6 s.toNat) = .ok) :
    runTrigger (vxOp lat chk f) low n g s st = .next (afterTrigger st s.toNat 6 fun x =>
      let r := f x (operands st 6 s.toNat)
      resultTo st 0x0F7 (.v r.1) r.2 lat x) := by
  rw [runTrigger_ready (vxOp lat chk f) low n g s st h (.inl hc)]
  simp only [vxOp, operands_core]
  rfl

/-- A VX operation that delivers to vx.r and vx.e. -/
theorem vxOp2_ready (lat : Nat) (f : Args → Vec × Vec × Flags8) (low : Nat) (n : BitVec 1) (g : BitVec 4) (s : BitVec 9) (st : State)
    (h : SlotReady st n g s.toNat) :
    runTrigger (vxOp2 lat f) low n g s st = .next (afterTrigger st s.toNat 6 fun x =>
      let r := f (operands st 6 s.toNat)
      modCore x st.cur fun k => launchResult (launchResult k 0x0F7 (some (.v r.1)) r.2.2 lat 0) 0x0F8 (some (.v r.2.1)) 0 lat 0) := by
  rw [runTrigger_ready (vxOp2 lat f) low n g s st h (.inl rfl)]
  simp only [vxOp2, operands_core]

/-! ### Lanes and masks -/

theorem foldl_map_flags (l : List Nat) (f : Nat → Lane × Flags8) (a : Flags8) :
    (l.map f).foldl (fun x y => x ||| y.2) a = (l.map fun i => (f i).2).foldl (· ||| ·) a := by
  induction l generalizing a with
  | nil => rfl
  | cons i l ih => simp only [List.map_cons, List.foldl_cons]; exact ih _

/-- Results lane by lane are the vector of the results and the flags of all lanes. -/
theorem lanewise_eq (f : Nat → Lane × Flags8) : lanewise f = (lanes fun i => (f i).1, orFlags fun i => (f i).2) := by
  unfold lanewise lanes orFlags
  simp only [List.map_map, foldl_map_flags]
  rfl

theorem foldl_map_flags' (l : List Nat) (f : Nat → Bool × Flags8) (a : Flags8) :
    (l.map f).foldl (fun x y => x ||| y.2) a = (l.map fun i => (f i).2).foldl (· ||| ·) a := by
  induction l generalizing a with
  | nil => rfl
  | cons i l ih => simp only [List.map_cons, List.foldl_cons]; exact ih _

theorem foldl_mask (l : List Nat) (f : Nat → Bool × Flags8) (a : Nat) :
    ((l.map f).zip l).foldl (fun a x => a + b2n x.1.1 * 2 ^ x.2) a = a + (l.map fun i => if (f i).1 then 2 ^ i else 0).sum := by
  induction l generalizing a with
  | nil => simp
  | cons i l ih =>
    simp only [List.map_cons, List.zip_cons_cons, List.foldl_cons, List.sum_cons]
    rw [ih]
    cases (f i).1 <;> simp [b2n] <;> omega

/-- A mask lane by lane is the mask of the conditions, with the flags of all lanes. -/
theorem lanemask_eq (f : Nat → Bool × Flags8) : lanemask f = (maskOf fun i => (f i).1, orFlags fun i => (f i).2) := by
  unfold lanemask maskOf orFlags
  simp only [foldl_map_flags', foldl_mask, Nat.zero_add]

end Sys2Proof.Machine
end

