-- ==== Sys2Proof/Tests/Slice0.lean ====
section
/-! SUPPORT. Tests: ill-formed instructions are refused, words written out from the spec's encodings decode to what they stand
for, the conditions of the statements are met by small states, and single instructions give what the spec works out. -/

namespace Sys2Proof.Machine

set_option Elab.async false

/-! ### Ill-formed instructions -/

/-- R83: a source code that no rule assigns. -/
theorem test_wf_source : ¬ WellFormed (.jmp 0 0 0x188) := by decide
/-- R58: the destination codes 0x0F0 to 0x0FF are reserved. -/
theorem test_wf_destination : ¬ WellFormed (.move 0 0 0 0x0F0) := by decide
/-- R61: a move triggers nothing. -/
theorem test_wf_trigger : ¬ WellFormed (.move 0 0 0 0x104) := by decide
/-- R62: a literal source belongs to LIMM and LIMMU. -/
theorem test_wf_literal : ¬ WellFormed (.move 0 0 0x186 0) := by decide
/-- R61: the destination of LIMM triggers nothing. -/
theorem test_wf_limm : ¬ WellFormed (.limm 0 0 0x144) := by decide
/-- R118: the integer units are 1 and 2. -/
theorem test_wf_unit : ¬ WellFormed (.add 0 0 0 3) := by decide
/-- R259: there are 768 logical cores. -/
theorem test_wf_core : ¬ WellFormed (.bundleIssue 768) := by decide
/-- R1: there are four compute dies. -/
theorem test_wf_die : ¬ WellFormed (.tick 4) := by decide
/-- R221: a core has eight queues. -/
theorem test_wf_queue : ¬ WellFormed (.courierLineLand 0 8) := by decide
/-- R369: a die keeps no estimate of itself. -/
theorem test_wf_estimate : ¬ WellFormed (.estimateStale 1 1) := by decide
/-- R361: a die has five link ports. -/
theorem test_wf_port : ¬ WellFormed (.linkRetry 0 5) := by decide
/-- R288: a phase has at most 64 launches. -/
theorem test_wf_launch : ¬ WellFormed (.reorderWindowReport 0 64) := by decide
/-- R383: Post has eight ports. -/
theorem test_wf_post : ¬ WellFormed (.postAck 8 []) := by decide
/-- R221: a die has 64 die couriers. -/
theorem test_wf_courier : ¬ WellFormed (.freezeEnd (.dieCourier 0 64)) := by decide

/-! ### Words written out from the encodings (R57, R61, R81, R82, R252)

A slot word is N [23], G [22:19], S [18:10], D [9:0]; a trigger of unit u with low code t is D = 0x100 + 64u + t. -/

/-- CU (R87): unit 0. -/
theorem test_decode_cu_1 :
    (decodeSlot 0xA82504).toOption = some (.jmp 1 5 9) ∧
    (decodeSlot 0xA82505).toOption = some (.jmpi 1 5 9) ∧
    (decodeSlot 0xA82506).toOption = some (.call 1 5 9) ∧
    (decodeSlot 0xA82507).toOption = some (.calli 1 5 9) ∧
    (decodeSlot 0xA82508).toOption = some (.ret 1 5 9) ∧
    (decodeSlot 0xA82509).toOption = some (.loop 1 5 9) ∧
    (decodeSlot 0xA8250A).toOption = some (.leave 1 5 9) ∧
    (decodeSlot 0xA8250B).toOption = some (.waitc 1 5 9) ∧
    (decodeSlot 0xA8250C).toOption = some (.nextt 1 5 9) ∧
    (decodeSlot 0xA8250D).toOption = some (.donet 1 5 9) ∧
    (decodeSlot 0xA8250E).toOption = some (.sysc 1 5 9) ∧
    (decodeSlot 0xA8250F).toOption = some (.eret 1 5 9) ∧
    (decodeSlot 0xA82510).toOption = some (.brk 1 5 9) ∧
    (decodeSlot 0xA82511).toOption = some (.csrr 1 5 9) := by
  decide +kernel

/-- CU (R87): unit 0. -/
theorem test_decode_cu_2 :
    (decodeSlot 0xA82512).toOption = some (.csrw 1 5 9) ∧
    (decodeSlot 0xA82513).toOption = some (.csrs 1 5 9) ∧
    (decodeSlot 0xA82514).toOption = some (.csrc 1 5 9) ∧
    (decodeSlot 0xA82515).toOption = some (.ifence 1 5 9) ∧
    (decodeSlot 0xA82516).toOption = some (.pmark 1 5 9) := by
  decide +kernel

/-- IA (R88): unit 2. -/
theorem test_decode_ia_1 :
    (decodeSlot 0xA82584).toOption = some (.add 1 5 9 2) ∧
    (decodeSlot 0xA82585).toOption = some (.sub 1 5 9 2) ∧
    (decodeSlot 0xA82586).toOption = some (.mul 1 5 9 2) ∧
    (decodeSlot 0xA82587).toOption = some (.mulh 1 5 9 2) ∧
    (decodeSlot 0xA82588).toOption = some (.mulhu 1 5 9 2) ∧
    (decodeSlot 0xA82589).toOption = some (.div 1 5 9 2) ∧
    (decodeSlot 0xA8258A).toOption = some (.divu 1 5 9 2) ∧
    (decodeSlot 0xA8258B).toOption = some (.rem 1 5 9 2) ∧
    (decodeSlot 0xA8258C).toOption = some (.remu 1 5 9 2) ∧
    (decodeSlot 0xA8258D).toOption = some (.iaAnd 1 5 9 2) ∧
    (decodeSlot 0xA8258E).toOption = some (.iaOr 1 5 9 2) ∧
    (decodeSlot 0xA8258F).toOption = some (.iaXor 1 5 9 2) ∧
    (decodeSlot 0xA82590).toOption = some (.andn 1 5 9 2) ∧
    (decodeSlot 0xA82591).toOption = some (.shl 1 5 9 2) := by
  decide +kernel

/-- IA (R88): unit 2. -/
theorem test_decode_ia_2 :
    (decodeSlot 0xA82592).toOption = some (.shr 1 5 9 2) ∧
    (decodeSlot 0xA82593).toOption = some (.sar 1 5 9 2) ∧
    (decodeSlot 0xA82594).toOption = some (.rol 1 5 9 2) ∧
    (decodeSlot 0xA82595).toOption = some (.clz 1 5 9 2) ∧
    (decodeSlot 0xA82596).toOption = some (.ctz 1 5 9 2) ∧
    (decodeSlot 0xA82597).toOption = some (.popc 1 5 9 2) ∧
    (decodeSlot 0xA82598).toOption = some (.iaMin 1 5 9 2) ∧
    (decodeSlot 0xA82599).toOption = some (.iaMax 1 5 9 2) ∧
    (decodeSlot 0xA8259A).toOption = some (.minu 1 5 9 2) ∧
    (decodeSlot 0xA8259B).toOption = some (.maxu 1 5 9 2) ∧
    (decodeSlot 0xA8259C).toOption = some (.sext 1 5 9 2) ∧
    (decodeSlot 0xA8259D).toOption = some (.zext 1 5 9 2) ∧
    (decodeSlot 0xA8259E).toOption = some (.cmpeq 1 5 9 2) ∧
    (decodeSlot 0xA8259F).toOption = some (.cmpne 1 5 9 2) := by
  decide +kernel

/-- IA (R88): unit 2. -/
theorem test_decode_ia_3 :
    (decodeSlot 0xA825A0).toOption = some (.cmplt 1 5 9 2) ∧
    (decodeSlot 0xA825A1).toOption = some (.cmpltu 1 5 9 2) ∧
    (decodeSlot 0xA825A2).toOption = some (.cmple 1 5 9 2) ∧
    (decodeSlot 0xA825A3).toOption = some (.cmpleu 1 5 9 2) ∧
    (decodeSlot 0xA825A4).toOption = some (.sel 1 5 9 2) ∧
    (decodeSlot 0xA825A5).toOption = some (.bfx 1 5 9 2) ∧
    (decodeSlot 0xA825A6).toOption = some (.bfi 1 5 9 2) ∧
    (decodeSlot 0xA825A7).toOption = some (.madd 1 5 9 2) ∧
    (decodeSlot 0xA825A8).toOption = some (.lea 1 5 9 2) ∧
    (decodeSlot 0xA825A9).toOption = some (.abs 1 5 9 2) := by
  decide +kernel

/-- AG (R89): unit 3. -/
theorem test_decode_ag_1 :
    (decodeSlot 0xA825C4).toOption = some (.ldB 1 5 9) ∧
    (decodeSlot 0xA825C5).toOption = some (.ldBu 1 5 9) ∧
    (decodeSlot 0xA825C6).toOption = some (.ldH 1 5 9) ∧
    (decodeSlot 0xA825C7).toOption = some (.ldHu 1 5 9) ∧
    (decodeSlot 0xA825C8).toOption = some (.ldW 1 5 9) ∧
    (decodeSlot 0xA825C9).toOption = some (.ldWu 1 5 9) ∧
    (decodeSlot 0xA825CA).toOption = some (.ldD 1 5 9) ∧
    (decodeSlot 0xA825CB).toOption = some (.stB 1 5 9) ∧
    (decodeSlot 0xA825CC).toOption = some (.stH 1 5 9) ∧
    (decodeSlot 0xA825CD).toOption = some (.stW 1 5 9) ∧
    (decodeSlot 0xA825CE).toOption = some (.stD 1 5 9) ∧
    (decodeSlot 0xA825CF).toOption = some (.ldv 1 5 9) ∧
    (decodeSlot 0xA825D0).toOption = some (.ldvs 1 5 9) ∧
    (decodeSlot 0xA825D1).toOption = some (.ldvg 1 5 9) := by
  decide +kernel

/-- AG (R89): unit 3. -/
theorem test_decode_ag_2 :
    (decodeSlot 0xA825D2).toOption = some (.stv 1 5 9) ∧
    (decodeSlot 0xA825D3).toOption = some (.stvs 1 5 9) ∧
    (decodeSlot 0xA825D4).toOption = some (.stvg 1 5 9) ∧
    (decodeSlot 0xA825D5).toOption = some (.aadd 1 5 9) ∧
    (decodeSlot 0xA825D6).toOption = some (.amin 1 5 9) ∧
    (decodeSlot 0xA825D7).toOption = some (.amax 1 5 9) ∧
    (decodeSlot 0xA825D8).toOption = some (.aand 1 5 9) ∧
    (decodeSlot 0xA825D9).toOption = some (.aor 1 5 9) ∧
    (decodeSlot 0xA825DA).toOption = some (.axor 1 5 9) ∧
    (decodeSlot 0xA825DB).toOption = some (.aswp 1 5 9) ∧
    (decodeSlot 0xA825DC).toOption = some (.acas 1 5 9) ∧
    (decodeSlot 0xA825DD).toOption = some (.pubD 1 5 9) ∧
    (decodeSlot 0xA825DE).toOption = some (.pubP 1 5 9) ∧
    (decodeSlot 0xA825DF).toOption = some (.pubS 1 5 9) := by
  decide +kernel

/-- AG (R89): unit 3. -/
theorem test_decode_ag_3 :
    (decodeSlot 0xA825E0).toOption = some (.acqD 1 5 9) ∧
    (decodeSlot 0xA825E1).toOption = some (.acqP 1 5 9) ∧
    (decodeSlot 0xA825E2).toOption = some (.acqS 1 5 9) ∧
    (decodeSlot 0xA825E3).toOption = some (.vjoin 1 5 9) ∧
    (decodeSlot 0xA825E4).toOption = some (.xlpre 1 5 9) := by
  decide +kernel

/-- VA (R90): unit 5. -/
theorem test_decode_va_1 :
    (decodeSlot 0xA82644).toOption = some (.fadd 1 5 9 1) ∧
    (decodeSlot 0xA82645).toOption = some (.fsub 1 5 9 1) ∧
    (decodeSlot 0xA82646).toOption = some (.fmul 1 5 9 1) ∧
    (decodeSlot 0xA82647).toOption = some (.fma 1 5 9 1) ∧
    (decodeSlot 0xA82648).toOption = some (.fms 1 5 9 1) ∧
    (decodeSlot 0xA82649).toOption = some (.fmin 1 5 9 1) ∧
    (decodeSlot 0xA8264A).toOption = some (.fmax 1 5 9 1) ∧
    (decodeSlot 0xA8264B).toOption = some (.fabs 1 5 9 1) ∧
    (decodeSlot 0xA8264C).toOption = some (.fneg 1 5 9 1) ∧
    (decodeSlot 0xA8264D).toOption = some (.fcmpEq 1 5 9 1) ∧
    (decodeSlot 0xA8264E).toOption = some (.fcmpLt 1 5 9 1) ∧
    (decodeSlot 0xA8264F).toOption = some (.fcmpLe 1 5 9 1) ∧
    (decodeSlot 0xA82650).toOption = some (.fcmpUn 1 5 9 1) ∧
    (decodeSlot 0xA82651).toOption = some (.fsel 1 5 9 1) := by
  decide +kernel

/-- VA (R90): unit 5. -/
theorem test_decode_va_2 :
    (decodeSlot 0xA82652).toOption = some (.iadd 1 5 9 1) ∧
    (decodeSlot 0xA82653).toOption = some (.isub 1 5 9 1) ∧
    (decodeSlot 0xA82654).toOption = some (.imul 1 5 9 1) ∧
    (decodeSlot 0xA82655).toOption = some (.imulh 1 5 9 1) ∧
    (decodeSlot 0xA82656).toOption = some (.iand 1 5 9 1) ∧
    (decodeSlot 0xA82657).toOption = some (.ior 1 5 9 1) ∧
    (decodeSlot 0xA82658).toOption = some (.ixor 1 5 9 1) ∧
    (decodeSlot 0xA82659).toOption = some (.ishl 1 5 9 1) ∧
    (decodeSlot 0xA8265A).toOption = some (.ishr 1 5 9 1) ∧
    (decodeSlot 0xA8265B).toOption = some (.isar 1 5 9 1) ∧
    (decodeSlot 0xA8265C).toOption = some (.imin 1 5 9 1) ∧
    (decodeSlot 0xA8265D).toOption = some (.imax 1 5 9 1) ∧
    (decodeSlot 0xA8265E).toOption = some (.iminu 1 5 9 1) ∧
    (decodeSlot 0xA8265F).toOption = some (.imaxu 1 5 9 1) := by
  decide +kernel

/-- VA (R90): unit 5. -/
theorem test_decode_va_3 :
    (decodeSlot 0xA82660).toOption = some (.icmpEq 1 5 9 1) ∧
    (decodeSlot 0xA82661).toOption = some (.icmpLt 1 5 9 1) ∧
    (decodeSlot 0xA82662).toOption = some (.icmpLtu 1 5 9 1) ∧
    (decodeSlot 0xA82663).toOption = some (.cvt 1 5 9 1) ∧
    (decodeSlot 0xA82664).toOption = some (.pack 1 5 9 1) ∧
    (decodeSlot 0xA82665).toOption = some (.unpack 1 5 9 1) ∧
    (decodeSlot 0xA82666).toOption = some (.bcast 1 5 9 1) ∧
    (decodeSlot 0xA82667).toOption = some (.lane 1 5 9 1) ∧
    (decodeSlot 0xA82668).toOption = some (.mand 1 5 9 1) ∧
    (decodeSlot 0xA82669).toOption = some (.mor 1 5 9 1) ∧
    (decodeSlot 0xA8266A).toOption = some (.mnot 1 5 9 1) := by
  decide +kernel

/-- VX (R91): unit 6. -/
theorem test_decode_vx_1 :
    (decodeSlot 0xA82684).toOption = some (.rcp 1 5 9) ∧
    (decodeSlot 0xA82685).toOption = some (.rsq 1 5 9) ∧
    (decodeSlot 0xA82686).toOption = some (.sqrt 1 5 9) ∧
    (decodeSlot 0xA82687).toOption = some (.exp2 1 5 9) ∧
    (decodeSlot 0xA82688).toOption = some (.log2 1 5 9) ∧
    (decodeSlot 0xA82689).toOption = some (.tanh 1 5 9) ∧
    (decodeSlot 0xA8268A).toOption = some (.sigm 1 5 9) ∧
    (decodeSlot 0xA8268B).toOption = some (.silu 1 5 9) ∧
    (decodeSlot 0xA8268C).toOption = some (.gelut 1 5 9) ∧
    (decodeSlot 0xA8268D).toOption = some (.rmax 1 5 9) ∧
    (decodeSlot 0xA8268E).toOption = some (.rmin 1 5 9) ∧
    (decodeSlot 0xA8268F).toOption = some (.rsum 1 5 9) ∧
    (decodeSlot 0xA82690).toOption = some (.twosum 1 5 9) ∧
    (decodeSlot 0xA82691).toOption = some (.perm 1 5 9) := by
  decide +kernel

/-- VX (R91): unit 6. -/
theorem test_decode_vx_2 :
    (decodeSlot 0xA82692).toOption = some (.shuf 1 5 9) ∧
    (decodeSlot 0xA82693).toOption = some (.rng 1 5 9) ∧
    (decodeSlot 0xA82694).toOption = some (.dropm 1 5 9) := by
  decide +kernel

/-- MX (R92): unit 7. -/
theorem test_decode_mx :
    (decodeSlot 0xA826C4).toOption = some (.wld 1 5 9) ∧
    (decodeSlot 0xA826C5).toOption = some (.wfmt 1 5 9) ∧
    (decodeSlot 0xA826C6).toOption = some (.mode 1 5 9) ∧
    (decodeSlot 0xA826C7).toOption = some (.scale 1 5 9) ∧
    (decodeSlot 0xA826C8).toOption = some (.strm 1 5 9) ∧
    (decodeSlot 0xA826C9).toOption = some (.accz 1 5 9) ∧
    (decodeSlot 0xA826CA).toOption = some (.drain 1 5 9) ∧
    (decodeSlot 0xA826CB).toOption = some (.dfn 1 5 9) ∧
    (decodeSlot 0xA826CC).toOption = some (.spar 1 5 9) ∧
    (decodeSlot 0xA826CD).toOption = some (.mxAdmit 1 5 9) ∧
    (decodeSlot 0xA826CE).toOption = some (.mxst 1 5 9) ∧
    (decodeSlot 0xA826CF).toOption = some (.wgstep 1 5 9) := by
  decide +kernel

/-- SS (R93): unit 8. -/
theorem test_decode_ss :
    (decodeSlot 0xA82704).toOption = some (.salloc 1 5 9) ∧
    (decodeSlot 0xA82705).toOption = some (.sadd 1 5 9) ∧
    (decodeSlot 0xA82706).toOption = some (.ssub 1 5 9) ∧
    (decodeSlot 0xA82707).toOption = some (.srdn 1 5 9) ∧
    (decodeSlot 0xA82708).toOption = some (.srho 1 5 9) ∧
    (decodeSlot 0xA82709).toOption = some (.sfenceL 1 5 9) ∧
    (decodeSlot 0xA8270A).toOption = some (.sfenceD 1 5 9) ∧
    (decodeSlot 0xA8270B).toOption = some (.sfenceP 1 5 9) ∧
    (decodeSlot 0xA8270C).toOption = some (.sevict 1 5 9) ∧
    (decodeSlot 0xA8270D).toOption = some (.srestore 1 5 9) ∧
    (decodeSlot 0xA8270E).toOption = some (.swrap 1 5 9) ∧
    (decodeSlot 0xA8270F).toOption = some (.sgain 1 5 9) ∧
    (decodeSlot 0xA82710).toOption = some (.seps 1 5 9) ∧
    (decodeSlot 0xA82711).toOption = some (.sview 1 5 9) := by
  decide +kernel

/-- CP (R94): unit 9. -/
theorem test_decode_cp :
    (decodeSlot 0xA82744).toOption = some (.cpy 1 5 9) ∧
    (decodeSlot 0xA82745).toOption = some (.cpymx 1 5 9) ∧
    (decodeSlot 0xA82746).toOption = some (.seq 1 5 9) ∧
    (decodeSlot 0xA82747).toOption = some (.seqgo 1 5 9) ∧
    (decodeSlot 0xA82748).toOption = some (.wpr 1 5 9) ∧
    (decodeSlot 0xA82749).toOption = some (.wpwait 1 5 9) ∧
    (decodeSlot 0xA8274A).toOption = some (.cpadd 1 5 9) ∧
    (decodeSlot 0xA8274B).toOption = some (.cpred 1 5 9) ∧
    (decodeSlot 0xA8274C).toOption = some (.cpbc 1 5 9) ∧
    (decodeSlot 0xA8274D).toOption = some (.cqstat 1 5 9) := by
  decide +kernel

/-- SY (R95): unit 10. -/
theorem test_decode_sy :
    (decodeSlot 0xA82784).toOption = some (.tbinit 1 5 9) ∧
    (decodeSlot 0xA82785).toOption = some (.tbarr 1 5 9) ∧
    (decodeSlot 0xA82786).toOption = some (.tbexp 1 5 9) ∧
    (decodeSlot 0xA82787).toOption = some (.tbwait 1 5 9) ∧
    (decodeSlot 0xA82788).toOption = some (.tbtest 1 5 9) ∧
    (decodeSlot 0xA82789).toOption = some (.tkaln 1 5 9) ∧
    (decodeSlot 0xA8278A).toOption = some (.tkrd 1 5 9) ∧
    (decodeSlot 0xA8278B).toOption = some (.phsend 1 5 9) ∧
    (decodeSlot 0xA8278C).toOption = some (.phrecv 1 5 9) := by
  decide +kernel

/-- FL (R96): unit 11. -/
theorem test_decode_fl :
    (decodeSlot 0xA827C4).toOption = some (.fjob 1 5 9) ∧
    (decodeSlot 0xA827C5).toOption = some (.fjwait 1 5 9) ∧
    (decodeSlot 0xA827C6).toOption = some (.fjstat 1 5 9) ∧
    (decodeSlot 0xA827C7).toOption = some (.fprog 1 5 9) := by
  decide +kernel

/-- Routine words (R252). -/
theorem test_decode_word_1 :
    (decodeFuller 0x00000000).toOption = some (.fullerEnd) ∧
    (decodeFuller 0x04D58100).toOption = some (.fullerFadd 3 5 6 2) ∧
    (decodeFuller 0x08D58100).toOption = some (.fullerFsub 3 5 6 2) ∧
    (decodeFuller 0x0CD58100).toOption = some (.fullerFmul 3 5 6 2) ∧
    (decodeFuller 0x10D5A500).toOption = some (.fullerFma 3 5 6 9 2) ∧
    (decodeFuller 0x14D5A500).toOption = some (.fullerFms 3 5 6 9 2) ∧
    (decodeFuller 0x18D58100).toOption = some (.fullerFdiv 3 5 6 2) ∧
    (decodeFuller 0x1CD40100).toOption = some (.fullerFsqrt 3 5 2) ∧
    (decodeFuller 0x20D40000).toOption = some (.fullerFrsq 3 5) ∧
    (decodeFuller 0x24D40000).toOption = some (.fullerFrcp 3 5) ∧
    (decodeFuller 0x28D58000).toOption = some (.fullerFmin 3 5 6) ∧
    (decodeFuller 0x2CD58000).toOption = some (.fullerFmax 3 5 6) ∧
    (decodeFuller 0x30D40000).toOption = some (.fullerFabs 3 5) ∧
    (decodeFuller 0x34D40000).toOption = some (.fullerFneg 3 5) := by
  decide +kernel

/-- Routine words (R252). -/
theorem test_decode_word_2 :
    (decodeFuller 0x38D5A400).toOption = some (.fullerFsel 3 5 6 9) ∧
    (decodeFuller 0x3CD42500).toOption = some (.kadd 3 5 9 2) ∧
    (decodeFuller 0x40C00005).toOption = some (.cvi 3 5) ∧
    (decodeFuller 0x44D40104).toOption = some (.fcvt 3 5 2 4) ∧
    (decodeFuller 0x48D40000).toOption = some (.fmov 3 5) ∧
    (decodeFuller 0x4CD58000).toOption = some (.fclamp 3 5 6) := by
  decide +kernel

/-- R69, R62: moves and literals. -/
theorem test_decode_moves :
    (decodeSlot 0xA82441).toOption = some (.move 1 5 9 0x041) ∧ (decodeSlot 0xAE1841).toOption = some (.limm 1 5 0x041) ∧
    (decodeSlot 0xAE1C41).toOption = some (.limmu 1 5 0x041) := by
  decide +kernel

/-- R83, R61: codes that nothing assigns; an integer trigger does not run on unit 0, and no code runs on a unit without it. -/
theorem test_decode_refused :
    (decodeSlot 0x0000F0).toOption = none ∧ (decodeSlot 0x04FC00).toOption = none ∧
    (decodeSlot 0x00016A).toOption = none ∧ (decodeSlot 0x0003FF).toOption = none := by
  decide +kernel

/-! ### Small states -/

/-- A state whose next slot is slot 0 of core 0's open bundle, with core 0 as `f` changes it after reset. -/
def tSlot (f : Core → Core) : State := placeSlot (modCore State.reset 0 f) 0

/-- A scalar port of a core. -/
def tPort (u p : Nat) (x : Word) (k : Core) : Core := putPort k (lvlOf k) u p (.s x)

/-- A core at T level. -/
def tUser (k : Core) : Core := { k with csr := { k.csr with xstat := 0 } }

/-- A core with a value in g1. -/
def tG (x : Word) (k : Core) : Core := { k with files := { k.files with g := tset 0 k.files.g 1 x } }

/-- Ports b, c and d of a unit. -/
def tAt (u : Nat) (b c d : Word) : State := tSlot fun k => tPort u 1 b (tPort u 2 c (tPort u 3 d k))

/-- g1 as the source, and ports b, c and d of a unit. -/
def tRun (u : Nat) (a b c d : Word) : State := tSlot fun k => tPort u 1 b (tPort u 2 c (tPort u 3 d (tG a k)))

/-- The same at T level. -/
def tLow (u : Nat) (a b c d : Word) : State := tSlot fun k => tPort u 1 b (tPort u 2 c (tPort u 3 d (tG a (tUser k))))

/-- A slot is ready when its guard enables it and its source can be read. -/
theorem slotReady_of {st : State} {n : BitVec 1} {g : BitVec 4} {s : Nat} (h : slotEnabled (slotCore st) (slotIssue st) n g = true)
    (hl : litSource s = true → (slotIssue st).slot < 7)
    (hp : s = 0x180 → popHeld (slotIssue st) = true ∨ (ldqOf (slotCore st)).head?.any (·.arrived) = true)
    (hs : stopHere (slotIssue st) = none := by decide +kernel) : SlotReady st n g s :=
  And.intro h (And.intro (And.intro hl hp) hs)

/-- An entry of a load-data queue. -/
def tEntry (arrived : Bool) (due : Nat) : LdEntry :=
  { id := 1, vec := false, signed := false, bytes := [7], due := due, issued := 0, arrived := arrived, padded := true, homes := [],
    done := arrived, frz := 0, deps := [], places := [] }

/-- A next state, whatever it is. -/
def isNext (o : Host.Outcome State Fault Refusal) : Bool :=
  match o with
  | .next _ => true
  | _ => false

/-- Core 0 after a step that gives a next state. -/
def coreAfter (o : Host.Outcome State Fault Refusal) : Core :=
  match o with
  | .next t => coreOf t 0
  | _ => Core.reset

/-- The last operation in flight of core 0 after a step: its value, its flags and its remaining ticks. -/
def resultAfter (o : Host.Outcome State Fault Refusal) : Option (Option Val × BitVec 8 × Nat) :=
  (coreAfter o).flight.getLast?.map fun f => (f.val, f.flags, f.rem)

/-! ### States that meet the conditions of the statements -/

theorem witness_DecodeEncode : WellFormed (.add 1 15 0x187 2) ∧ WellFormed (.fullerFma 15 15 15 15 3) := by decide +kernel

theorem witness_DecodedWordsAreEncodings :
    (decodeSlot 0xFE1C56).toOption = some (.limmu 1 15 0x056) ∧ (decodeFuller 0x10000180).toOption = some (.fullerFma 0 0 0 0 3) := by
  decide +kernel

/-- The four clauses of a step, a placed slot word and a placed Fuller word. -/
theorem witness_ReservedCodesAreDecodeFaults :
    let st := modCore (placeSlot State.reset 0x000517) 0 fun k => { k with csr := { k.csr with xstat := 0 } }
    st.turn = .bundle ∧ lvlOf (coreOf st st.cur) = .t ∧ ∃ x, (coreOf st st.cur).issue = some x ∧ x.slot < 8 ∧
      x.done.toNat.testBit x.slot = false ∧ (literalSlots x.words).getD x.slot false = false ∧
      slotWordOf x.words x.slot = 0x000517 ∧
      (match decodeSlot 0x000517 with | .error e => some e | .ok _ => none) = some (.unassignedTrigger 0x117) :=
  ⟨rfl, by decide +kernel, _, rfl, by decide +kernel, by decide +kernel, by decide +kernel, by decide +kernel, by decide +kernel⟩

theorem witness_StepRunsDecoded :
    (let st := placeSlot State.reset 0x000104
     st.turn = .bundle ∧ ∃ x, (coreOf st st.cur).issue = some x ∧ x.slot < 8 ∧ x.done.toNat.testBit x.slot = false ∧
       (literalSlots x.words).getD x.slot false = false ∧ (decodeSlot (slotWordOf x.words x.slot)).toOption = some (.jmp 0 0 0)) ∧
    (∃ x : Issue, (coreOf (placeSlot State.reset 0) 0).issue.map (fun i => { i with slot := 7, done := 0x80 }) = some x ∧
      x.slot < 8 ∧ x.done.toNat.testBit x.slot = true) ∧
    (literalSlots (bundleWith 0x061800)).getD 1 false = true ∧
    (∃ x : Issue, (coreOf (placeSlot State.reset 0) 0).issue.map (fun i => { i with slot := 8 }) = some x ∧ 8 ≤ x.slot) ∧
    (let st := State.reset.withFetchWord 32 0x00000000
     st.turn = .fuller 0 ∧ fullerWord st 0 = some 0 ∧ (decodeFuller 0).toOption = some .fullerEnd) :=
  ⟨⟨rfl, _, rfl, by decide +kernel⟩, ⟨_, rfl, by decide +kernel⟩, by decide +kernel, ⟨_, rfl, by decide +kernel⟩, by decide +kernel⟩

theorem witness_StepRunsDecoded_event :
    (State.reset.turn = .agenda ∧ State.reset.agenda = [.powerOnBoot] ∧ EventRow .powerOnBoot .powerOnBoot) ∧
    (let st := { State.reset with agenda := [], inbox := [(0, .flock)] }
     st.turn = .agenda ∧ st.agenda = [] ∧ st.inbox = [(0, .flock)] ∧ 0 ≤ refTick st ∧ EventRow .flock .flock) ∧
    (let st := { State.reset with agenda := [], inbox := [(0, .doorbell 7 41), (1, .unmap 7), (0, .unmap 8)] }
     ringsSlot st (.doorbell 7 41) = some 7 ∧ ∀ y ∈ st.inbox.drop 1, y.1 = 0 → unmapsSlot y.2 ≠ some 7) ∧
    (let st := { State.reset with agenda := [], inbox := [(0, .doorbell 7 41), (0, .unmap 7), (0, .flock)] }
     st.turn = .agenda ∧ st.agenda = [] ∧ st.inbox = (0, .doorbell 7 41) :: (0, .unmap 7) :: [(0, .flock)] ∧ 0 ≤ refTick st) ∧
    (let st := { State.reset with agenda := [], inbox := [(1, .flock)] }
     st.turn = .agenda ∧ st.agenda = [] ∧ ∀ x ∈ st.inbox, refTick st < x.1) :=
  ⟨⟨rfl, rfl, .powerOnBoot⟩, ⟨rfl, rfl, rfl, Nat.zero_le _, .flock⟩, by decide +kernel, by decide +kernel, rfl, rfl, by decide +kernel⟩

theorem witness_EveryInstructionCompletes :
    WellFormed (.madd 1 0 0x014 2) ∧ WellFormed (.fullerFma 1 2 3 4 2) ∧ WellFormed (.courierLineLand 767 7) := by decide +kernel

/-- The names at both ends of each class after reset, and both levels. -/
theorem witness_OperandNames :
    (slotIssue (tSlot id)).shadows = [] ∧
    ([0x001, 0x07F, 0x080, 0x0BF, 0x0C1, 0x0CF, 0x0D0, 0x0DB, 0x0DC, 0x0DF, 0x0E0, 0x0E7, 0x0E8, 0x0EF].map (physCode Core.reset)) =
      [0x001, 0x07F, 0x080, 0x0BF, 0x0C1, 0x0CF, 0x0D0, 0x0DB, 0x0DC, 0x0DF, 0x0E0, 0x0E7, 0x0E8, 0x0EF].map some ∧
    lvlOf Core.reset = .s ∧ lvlOf (tUser Core.reset) = .t := by decide +kernel

theorem witness_Moves :
    SlotReady (tSlot id) 0 0 0x187 ∧ SlotReady (tSlot id) 0 0 0x186 ∧ SlotReady (tSlot id) 0 0 0x0FF ∧
    SlotReady (tSlot fun k => { k with sbank := { k.sbank with ldq := [tEntry true 0] } }) 0 0 0x180 :=
  ⟨slotReady_of (by decide +kernel) (by decide +kernel) (by decide +kernel),
   slotReady_of (by decide +kernel) (by decide +kernel) (by decide +kernel),
   slotReady_of (by decide +kernel) (by decide +kernel) (by decide +kernel),
   slotReady_of (by decide +kernel) (by decide +kernel) (by decide +kernel)⟩

/-- A move from a register, and one that pops. -/
theorem witness_MoveToGeneralFrame :
    (∃ t, SlotReady (tSlot id) 0 0 0x001 ∧ 0 < (0x07F : BitVec 10).toNat ∧ (0x07F : BitVec 10).toNat < 0x80 ∧
      exec (.move 0 0 0x001 0x07F) (tSlot id) = .next t) ∧
    (let st := tSlot fun k => { k with sbank := { k.sbank with ldq := [tEntry true 0] } }
     ∃ t, SlotReady st 0 0 0x180 ∧ popHeld (slotIssue st) = false ∧ exec (.move 0 0 0x180 0x001) st = .next t) :=
  ⟨⟨_, slotReady_of (by decide +kernel) (by decide +kernel) (by decide +kernel), by decide, by decide, rfl⟩,
   _, slotReady_of (by decide +kernel) (by decide +kernel) (by decide +kernel), by decide +kernel, rfl⟩

theorem witness_DisabledSlotDoesNothing :
    encode (.add 1 0 0 1) = .slot 0x800144 ∧ WellFormed (.add 1 0 0 1) ∧
    slotEnabled (slotCore (tSlot id)) (slotIssue (tSlot id)) (slotN 0x800144) (slotG 0x800144) = false :=
  ⟨rfl, by decide, by decide +kernel⟩

theorem witness_IntegerResults : SlotReady (tRun 1 0xFFFFFFFFFFFFFFFF 1 2 3) 0 0 0x001 :=
  slotReady_of (by decide +kernel) (by decide +kernel) (by decide +kernel)

theorem witness_DivisionAndFieldResults : SlotReady (tRun 2 0x8000000000000000 0xFFFFFFFFFFFFFFFF 0 0) 0 0 0x001 :=
  slotReady_of (by decide +kernel) (by decide +kernel) (by decide +kernel)

/-- A bundle of core 0 whose slots have all committed, with a control operation pending. -/
def tClose (f : Core → Core) (op : Nat) (a b : Word) : State :=
  modCore (tSlot f) 0 fun k => { k with issue := k.issue.map fun i => { i with slot := 8, pend := some { op := op, a := a, b := b } } }

/-- The conditions of a closing bundle, in `tClose`. -/
theorem witness_close (op : Nat) (a b : Word) :
    ∃ (i : Issue) (p : CuPend), (0 : Nat) < 768 ∧ (coreOf (tClose id op a b) 0).issue = some i ∧ 8 ≤ i.slot ∧ i.pend = some p ∧
      p.op = op ∧ p.a = a ∧ p.b = b := ⟨_, _, by decide, rfl, Nat.le_refl 8, rfl, rfl, rfl, rfl⟩

/-- Targets at both bounds, and a register of each access code. -/
theorem witness_ControlSlotsComplete :
    (let st := tLow 0 9897 0 0 0
     SlotReady st 0 0 1 ∧ (operands st 0 1).a.toNat ≤ 10921 ∧ ((operands st 0 1).lvl = .t → (operands st 0 1).a.toNat < 9898)) ∧
    (let st := tRun 0 10920 1 0 0
     SlotReady st 0 0 1 ∧ ((operands st 0 1).a + (operands st 0 1).b).toNat ≤ 10921 ∧
       ((operands st 0 1).lvl = .t → ((operands st 0 1).a + (operands st 0 1).b).toNat < 9898)) ∧
    (loopTest (slotIssue (tSlot id)).loopIn).2 = false ∧ NotHeld (tSlot id) (donetCheck (tSlot id) (operands (tSlot id) 0 0)) ∧
    (operands (tSlot id) 0 0).lvl = .s ∧
    (let x := operands (tLow 0 0x010 0 0 0) 0 1
     csrListed x.a.toNat = true ∧ (csrSrw x.a.toNat = true → x.lvl = .s)) ∧
    (let x := operands (tRun 0 0x072 0 0 0) 0 1
     csrListed x.a.toNat = true ∧ (csrSrw x.a.toNat = true → x.lvl = .s)) :=
  ⟨⟨slotReady_of (by decide +kernel) (by decide +kernel) (by decide +kernel), by decide +kernel⟩,
   ⟨slotReady_of (by decide +kernel) (by decide +kernel) (by decide +kernel), by decide +kernel⟩,
   by decide +kernel, .inl (by decide +kernel), by decide +kernel, by decide +kernel, by decide +kernel⟩

/-- A bundle that closes with a control operation, and one without. -/
theorem witness_ControlEffects :
    (∃ (i : Issue) (p : CuPend), (coreOf (tClose id 0x0A 5 0) 0).issue = some i ∧ 8 ≤ i.slot ∧ i.pend = some p ∧
      p.op ∈ [0x04, 0x06, 0x08, 0x0A]) ∧
    (∃ i : Issue, (coreOf (modCore (tSlot id) 0 fun k => { k with issue := k.issue.map fun i => { i with slot := 8 } }) 0).issue = some i ∧
      8 ≤ i.slot ∧ i.pend = none) :=
  ⟨⟨_, _, rfl, by decide, rfl, by decide⟩, _, rfl, by decide, rfl⟩

/-- A loop that starts an iteration, one that only has stages left, and one that ends. -/
theorem witness_LoopRotates :
    (∃ (i : Issue) (p : CuPend), (coreOf (tClose id 0x09 5 0) 0).issue = some i ∧ 8 ≤ i.slot ∧ i.pend = some p ∧ p.op = 0x09 ∧
      i.loopIn.trip.toNat = 0 ∧ i.loopIn.stgw.toNat = 0) ∧
    (∃ i : Issue, (coreOf (tClose (fun k => { k with csr := { k.csr with trip := 1 } }) 0x09 5 0) 0).issue = some i ∧
      0 < i.loopIn.trip.toNat) ∧
    (let l : LoopIn := { trip := 0, stgw := 2, prb := 7, preds := [(15, true)] }
     0 + 1 < min l.stgw.toNat 8 ∧ tget false l.preds (8 + (0 + l.prb.toNat) % 8) = true) :=
  ⟨⟨_, _, rfl, by decide, rfl, rfl, by decide⟩, ⟨_, rfl, by decide +kernel⟩, by decide +kernel⟩

theorem witness_CsrAccesses :
    (SlotReady (tLow 0 0x003 0 0 0) 0 0 1 ∧ (operands (tLow 0 0x003 0 0 0) 0 1).a.toNat = 0x003 ∧
      (operands (tRun 0 0x072 0 0 0) 0 1).a.toNat = 0x072 ∧ (operands (tRun 0 0x043 0 0 0) 0 1).a.toNat = 0x040 + 3 ∧
      (operands (tRun 0 0x04B 0 0 0) 0 1).a.toNat = 0x048 + 3 ∧ (operands (tRun 0 0x083 0 0 0) 0 1).a.toNat = 0x080 + 3) ∧
    (∃ (i : Issue) (p : CuPend), (coreOf (tClose id 0x14 0x013 1) 0).issue = some i ∧ 8 ≤ i.slot ∧ i.pend = some p ∧
      p.op ∈ [0x12, 0x13, 0x14] ∧ p.a = 0x013) ∧
    (∃ (i : Issue) (p : CuPend), (coreOf (tClose id 0x12 0x083 1) 0).issue = some i ∧ 8 ≤ i.slot ∧ i.pend = some p ∧
      p.op ∈ [0x12, 0x13, 0x14] ∧ p.a.toNat = 0x083 ∧ (coreOf (tClose id 0x12 0x083 1) 0).mxEvt = none ∧
      (coreOf (tClose id 0x12 0x083 1) 0).ssEvt = none) :=
  ⟨⟨slotReady_of (by decide +kernel) (by decide +kernel) (by decide +kernel), by decide +kernel⟩,
   ⟨_, _, rfl, by decide, rfl, by decide, rfl⟩, _, _, rfl, by decide, rfl, by decide, by decide, rfl, rfl⟩

theorem witness_ControlChecks :
    10921 < (10922 : Word).toNat ∧ (9898 ≤ (9898 : Word).toNat ∧ (10921 : Word).toNat ≤ 10921) ∧
    (operands (tLow 0 0x070 0 0 0) 0 1).lvl = .t ∧ (operands (tLow 0 0x070 0 0 0) 0 1).a.toNat = 0x070 ∧
    csrListed (operands (tLow 0 0x004 0 0 0) 0 1).a.toNat = false := by decide +kernel

theorem witness_TrapEntry : replayCode 31 = false ∧ (31 : Nat) ≠ 8 ∧ (31 : Nat) < 32 := by decide

theorem witness_SlotFaults :
    (let st := tLow 0 0x004 0 0 0
     SlotReady st 0 0 1 ∧ lvlOf (slotCore st) = .t ∧ (slotIssue st).slot < 8 ∧ csrListed (operands st 0 1).a.toNat = false) ∧
    (let st := tLow 0 0x000 0 0 0
     SlotReady st 0 0 1 ∧ lvlOf (slotCore st) = .t ∧ csrListed (operands st 0 1).a.toNat = true ∧
       csrSrw (operands st 0 1).a.toNat = true) ∧
    (let st := tRun 0 0x004 0 0 0
     SlotReady st 0 0 1 ∧ lvlOf (slotCore st) = .s ∧ csrListed (operands st 0 1).a.toNat = false) ∧
    (let st := tLow 3 0xFF9 0 0 0
     SlotReady st 0 0 1 ∧ lvlOf (slotCore st) = .t ∧ (operands st 3 1).a.toNat % 8 ≠ 0 ∧ (operands st 3 1).a.toNat % 2 ≠ 0) ∧
    (let st := tRun 3 0xFF9 0 0 0
     SlotReady st 0 0 1 ∧ lvlOf (slotCore st) = .s ∧ (operands st 3 1).a.toNat % 8 ≠ 0 ∧ (operands st 3 1).a.toNat % 2 ≠ 0) :=
  ⟨⟨slotReady_of (by decide +kernel) (by decide +kernel) (by decide +kernel), by decide +kernel⟩,
   ⟨slotReady_of (by decide +kernel) (by decide +kernel) (by decide +kernel), by decide +kernel⟩,
   ⟨slotReady_of (by decide +kernel) (by decide +kernel) (by decide +kernel), by decide +kernel⟩,
   ⟨slotReady_of (by decide +kernel) (by decide +kernel) (by decide +kernel), by decide +kernel⟩,
   ⟨slotReady_of (by decide +kernel) (by decide +kernel) (by decide +kernel), by decide +kernel⟩⟩

theorem witness_SyscAndBrk :
    (∃ (i : Issue) (p : CuPend), (coreOf (tClose id 0x0E 7 0) 0).issue = some i ∧ 8 ≤ i.slot ∧ i.pend = some p ∧ p.op = 0x0E) ∧
    (∃ (i : Issue) (p : CuPend), (coreOf (tClose id 0x10 7 0) 0).issue = some i ∧ 8 ≤ i.slot ∧ i.pend = some p ∧ p.op = 0x10 ∧
      (coreOf (tClose id 0x10 7 0) 0).dbg.dstat.getLsbD 0 = false) ∧
    (coreOf (tClose (fun k => { k with dbg := { k.dbg with dstat := 1 } }) 0x10 7 0) 0).dbg.dstat.getLsbD 0 = true :=
  ⟨⟨_, _, rfl, by decide, rfl, rfl⟩, ⟨_, _, rfl, by decide, rfl, rfl, by decide +kernel⟩, by decide +kernel⟩

theorem witness_ReturnFromTrap :
    (∃ (i : Issue) (p : CuPend), (coreOf (tClose id 0x0F 0 0) 0).issue = some i ∧ 8 ≤ i.slot ∧ i.pend = some p ∧ p.op = 0x0F ∧
      (coreOf (tClose id 0x0F 0 0) 0).csr.xstat.getLsbD 19 = false) ∧
    (coreOf (tClose (fun k => { k with csr := { k.csr with xstat := 0x890000 } }) 0x0F 0 0) 0).csr.xstat.getLsbD 19 = true :=
  ⟨⟨_, _, rfl, by decide, rfl, rfl, by decide +kernel⟩, by decide +kernel⟩

/-- A core that runs between bundles, with events that wait. -/
def tBetween (f : Core → Core) : State := modCore State.reset 0 fun k => f { k with run := .run }

theorem witness_AsynchronousEvents :
    (let st := tBetween fun k => { tUser k with pendEv := [(0, 0x92, 5), (2, 0x94, 6)] }
     let k := coreOf st 0
     k.wx = [] ∧ k.run = .run ∧ k.issue = none ∧ k.reenter = none ∧ k.dbg.haltAt = none ∧ k.dbg.step = 0 ∧ lvlOf k = .t ∧
       k.pendEv = [(0, 0x92, 5), (2, 0x94, 6)] ∧ (∀ x ∈ [(2, (0x94 : Word), (6 : Word))], 0 ≤ x.1) ∧
       (0x92 : Word).toNat % 32 ∈ [18, 19, 20]) ∧
    lvlOf (coreOf (tBetween id) 0) = .s := by decide +kernel

/-- A schedule of two entries. -/
def tSched (i : Nat) (k : Core) : Core :=
  { k with sched := [{ tidx := 0, tx := 0, ty := 0, tz := 0, entry := 0 }, { tidx := 5, tx := 1, ty := 2, tz := 3, entry := 9 }], cursor := i }

theorem witness_NexttAndDonet :
    (∃ (i : Issue) (p : CuPend), (coreOf (tClose (tSched 0) 0x0C 0 0) 0).issue = some i ∧ 8 ≤ i.slot ∧ i.pend = some p ∧ p.op = 0x0C) ∧
    nextEntry (coreOf (tClose (tSched 0) 0x0C 0 0) 0) 0 = some 1 ∧ nextEntry (coreOf (tClose (tSched 1) 0x0C 0 0) 0) 1 = none ∧
    (∃ (i : Issue) (p : CuPend), (coreOf (tClose (tSched 0) 0x0D 0 0) 0).issue = some i ∧ 8 ≤ i.slot ∧ i.pend = some p ∧ p.op = 0x0D) :=
  ⟨⟨_, _, rfl, by decide, rfl, rfl⟩, by decide +kernel, by decide +kernel, ⟨_, _, rfl, by decide, rfl, rfl⟩⟩

/-- A leaf for the page of address 0: readable, writable, used, PADDED. -/
def tPage : TlbEntry := { asid := 0, vbase := 0, size := 4096, pte := 0x00100000000000D9 }

/-- A state in which address 0 to 4,095 of ASID 0 is mapped and memory slot 0 has a key. -/
def tMap (st : State) : State :=
  let st := modDie st 0 fun x => { x with tlb := [tPage] }
  { st with host := { st.host with mkeys := [(0, some 1)] } }

theorem reach_glob {st : State} {x : Args} {va n pa key : Nat} {w p : Bool} (h : va % n = 0) (hx : xlateOp st x va w = .ok pa key p)
    (ht : target pa = .glob) : Reach st x va n w pa key p :=
  And.intro h (And.intro hx fun o off e => by rw [ht] at e; cases e)

/-- The last doubleword of the page. -/
theorem witness_loads :
    let st := tMap (tRun 3 0xFF8 0 0 0)
    SlotReady st 0 0 1 ∧ Unwatched st (operands st 3 1) ∧ NotHeld st (ldqCheck st (operands st 3 1)) ∧
      Reach st (operands st 3 1) (operands st 3 1).a.toNat 8 false 0xFF8 0 true :=
  ⟨slotReady_of (by decide +kernel) (by decide +kernel) (by decide +kernel), .inl (by decide +kernel), .inl (by decide +kernel),
   reach_glob (by decide +kernel) (by decide +kernel) (by decide +kernel)⟩

/-- The 64 lanes at the end of the page, consecutive; strided from the start of the page; gathered through o0 as zeros. -/
theorem witness_vectorLoads :
    (let st := tMap (tRun 3 0xF00 0 0 0)
     ∀ j, j < 64 → Reach st (operands st 3 1) (laneAddr st (operands st 3 1) 0 j) 4 false (0xF00 + 4 * j) 0 true) ∧
    (let st := tMap (tRun 3 0 8 0 0)
     ∀ j, j < 64 → Reach st (operands st 3 1) (laneAddr st (operands st 3 1) 1 j) 4 false (8 * j) 0 true) ∧
    (let st := tMap (tRun 3 0xFFC 7 0 0)
     VecSelOk (operands st 3 1).b ∧
       ∀ j, j < 64 → Reach st (operands st 3 1) (laneAddr st (operands st 3 1) 2 j) 4 false 0xFFC 0 true) := by
  refine ⟨?_, ?_, ?_, ?_⟩
  · intro st j hj
    have h : ∀ j, j < 64 → laneAddr st (operands st 3 1) 0 j % 4 = 0 ∧
        xlateOp st (operands st 3 1) (laneAddr st (operands st 3 1) 0 j) false = .ok (0xF00 + 4 * j) 0 true ∧
        target (0xF00 + 4 * j) = .glob := by decide +kernel
    exact reach_glob (h j hj).1 (h j hj).2.1 (h j hj).2.2
  · intro st j hj
    have h : ∀ j, j < 64 → laneAddr st (operands st 3 1) 1 j % 4 = 0 ∧
        xlateOp st (operands st 3 1) (laneAddr st (operands st 3 1) 1 j) false = .ok (8 * j) 0 true ∧
        target (8 * j) = .glob := by decide +kernel
    exact reach_glob (h j hj).1 (h j hj).2.1 (h j hj).2.2
  · show (operands (tMap (tRun 3 0xFFC 7 0 0)) 3 1).b.toNat < 8
    decide +kernel
  · intro j hj
    have h : ∀ j, j < 64 → laneAddr (tMap (tRun 3 0xFFC 7 0 0)) (operands (tMap (tRun 3 0xFFC 7 0 0)) 3 1) 2 j % 4 = 0 ∧
        xlateOp (tMap (tRun 3 0xFFC 7 0 0)) (operands (tMap (tRun 3 0xFFC 7 0 0)) 3 1)
          (laneAddr (tMap (tRun 3 0xFFC 7 0 0)) (operands (tMap (tRun 3 0xFFC 7 0 0)) 3 1) 2 j) false = .ok 0xFFC 0 true ∧
        target 0xFFC = .glob := by decide +kernel
    exact reach_glob (h j hj).1 (h j hj).2.1 (h j hj).2.2

theorem witness_stores :
    let st := tMap (tRun 3 0xFF8 0x1122334455667788 0 0)
    SlotReady st 0 0 1 ∧ Unwatched st (operands st 3 1) ∧ NoCourierRuns st ∧
      Reach st (operands st 3 1) (operands st 3 1).a.toNat 8 true 0xFF8 0 true :=
  ⟨slotReady_of (by decide +kernel) (by decide +kernel) (by decide +kernel), .inl (by decide +kernel),
   show (slotCore _).cp.queues.all _ = true by decide +kernel, reach_glob (by decide +kernel) (by decide +kernel) (by decide +kernel)⟩

/-- Selectors at their bounds: o7 as data, mask m7 (empty after reset) and no mask; consecutive, strided and scattered through o7. -/
theorem witness_vectorStores :
    (let st := tMap (tRun 3 0xF00 0 7 15)
     VecSelOk (operands st 3 1).c ∧ MaskSelOk (operands st 3 1).d) ∧
    (let st := tMap (tRun 3 0xF00 0 7 0)
     VecSelOk (operands st 3 1).c ∧ MaskSelOk (operands st 3 1).d ∧
       ∀ j, j < 64 → Reach st (operands st 3 1) (laneAddr st (operands st 3 1) 0 j) 4 true (0xF00 + 4 * j) 0 true) ∧
    (let st := tMap (tRun 3 0 8 7 0)
     SlotReady st 0 0 1 ∧ ∀ j, j < 64 → Reach st (operands st 3 1) (laneAddr st (operands st 3 1) 1 j) 4 true (8 * j) 0 true) ∧
    (let st := tMap (tRun 3 0xFFC 7 0 0)
     VecSelOk (operands st 3 1).b ∧
       ∀ j, j < 64 → Reach st (operands st 3 1) (laneAddr st (operands st 3 1) 2 j) 4 true 0xFFC 0 true) := by
  refine ⟨⟨?_, .inr ?_⟩, ⟨?_, .inl ?_, ?_⟩, ⟨slotReady_of ?_ ?_ ?_, ?_⟩, ?_, ?_⟩
  · show (operands _ 3 1).c.toNat < 8; decide +kernel
  · decide +kernel
  · show (operands (tMap (tRun 3 0xF00 0 7 0)) 3 1).c.toNat < 8; decide +kernel
  · decide +kernel
  · intro j hj
    have h : ∀ j, j < 64 → laneAddr (tMap (tRun 3 0xF00 0 7 0)) (operands (tMap (tRun 3 0xF00 0 7 0)) 3 1) 0 j % 4 = 0 ∧
        xlateOp (tMap (tRun 3 0xF00 0 7 0)) (operands (tMap (tRun 3 0xF00 0 7 0)) 3 1)
          (laneAddr (tMap (tRun 3 0xF00 0 7 0)) (operands (tMap (tRun 3 0xF00 0 7 0)) 3 1) 0 j) true = .ok (0xF00 + 4 * j) 0 true ∧
        target (0xF00 + 4 * j) = .glob := by decide +kernel
    exact reach_glob (h j hj).1 (h j hj).2.1 (h j hj).2.2
  · decide +kernel
  · decide +kernel
  · decide +kernel
  · intro j hj
    have h : ∀ j, j < 64 → laneAddr (tMap (tRun 3 0 8 7 0)) (operands (tMap (tRun 3 0 8 7 0)) 3 1) 1 j % 4 = 0 ∧
        xlateOp (tMap (tRun 3 0 8 7 0)) (operands (tMap (tRun 3 0 8 7 0)) 3 1)
          (laneAddr (tMap (tRun 3 0 8 7 0)) (operands (tMap (tRun 3 0 8 7 0)) 3 1) 1 j) true = .ok (8 * j) 0 true ∧
        target (8 * j) = .glob := by decide +kernel
    exact reach_glob (h j hj).1 (h j hj).2.1 (h j hj).2.2
  · show (operands (tMap (tRun 3 0xFFC 7 0 0)) 3 1).b.toNat < 8
    decide +kernel
  · intro j hj
    have h : ∀ j, j < 64 → laneAddr (tMap (tRun 3 0xFFC 7 0 0)) (operands (tMap (tRun 3 0xFFC 7 0 0)) 3 1) 2 j % 4 = 0 ∧
        xlateOp (tMap (tRun 3 0xFFC 7 0 0)) (operands (tMap (tRun 3 0xFFC 7 0 0)) 3 1)
          (laneAddr (tMap (tRun 3 0xFFC 7 0 0)) (operands (tMap (tRun 3 0xFFC 7 0 0)) 3 1) 2 j) true = .ok 0xFFC 0 true ∧
        target 0xFFC = .glob := by decide +kernel
    exact reach_glob (h j hj).1 (h j hj).2.1 (h j hj).2.2

theorem witness_AtomicsComplete :
    let st := tMap (tRun 3 0xFF8 1 2 0)
    SlotReady st 0 0 1 ∧ Unwatched st (operands st 3 1) ∧ NoCourierRuns st ∧ NotHeld st (ldqCheck st (operands st 3 1)) ∧
      Reach st (operands st 3 1) (operands st 3 1).a.toNat 8 true 0xFF8 0 true :=
  ⟨slotReady_of (by decide +kernel) (by decide +kernel) (by decide +kernel), .inl (by decide +kernel),
   show (slotCore _).cp.queues.all _ = true by decide +kernel, .inl (by decide +kernel),
   reach_glob (by decide +kernel) (by decide +kernel) (by decide +kernel)⟩

/-- A launch of core 0 and the graph that it belongs to. -/
def tLaunch : LaunchRun :=
  { recAddr := 0x4000, launchid := 0x77, flags := 0, nunit := 2, cores := [0], base := 0, rep := [], udone := 0, ufail := 0, ucanc := 0,
    stata := 0, bal := 0 }

/-- The graph. -/
def tGraph : GraphRun :=
  { graph := 0x3000, ctx := 0x1000, entry := 0x2000, gseq := 3, nph := 1, phase := 0, cores := [0], launches := [tLaunch], snap := [],
    snapSeq := 0, start := 0, replays := 0, budget := none, replay := none, resumed := false, cancelled := false, cut := none,
    stuck := false }

/-- A state whose queue slot 0 is as `f` makes it of a slot that runs the graph, and core 0 of its launch. -/
def tQueue (f : Slot → Slot) (g : Core → Core) (st : State) : State :=
  modSlot (modCore st 0 fun k => g { k with launch := some (0, 0) }) 0 fun s =>
    f { s with state := .running, recAddr := some 0x1800, lastrec := some 0x1800, graph := some tGraph }

/-- The report of an entry of the launch, one that has been reported, and an index that is free in the window. -/
theorem witness_report :
    ∀ r, let st := tQueue id (fun k => { k with reported := r }) (tClose (tSched 1) 0x0D 0x103 0)
     0x0D ∈ [0x0C, 0x0D] ∧ (0 : Nat) < 256 ∧ (coreOf st 0).launch = some (0, 0) ∧ (slotOf st 0).graph = some tGraph ∧
       tGraph.launches[0]? = some tLaunch ∧ ((coreOf st 0).sched[(coreOf st 0).cursor]?).map (·.tidx) = some 5 ∧
       (coreOf st 0).reported = r ∧ tget none tLaunch.rep 5 = none := by decide +kernel

theorem witness_OrderingOperationsComplete :
    (let st := { (modCore (tSlot id) 0 fun k => { k with pubs := [{ id := 4, scope := .s, upto := 0, cmds := [], issued := 3, due := none }] }) with stamp := 5 }
     SlotReady st 0 0 0 ∧ ∀ q ∈ (slotCore st).pubs, q.id < st.stamp) ∧
    SlotReady (tSlot id) 0 0 0 ∧ NotHeld (tSlot id) (vjoinCheck (tSlot id) (operands (tSlot id) 3 0)) ∧
    (let st := tQueue id id (tRun 3 0x5123 0x100000000 0 0)
     let x := operands st 3 1
     x.b.toNat ≤ 2 ^ 32 ∧ rootOf st st.cur = some 0 ∧ 0 < x.b.toNat ∧ (slotCore st).preloads = [] ∧ (slotCore st).accs = [] ∧ (dieOf st (dieIx st.cur)).walks.length < 1024 ∧
       xlate st st.cur (slotCore st).utlb x.lvl (slotCore st).csr.asid 0 (x.a.toNat / 4096 * 4096) false = .miss) :=
  ⟨⟨slotReady_of (by decide +kernel) (by decide +kernel) (by decide +kernel), by decide +kernel⟩,
   slotReady_of (by decide +kernel) (by decide +kernel) (by decide +kernel), .inl (by decide +kernel), by decide +kernel⟩

/-- An access of core 0 to address 64. -/
def tAccess (op : Option AtomOp) (bytes : List Byte) : Access :=
  { id := 4, atomic := op, chunks := [(64, bytes)], keys := [(64, 0)], operand := 5, expected := 0, va := 64, due := 7, issued := 0,
    stamp := 1, afterPub := 0, padded := true, frz := 0, lvl := .t }

theorem witness_StoresAndAtomicsPerform :
    (let a := tAccess none [1, 2]
     let st := modCore State.reset 0 fun k => { k with now := 7, accs := [a] }
     (storesNow st 0).1 = [a] ∧ homeFrozen st 0 a = false ∧ a.atomic.isNone = true ∧ a.due ≤ (coreOf st 0).now ∧
       (64 < 64 ∨ 64 + 2 ≤ 66) ∧ st.host.mkeys = []) ∧
    (let a := tAccess (some .cas) []
     let st := modCore State.reset 0 fun k => { k with now := 7, accs := [a] }
     (withNeeds (coreOf st 0).accs).filter (fun y => y.1.atomic.isSome && pubDone (coreOf st 0) y.1.afterPub && ripe st 0 y) = [(a, some 7)] ∧
       a.chunks = [(64, [])] ∧ st.host.mkeys = []) ∧
    (let a := { tAccess none [3] with id := 5, stamp := 2 }
     let b := { tAccess none [1, 2] with padded := false, due := 9 }
     let st := modCore State.reset 0 fun k => { k with now := 7, accs := [b, a] }
     withNeeds (coreOf st 0).accs = [] ++ (b, some 7) :: [(a, some 7)] ∧ overlaps b a = true ∧ (storesNow st 0).1 = [b, a]) := by
  decide +kernel

theorem witness_LoadDataArrives :
    (let st := modCore State.reset 0 fun k => { k with ldq := [tEntry false 0, tEntry false 9] }
     (coreOf st 0).ldq[1]? = some (tEntry false 9)) ∧
    missed (coreOf (modCore State.reset 0 fun k => { k with accs := [{ tAccess none [1] with frz := 2 }] }) 0) = true ∧
    missed (coreOf (modCore State.reset 0 fun k => { k with now := 7, accs := [tAccess none [1]] }) 0) = true ∧
    missed (coreOf State.reset 0) = false ∧
    overdue (coreOf (modCore State.reset 0 fun k => { k with now := 65536, accs := [{ tAccess none [1] with padded := false }] }) 0) = true ∧
    overdue (coreOf (modCore State.reset 0 fun k => { k with now := 65535, accs := [{ tAccess none [1] with padded := false }] }) 0) = false := by
  decide +kernel

/-- A write of core 0 in the coherence order, and a publish that covers it. -/
def tWrite : WriteRec :=
  { seq := 0, addr := 64, bytes := [1], core := 0, issued := 1, performed := 2, seen := [], pub := none, src := .core, cmd := none, swz := false }

theorem witness_PublishesAndResults :
    (let st := tQueue id (fun k => { k with now := 9, pubs := [{ id := 1, scope := .s, upto := 0, cmds := [], issued := 3, due := some 9 }] })
       { State.reset with wlog := [tWrite], wseq := 1 }
     st.wlog = [tWrite] ∧ (snapOf st 0).2 ≤ tWrite.seq ∧ tWrite.core = 0 ∧ (coreOf st 0).pubs.map (·.due) = [some (coreOf st 0).now] ∧ (coreOf st 0).pubs.map (·.issued) = [3] ∧
       tWrite.issued < 3 ∧ tWrite.cmd = none) ∧
    (let f : Flight := { port := 0x101, val := some (.s 5), flags := 1, rem := 0, lvl := .s, ssid := 0 }
     let st := modCore State.reset 0 fun k => { k with flight := [f] }
     (coreOf st 0).flight = [f] ∧ f.rem = 0 ∧ f.lvl = lvlOf (coreOf st 0) ∧ f.val = some (.s 5) ∧ f.ssid = 0 ∧ 0x0F3 ≤ f.port) ∧
    (∀ l, let f := fun (p : Nat) (v : Word) => ({ port := p, val := some (.s v), flags := 1, rem := 0, lvl := l, ssid := 0 } : Flight)
     let st := modCore State.reset 0 fun k => { (if l = .t then tUser k else k) with flight := [f 0x0F0 5, f 0x0F0 6, f 0x101 7] }
     lvlOf (coreOf st 0) = l ∧ (∀ x ∈ (coreOf st 0).flight, x.rem = 0 ∧ x.val.isSome = true ∧ x.ssid = 0 ∧ x.lvl = l ∧ 0x0F0 ≤ x.port) ∧
       (coreOf st 0).flight = [f 0x0F0 5] ++ f 0x0F0 6 :: [f 0x101 7] ∧ (∀ x ∈ [f 0x101 7], x.port ≠ 0x0F0)) := by
  refine ⟨by decide +kernel, by decide +kernel, fun l => ?_⟩
  cases l <;> decide +kernel


/-! ### The vector units -/

theorem ready_one (st : State) (h : slotEnabled (slotCore st) (slotIssue st) 0 0 = true)
    (hs : stopHere (slotIssue st) = none := by decide +kernel) : SlotReady st 0 0 1 :=
  slotReady_of h (fun e => absurd e (by decide)) (fun e => absurd e (by decide)) hs

/-- No mask, the masks at both ends of the file; the last lane. -/
theorem witness_VectorIntegerResults :
    (let st := tRun 4 0 63 0 8
     SlotReady st 0 0 1 ∧ MaskSelOk (operands st 4 1).a ∧ (operands st 4 1).b.toNat < 64 ∧ MaskSelOk (operands st 4 1).d) ∧
    (let st := tRun 5 15 8 0 15
     SlotReady st 0 0 1 ∧ MaskSelOk (operands st 5 1).a ∧ MaskSelOk (operands st 5 1).b ∧ MaskSelOk (operands st 5 1).d) :=
  ⟨⟨ready_one _ (by decide +kernel), .inl (by decide +kernel), by decide +kernel, .inr (by decide +kernel)⟩,
   ready_one _ (by decide +kernel), .inr (by decide +kernel), .inr (by decide +kernel), .inr (by decide +kernel)⟩

theorem witness_VectorFloatResults :
    (let st := tRun 4 0 0 0 4
     SlotReady st 0 0 1 ∧ (operands st 4 1).d.toNat ≤ 4) :=
  ⟨ready_one _ (by decide +kernel), by decide +kernel⟩

/-- cvt from FP32 to bfloat16; pack of 16-bit elements in the last place; unpack of the last 64 bytes. -/
theorem witness_ConversionResults :
    (let st := tRun 4 0 0x010 0x010 0
     let x := operands st 4 1
     SlotReady st 0 0 1 ∧ cvtCtlOk x.b.toNat = true ∧ x.b.toNat % 16 ≠ 8 ∧ x.b.toNat / 16 % 16 ≠ 8) ∧
    (let st := tRun 4 0 0 0x000 0
     let w := (operands st 4 1).c.toNat
     SlotReady st 0 0 1 ∧ w / 256 = 0 ∧ w / 4 % 4 = 0 ∧ w % 4 < 3 ∧ w / 16 % 16 < 16 / elemWidth (w % 4)) ∧
    (let st := tRun 5 0 0 0x032 0
     let w := (operands st 5 1).c.toNat
     SlotReady st 0 0 1 ∧ w / 256 = 0 ∧ w / 4 % 4 = 0 ∧ w % 4 < 3 ∧ w / 16 % 16 + 1 = 16 / elemWidth (w % 4)) ∧
    (let st := tRun 5 0 192 0x101 0
     let x := operands st 5 1
     SlotReady st 0 0 1 ∧ x.c.toNat / 512 = 0 ∧ x.c.toNat / 4 % 64 = 0 ∧ x.c.toNat % 4 < 3 ∧
       x.b.toNat + 64 = 2048 / elemWidth (x.c.toNat % 4)) :=
  ⟨⟨ready_one _ (by decide +kernel), by decide +kernel⟩, ⟨ready_one _ (by decide +kernel), by decide +kernel⟩,
   ⟨ready_one _ (by decide +kernel), by decide +kernel⟩, ready_one _ (by decide +kernel), by decide +kernel⟩

theorem witness_SpecialFunctionResults :
    SlotReady (tRun 6 0 0 0 0) 0 0 1 ∧ (0x7F800000 < (0xFFC00000 : Lane).toNat % 2 ^ 31) ∧
    (specialRows.any fun r => r.2.2.2.2.2) = true ∧ 0x80000000 < (0xFF7FFFFF : Lane).toNat ∧ (0xFF7FFFFF : Lane).toNat < 0xFF800000 :=
  ⟨ready_one _ (by decide +kernel), by decide, by decide, by decide, by decide⟩

/-- A vector of canonical NaNs as the source of a reduction, and zeros; the legal selectors of shuf at both ends; the modes of rng;
the bounds of dropm. -/
theorem witness_ReductionAndDrawResults :
    (let st := tSlot fun k => { k with files := { k.files with v := tset 0 k.files.v 0 (ofLanes (List.replicate 64 0x7FC00000)) } }
     SlotReady st 0 0 0x080 ∧ ∀ j, j < 64 → isNan (fp32.toNum (laneOf (operands st 6 0x080).va j).toNat) = true) ∧
    (let st := tRun 6 0 0 0x0005 0
     SlotReady st 0 0 1 ∧ ShufOk (operands st 6 1).c ∧ (operands st 6 1).b.toNat = 0 ∧
       isNan (fp32.toNum (laneOf (operands st 6 1).va 63).toNat) = false) ∧
    (let st := tRun 6 0 1 0x3F04 0
     SlotReady st 0 0 1 ∧ ShufOk (operands st 6 1).c ∧ (operands st 6 1).b.toNat = 1) ∧
    (let st := tRun 6 0 2 0 0
     SlotReady st 0 0 1 ∧ (operands st 6 1).b.toNat = 2) ∧
    (let st := tRun 6 0 0x10000 0 1
     SlotReady st 0 0 1 ∧ (operands st 6 1).b.toNat ≤ 0x10000 ∧ (operands st 6 1).d.toNat ≤ 1) := by
  refine ⟨⟨slotReady_of (by decide +kernel) (by decide +kernel) (by decide +kernel), ?_⟩, ⟨ready_one _ ?_, ?_, ?_⟩,
    ⟨ready_one _ ?_, ?_, ?_⟩, ⟨ready_one _ ?_, ?_⟩, ready_one _ ?_, ?_⟩
  case refine_3 => unfold ShufOk; decide +kernel
  case refine_6 => unfold ShufOk; decide +kernel
  all_goals decide +kernel

/-! ### The engines at issue -/

/-- A state with an address of the graph's own scratchpad: page 0x1000 maps the start of core 0's window. -/
def tScr (st : State) : State :=
  let st := modDie st 0 fun x => { x with tlb := [tPage, { tPage with vbase := 0x1000, pte := 0x0010C000000000D9 }] }
  tQueue id id { st with host := { st.host with mkeys := [(0, some 1)] } }

/-- A stream of 64 elements, the ports of unit 8, and the pages. -/
def tSs (a b c : Word) : State :=
  tScr (modCore (tRun 8 a b c 0) 0 fun k => { k with ss := { k.ss with desc :=
    [(0, some { first := 0, rows := 2, n := 64, f := 0, unit := true, gain := 0, eps := 0 })] } })

/-- A full-size image at the end of the scratchpad for each operation, the extremes of the one-field words, a queue with room. -/
theorem witness_MatrixSlotsComplete :
    (let st := tRun 7 (3145728 - 128 * 576) 0 0 0
     SlotReady st 0 0 1 ∧ (slotCore st).mx.queue.length < 8 ∧
       mxRegion (operands st 7 1).a.toNat (128 * imgBytes (wfmtAfter (slotCore st).mx)) = true) ∧
    (let st := tRun 7 0x010 (3145728 - 512) 0 0
     SlotReady st 0 0 1 ∧ (operands st 7 1).a.toNat / 32 = 0 ∧ imgPasses ((operands st 7 1).a.toNat % 16) ≠ 0 ∧
       (operands st 7 1).a.toNat / 16 % 2 = 1 ∧ mxRegion (operands st 7 1).b.toNat 512 = true) ∧
    (let st := tRun 7 2 0 0 0
     SlotReady st 0 0 1 ∧ (operands st 7 1).a.toNat ≤ 2 ∧ (operands st 7 1).a.toNat < 2 ^ 63 ∧
       (operands st 7 1).a.toNat / 2 ^ 22 = 0) ∧
    (let st := tRun 7 (3145728 - 576) 0 0 0
     let b := (operands st 7 1).b.toNat
     SlotReady st 0 0 1 ∧ (operands st 7 1).a.toNat % 64 = 0 ∧ strmCtlOk b = true ∧
       mxRegion (operands st 7 1).a.toNat (strmBytes b (modeAfter (slotCore st).mx).1 (modeAfter (slotCore st).mx).2) = true) ∧
    (let st := tRun 7 0 0x080 0 0
     SlotReady st 0 0 1 ∧ drainCtlOk (operands st 7 1).b.toNat = true ∧ drFn (operands st 7 1).b.toNat < 8 ∧
       drDst (operands st 7 1).b.toNat = 1 ∧ mxRegion ((operands st 7 1).a.toNat % 2 ^ 22)
         ((drNr (operands st 7 1).b.toNat + 1) * drStride (operands st 7 1).b.toNat) = true) ∧
    (let st := tRun 7 0 0x000010000000000 0 0
     SlotReady st 0 0 1 ∧ drainCtlOk (operands st 7 1).b.toNat = true ∧ drFn (operands st 7 1).b.toNat = 8 ∧
       drDst (operands st 7 1).b.toNat = 0 ∧ mxRegion (drZoff (operands st 7 1).b.toNat)
         ((drNr (operands st 7 1).b.toNat + 1) * drZstride (operands st 7 1).b.toNat) = true) ∧
    (let st := tRun 7 (0x8000000000000000 + 3145728 - 4096) 0 0 0
     SlotReady st 0 0 1 ∧ 2 ^ 63 ≤ (operands st 7 1).a.toNat ∧ ((operands st 7 1).a.toNat - 2 ^ 63) / 2 ^ 22 = 0 ∧
       mxRegion ((operands st 7 1).a.toNat % 2 ^ 22) 4096 = true) ∧
    (let st := tRun 7 255 0 0 0
     SlotReady st 0 0 1 ∧ (operands st 7 1).a.toNat < 256) ∧
    (let st := tRun 7 (3145728 - 576) 0 0 0
     SlotReady st 0 0 1 ∧ (operands st 7 1).b.toNat / 2 ^ 16 = 0 ∧ (operands st 7 1).b.toNat / 16 % 16 = 0 ∧
       imgPasses ((operands st 7 1).b.toNat % 16) ≠ 0 ∧ mxRegion (operands st 7 1).a.toNat (imgBytes ((operands st 7 1).b.toNat % 16)) = true) ∧
    (let st := tRun 7 (3145728 - 128) 0 0 0
     SlotReady st 0 0 1 ∧ mxRegion (operands st 7 1).a.toNat 128 = true) := by
  refine ⟨⟨ready_one _ ?_, ?_⟩, ⟨ready_one _ ?_, ?_⟩, ⟨ready_one _ ?_, ?_⟩, ⟨ready_one _ ?_, ?_⟩, ⟨ready_one _ ?_, ?_⟩,
    ⟨ready_one _ ?_, ?_⟩, ⟨ready_one _ ?_, ?_⟩, ⟨ready_one _ ?_, ?_⟩, ⟨ready_one _ ?_, ?_⟩, ready_one _ ?_, ?_⟩ <;>
  decide +kernel

/-- The checks of each operation pass: the stream's last element, its last row, a free descriptor, an aligned block and barrier. -/
theorem witness_StreamSlotsComplete :
    (let st := tSs 15 0x03F 0x2FFC0 ; let x := operands st 8 1
     SlotReady st 0 0 1 ∧ trigSalloc.check st x = .ok) ∧
    (let st := tSs 0 0x8000000000000000 0 ; let x := operands st 8 1
     SlotReady st 0 0 1 ∧ trigSgain.check st x = .ok) ∧
    (let st := tSs 0 0x7F7FFFFF 0 ; let x := operands st 8 1
     SlotReady st 0 0 1 ∧ trigSeps.check st x = .ok) ∧
    (let st := tSs 0x0001003F 0 7 ; let x := operands st 8 1
     SlotReady st 0 0 1 ∧ trigSadd.check st x = .ok ∧ trigSsub.check st x = .ok ∧ trigSrdn.check st x = .ok) ∧
    (let st := tSs 0x00010000 0xFC0 0x1FF0 ; let x := operands st 8 1
     SlotReady st 0 0 1 ∧ trigSrho.check st x = .ok ∧ trigSwrap.check st x = .ok) ∧
    (let st := tSs 0x00010000 0 0x1FF0 ; let x := operands st 8 1
     SlotReady st 0 0 1 ∧ trigSevict.check st x = .ok ∧ trigSrestore.check st x = .ok ∧ trigSview.check st x = .ok) ∧
    (let st := tSs 16 0 0 ; let x := operands st 8 1
     SlotReady st 0 0 1 ∧ x.a.toNat ≤ 16 ∧ fenceCheck st x 0 16 = .ok ∧ fenceCheck st x 1 16 = .ok ∧ fenceCheck st x 2 16 = .ok) := by
  refine ⟨⟨ready_one _ ?_, ?_⟩, ⟨ready_one _ ?_, ?_⟩, ⟨ready_one _ ?_, ?_⟩, ⟨ready_one _ ?_, ?_⟩, ⟨ready_one _ ?_, ?_⟩,
    ⟨ready_one _ ?_, ?_⟩, ready_one _ ?_, ?_⟩ <;> decide +kernel

/-- A shape record of one element at local offset 0, the ports of unit 9. -/
def tCp (a b c d : Word) : State :=
  tScr (modCore (tRun 9 a b c d) 0 fun k => { k with views := { k.views with swz := [(9, 1), (16, 1)] } })

/-- The checks of each command pass, with no barrier and with the last one of the scratchpad; each register of the Sorter at a bound;
the last channel, queue and pointer. -/
theorem witness_CourierSlotsComplete :
    (let st := tCp 0 0 0 7 ; let x := operands st 9 1
     SlotReady st 0 0 1 ∧ cpCheck 0x04 st x = .ok ∧ cpCheck 0x0A st x = .ok ∧ cpCheck 0x0B st x = .ok ∧
       (queueOf (slotCore st) 7).ring = 0 ∧ (queueOf (slotCore st) 7).aux = 0 ∧ (queueOf (slotCore st) 7).recAddr = 0) ∧
    (let st := tCp 0x8000000000000000 0 0x80000000002FFFF0 3 ; let x := operands st 9 1
     SlotReady st 0 0 1 ∧ cpCheck 0x05 st x = .ok) ∧
    (let st := tCp 0 0x10000 0 0 ; let x := operands st 9 1
     SlotReady st 0 0 1 ∧ cpCheck 0x07 st x = .ok) ∧
    (let st := tCp 0x0001001100000000 0 0 0 ; let x := operands st 9 1
     SlotReady st 0 0 1 ∧ cpCheck 0x0C st x = .ok) ∧
    (let st := tCp 40 0xFFFFFF 0 0 ; let x := operands st 9 1
     SlotReady st 0 0 1 ∧ x.a.toNat = 8 * 5 ∧ x.b.toNat < 2 ^ 24) ∧
    (let st := tCp 41 0xFFFFFF8000000000 0 0 ; let x := operands st 9 1
     SlotReady st 0 0 1 ∧ x.a.toNat = 8 * 5 + 1 ∧ FitsSigned 40 x.b) ∧
    (let st := tCp 2 0x0000007FFFFFFFFF 0 0 ; let x := operands st 9 1
     SlotReady st 0 0 1 ∧ x.a.toNat = 8 * 0 + 2 ∧ FitsSigned 40 x.b) ∧
    (let st := tCp 48 0x80000000003FFFFF 0 0 ; let x := operands st 9 1
     SlotReady st 0 0 1 ∧ x.a.toNat = 48 ∧ formOk x.b.toNat = true) ∧
    (let st := tCp 3 0 0 0 ; let x := operands st 9 1
     SlotReady st 0 0 1 ∧ x.a.toNat < 4 ∧ x.b.toNat ≤ (tget 0 (slotCore st).cp.wp 3).toNat ∧ (slotCore st).cp.landed = []) ∧
    (let st := tCp 7 0 0 0 ; let x := operands st 9 1
     SlotReady st 0 0 1 ∧ x.a.toNat < 8) := by
  refine ⟨⟨ready_one _ ?_, ?_⟩, ⟨ready_one _ ?_, ?_⟩, ⟨ready_one _ ?_, ?_⟩, ⟨ready_one _ ?_, ?_⟩, ⟨ready_one _ ?_, ?_⟩,
    ⟨ready_one _ ?_, ?_, ⟨0x8000000000, ?_⟩⟩, ⟨ready_one _ ?_, ?_, ⟨0x7FFFFFFFFF, ?_⟩⟩, ⟨ready_one _ ?_, ?_⟩, ⟨ready_one _ ?_, ?_⟩,
    ready_one _ ?_, ?_⟩ <;> decide +kernel

/-- A flit of tag 9 in the last position of the last port, on the die of core 0. -/
def tPigeon (st : State) : State :=
  modDie st 0 fun x => { x with pigeon := [((3 * 2 + 1) * 64 + 63, { valid := true, tag := 9, data := 5 })] }

/-- The last barrier of the page, each operation at the bound of its count; the tick counters; the last position of a port. -/
theorem witness_BarrierAndPigeonholeSlots :
    (let st := tScr (tRun 10 0x1FF0 0xFFFFFF 0 0) ; let x := operands st 10 1
     SlotReady st 0 0 1 ∧ x.b.toNat < 2 ^ 24 ∧ BarReach st x x.a.toNat true 0xC00000000FF0) ∧
    (let st := tScr (tRun 10 0x1FF0 0xFFFFFFFF 0 0) ; let x := operands st 10 1
     SlotReady st 0 0 1 ∧ x.b.toNat < 2 ^ 32 ∧ BarReach st x x.a.toNat true 0xC00000000FF0 ∧
       BarReach st x x.a.toNat false 0xC00000000FF0 ∧ target 0xC00000000FF0 = .scratch st.cur 0xFF0) ∧
    (let st := tScr (tRun 10 0xFFFFFFFF 1 0x1000 0) ; let x := operands st 10 1
     SlotReady st 0 0 1 ∧ BarReach st x x.c.toNat false 0xC00000000000 ∧ barUnder (observedBar st st.cur 0xC00000000000) = false ∧
       0 ≤ serial (barGen (observedBar st st.cur 0xC00000000000)) ((x.a.toNat + x.b.toNat) % 2 ^ 32)) ∧
    (let st := modDie (tRun 10 7 0 0 0) 0 fun y => { y with atick := 7 } ; let x := operands st 10 1
     SlotReady st 0 0 1 ∧ x.a.toNat ≤ (dieOf st (dieIx st.cur)).atick ∧
       (dieOf st (dieIx st.cur)).atick ≤ x.a.toNat + (slotCore st).csr.devctl.toNat / 2 ^ 16 % 2 ^ 16) ∧
    (SlotReady (tRun 10 1 0 0 0) 0 0 1 ∧ (operands (tRun 10 0 0 0 0) 10 1).a = 0 ∧ (operands (tRun 10 1 0 0 0) 10 1).a = 1) ∧
    (let st := tRun 10 0x80000000002FFFC0 0x1FF 1 0 ; let x := operands st 10 1
     SlotReady st 0 0 1 ∧ st.cur < 768 ∧ trigPhsend.check st x = .ok) ∧
    (let st := tPigeon (tRun 10 0x80000000002FFFC0 0x3FF 9 0) ; let x := operands st 10 1
     SlotReady st 0 0 1 ∧ st.cur < 768 ∧ trigPhrecv.check st x = .ok) := by
  refine ⟨⟨ready_one _ ?_, ?_, ?_, ⟨0, true, ?_⟩, 0, 0xFF0, ?_⟩,
    ⟨ready_one _ ?_, ?_, ⟨?_, ⟨0, true, ?_⟩, 0, 0xFF0, ?_⟩, ⟨?_, ⟨0, true, ?_⟩, 0, 0xFF0, ?_⟩, ?_⟩,
    ⟨ready_one _ ?_, ⟨?_, ⟨0, true, ?_⟩, 0, 0, ?_⟩, ?_, ?_⟩, ⟨ready_one _ ?_, ?_⟩, ⟨ready_one _ ?_, ?_⟩, ⟨ready_one _ ?_, ?_⟩,
    ready_one _ ?_, ?_⟩ <;> decide +kernel

/-- A card of one element at the last cache line of core 0's scratchpad, the ports of unit 11, a routine bank of the launch. -/
def tFl (a b : Word) : State :=
  let st := tQueue id id (tRun 11 a b 0 0)
  modBank (perform st 0 (0xC00000000000 + 0x2FFFC0 + 56) [1] 0 [(0, 0)] none .core none) 0 7 fun x => { x with holder := some (0, 0) }

/-- A card and an image in the last line, the last slot; a card that has completed; each selector of fjstat. -/
theorem witness_FullerSlotsComplete :
    (let st := tFl 0x80000000002FFFC0 15 ; let x := operands st 11 1
     SlotReady st 0 0 1 ∧ (slotCore st).issue = some (slotIssue st) ∧ 2 ^ 63 ≤ x.a.toNat ∧ (x.a.toNat - 2 ^ 63) / 2 ^ 22 = 0 ∧
       x.a.toNat % 2 ^ 22 + 64 ≤ scratchBytes ∧ x.a.toNat % 2 ^ 22 % 64 = 0 ∧
       cardBad (viewRead st st.cur (slotIssue st).stamp (windowBase st.cur + x.a.toNat % 2 ^ 22) 64) = false ∧
       (dieOf st (dieIx st.cur)).fq.length < 64 ∧ x.b.toNat < 16 ∧ (bankOf st st.cur).isSome = true) ∧
    (let st := tFl 0xFFFFFFFF 0 ; let x := operands st 11 1
     SlotReady st 0 0 1 ∧ serial (x.a.toNat % 2 ^ 32) ((slotCore st).fl.next - 1).toNat ≤ 0 ∧
       serial (x.a.toNat % 2 ^ 32) (slotCore st).fl.last.toNat ≤ 0) ∧
    (SlotReady (tFl 0 0) 0 0 1 ∧ (operands (tFl 0 0) 11 1).a = 0) ∧ (SlotReady (tFl 1 0) 0 0 1 ∧ (operands (tFl 1 0) 11 1).a = 1) ∧
    (SlotReady (tFl 2 0) 0 0 1 ∧ (operands (tFl 2 0) 11 1).a = 2) ∧ (SlotReady (tFl 3 0) 0 0 1 ∧ (operands (tFl 3 0) 11 1).a = 3) := by
  refine ⟨⟨ready_one _ ?_, ?_⟩, ⟨ready_one _ ?_, ?_⟩, ⟨ready_one _ ?_, ?_⟩, ⟨ready_one _ ?_, ?_⟩, ⟨ready_one _ ?_, ?_⟩,
    ready_one _ ?_, ?_⟩ <;> decide +kernel

/-- A Fuller at the first and at the last word of its routine; the largest sum with an error that kadd can give, and one without. -/
theorem witness_FullerOperations :
    (∃ r, (placeFuller State.reset 0).turn = .fuller 0 ∧ (0 : Nat) < 4 ∧ (dieOf (placeFuller State.reset 0) 0).frun = some r ∧ r.word < 15) ∧
    (let st := modDie (placeFuller State.reset 0) 0 fun x => { x with frun := x.frun.map fun r => { r with word := 15, f := [(1, 0x7F800000)] } }
     ∃ r, st.turn = .fuller 0 ∧ (0 : Nat) < 4 ∧ (dieOf st 0).frun = some r ∧ 15 ≤ r.word ∧
       isInf (fp32.toNum (roundFmt fp32 false 0 0 (.num (addN false (fp32.toNum (tget 0 r.f 0).toNat) (fp32.toNum (tget 0 r.f 1).toNat)).1)).1) = true ∧
       isInf (fp32.toNum (roundFmt fp32 false 0 0 (.num (addN false (fp32.toNum (tget 0 r.f 0).toNat) (fp32.toNum (tget 0 r.f 2).toNat)).1)).1) = false) :=
  ⟨⟨_, by decide +kernel, by decide, rfl, by decide⟩, _, by decide +kernel, by decide, rfl, by decide, by decide +kernel, by decide +kernel⟩

/-! ### The engines at work -/

/-- Core 0 after reset, changed. -/
def tCore (f : Core → Core) : State := modCore State.reset 0 f

/-- Core 0 with a stream store. -/
def tStore (f : Store → Store) : State := modDie (tCore fun k => { k with now := 9, ss := f { k.ss with desc :=
  [(0, some { first := 0, rows := 2, n := 64, f := 0, unit := true, gain := 0, eps := 0 })] } }) 0 fun x => { x with dtick := 9 }

/-- A pending operation of the stream store. -/
def tOp (op : Nat) (a b c : Word) : SsOp :=
  { id := 1, op := op, due := 9, a := a, b := b, c := c, data := 0xFFFFFFFF, lvl := .s, seed := 0, spans := [], tb := 0 }

/-- A block command of the stream engine with a one-line envelope. -/
def tEng (pos : Nat) : SsEng :=
  { op := 0x0C, rowAddr := 0, va := 0, spans := [(64, 0, 64)], tb := 0, bytes := List.replicate 64 3, pos := pos, acted := 8, stamp := 0,
    lvl := .s, cmd := 1, flags := 0, n := 0, f := 0 }

theorem witness_StreamStoreActs :
    (let k := coreOf (tStore fun s => { s with ops := [tOp 0x05 0x0001003F 0x58400 0] }) 0
     ∃ d, k.ss.ops = [tOp 0x05 0x0001003F 0x58400 0] ∧ (tOp 0x05 0x0001003F 0x58400 0).due ≤ k.now ∧
       (0x58400 : Word).toNat % 64 = 0 ∧ (0x58400 : Word).toNat / 2 ^ 15 % 16 = 0xB ∧ descOf k.ss (sidOf 0x0001003F) = some d) ∧
    (let f : Flit := { sid := 0, row := 1, el := 63, fmt := 9, rm := 0, sub := true, data := [0, 0, 0, 0, 0, 0x80], core := 0, acc := 8 }
     let k := coreOf (tStore fun s => { s with dieQ := [f] }) 0
     ∃ d, k.ss.dieQ = [f] ∧ k.ss.pkgQ = [] ∧ f.acc < (dieOf (tStore fun s => { s with dieQ := [f] }) 0).dtick ∧ f.fmt = 9 ∧ f.data.length = 6 ∧ descOf k.ss f.sid = some d ∧
       f.row < d.rows ∧ f.el < d.n) ∧
    (let o := tOp 0x04 15 0x03F 0x2FFC0
     (coreOf (tStore fun s => { s with ops := [o] }) 0).ss.ops = [o] ∧ o.due ≤ 9 ∧ o.b.getLsbD 22 = false) ∧
    (let st := tStore fun s => { s with eng := [tEng 0] }
     enginesStopped (coreOf st 0) = false ∧ (coreOf st 0).ss.eng = [tEng 0] ∧ (tEng 0).acted < (coreOf st 0).now ∧ (tEng 0).pos < engBlocks (tEng 0) ∧
       homeAway st (spanAt (tEng 0).spans (64 * engBlockAt (tEng 0) 0)).1 = false ∧ st.host.mkeys = []) ∧
    (enginesStopped (coreOf (tStore fun s => { s with eng := [tEng 1] }) 0) = false ∧
      (coreOf (tStore fun s => { s with eng := [tEng 1] }) 0).ss.eng = [tEng 1] ∧ engBlocks (tEng 1) ≤ (tEng 1).pos ∧ (tEng 1).op ≠ 0x0D) :=
  ⟨⟨_, by decide +kernel, by decide +kernel, by decide +kernel, by decide +kernel, rfl⟩, ⟨_, rfl, rfl, by decide +kernel, rfl, rfl, rfl, by decide, by decide⟩,
   by decide +kernel, by decide +kernel, by decide +kernel⟩

/-- An array command. -/
def tCmd (op : Nat) (a b : Word) : MxCmd :=
  { id := 1, op := op, a := a, b := b, tag := 5, trig := 3, scaleMin := 0, lvl := .s, seed := 0, tidx := 0 }

/-- An array command that has started. -/
def tMxRun (op : Nat) (b : Word) (len : Nat) : MxRun :=
  { cmd := tCmd op 0 b, start := 4, len := len, images := [], images2 := [], edges := [], follow := false, mode := .fwd, err := 0 }

/-- A row of a drain of FP32 to the scratchpad. -/
def tRow : DrainRow := { cmd := tCmd 0x0A 0 0x080, i := 0, due := 4, pairs := [], der := [], dfn := 0 }

/-- Core 0 in its fourth tick with an array. -/
def tMx (f : Mx → Mx) : State := tCore fun k => { k with run := .run, now := 4, mx := f k.mx }

theorem witness_MatrixArrayActs :
    (let k := coreOf (tMx fun m => { m with queue := [tCmd 0x09 0 0] }) 0
     k.mx.queue = [tCmd 0x09 0 0] ∧ k.mx.running = none ∧ k.run = .run ∧ (tCmd 0x09 0 0).trig < k.now ∧ (tCmd 0x09 0 0).op ≠ 0x0D ∧
       (tCmd 0x09 0 0).op ≠ 0x08) ∧
    (let k := coreOf (tMx fun m => { m with running := some (tMxRun 0x0B 0 1) }) 0
     k.mx.running = some (tMxRun 0x0B 0 1) ∧ 4 + 1 ≤ k.now + 1) ∧
    (let k := coreOf (tMx fun m => { m with scales := [(4, 3145728 - 128)] }) 0
     k.mx.scales = [(4, 3145728 - 128)] ∧ 4 ≤ k.now ∧ 3145728 - 128 + 128 ≤ scratchBytes) ∧
    (let k := coreOf (tMx fun m => { m with running := some (tMxRun 0x0A 0x088 128) }) 0
     k.mx.running = some (tMxRun 0x0A 0x088 128) ∧ k.now - 4 ≤ drNr 0x088 ∧ (0x088 : Word).getLsbD 3 = true) ∧
    (let k := coreOf (tMx fun m => { m with rows := [tRow] }) 0
     enginesStopped k = false ∧ k.mx.rows = [tRow] ∧ tRow.due ≤ k.now ∧ drDst tRow.cmd.b.toNat = 1 ∧ (drainBytes tRow).1.length = 512) ∧
    (let m := (coreOf (tMx fun m => { m with arriving := [tCmd 0x08 0 0], follow := List.replicate 8 { tCmd 0x08 0 0 with tag := 4 } }) 0).mx
     m.arriving = [tCmd 0x08 0 0] ∧ m.follow.any (·.tag == 5) = false ∧ 8 ≤ m.follow.length) ∧
    (let m := (coreOf (tMx fun m => { m with arriving := [tCmd 0x08 0 0], follow := [tCmd 0x08 0 0] }) 0).mx
     m.arriving = [tCmd 0x08 0 0] ∧ m.follow.any (·.tag == 5) = true) ∧
    (let m := (coreOf (tMx fun m => { m with arriving := [tCmd 0x08 0 0] }) 0).mx
     m.arriving = [tCmd 0x08 0 0] ∧ m.follow.any (·.tag == 5) = false ∧ m.follow.length < 8) := by decide +kernel

/-- A stream of 127 vectors to rows 1 to 127 that ends, in each mode; finite numbers for a pair, with a sum within its range and one
beyond; the first and the last row of a wld; the first and a later pass of a stream. -/
theorem witness_MatrixArrayActs_streams :
    (∀ mode, let r := { tMxRun 0x08 0x3F80 1 with mode := mode }
     let k := coreOf (tMx fun m => { m with running := some r }) 0
     k.mx.running = some r ∧ r.start + r.len ≤ k.now + 1 ∧ r.err = 0 ∧ r.cmd.op = 0x08 ∧ r.mode = mode ∧ k.mx.sparse = false ∧
       strmRow 0x3F80 = 1 ∧ strmVc 0x3F80 = 126) ∧
    (let s : Machine.Num := .fin false (2 ^ 27 - 1) 229
     isNan s = false ∧ isInf s = false ∧ isInf (a36RN (addN false s (a36RN s)).1) = true ∧
       isInf (a36RN (addN false s (a36RN numZero)).1) = false) ∧
    (let y := (mxTryStart (coreOf (tMx fun m => { m with queue := [{ tCmd 0x04 0 0 with trig := 3 }] }) 0)).mx
     (y.running.map fun r => (r.err, 4 - r.start, r.cmd.op)) = some (0, 0, 0x04)) ∧
    (let r := tMxRun 0x04 0 128
     (mxTryStart { coreOf (tMx fun m => { m with running := some r }) 0 with now := 131 }).mx.running = some r ∧ r.err = 0 ∧ 131 - r.start = 127) ∧
    (let r := { tMxRun 0x08 0x3F80 762 with images := [[1]] }
     (mxTryStart { coreOf (tMx fun m => { m with running := some r }) 0 with now := 9 }).mx.running = some r ∧ r.err = 0 ∧ r.mode ≠ .wgrad ∧
       (4 - r.start) % imgPasses 0 = 0 ∧ 0 < (9 - r.start) % imgPasses 0 ∧ 9 - r.start < r.len ∧ r.images = [] ++ [[1]]) := by
  refine ⟨fun mode => ?_, by decide +kernel⟩
  cases mode <;> decide +kernel

/-- A copy of one FP32 element from local offset 64 to local offset 128; as an add, to element 0 of stream 0. -/
def tCp1 (op : Nat) (dest : Word) : CpCmd :=
  { id := 1, op := op, dest := dest, tb := 0, ctl := 0, aux := [64, 0, 0, 0, 0, 0, 0, 0x80, 0, 1] ++ List.replicate 6 0 ++ [1] ++ List.replicate 47 0,
    dst := [], stamp := 0, asid := 0, keyid := 0, lvl := .t, issued := 0, cap := none }

/-- A cpymx of 128 FP32 elements into a plane image at local offset 128. -/
def tCpx : CpCmd :=
  { id := 1, op := 0x05, dest := 0x8000000000000080, tb := 0, ctl := 0x10000,
    aux := [64, 0, 0, 0, 0, 0, 0, 0x80, 0, 1] ++ List.replicate 6 0 ++ [128] ++ List.replicate 47 0,
    dst := [], stamp := 0, asid := 0, keyid := 0, lvl := .t, issued := 0, cap := none }

/-- Its run. -/
def tRun1 : CpRun := { start := 0, elem := 0, landed := 0, flags := 0, next := 0, n := 64 }

/-- Core 0 with a queue 0 that is as `f` changes it. -/
def tQ (f : Queue → Queue) : State :=
  tCore fun k => { modQueue k 0 f with run := .run, now := 16 }

/-- Page tables for address 0 of a root at 0x10000, the context at 0x1000. -/
def tTables : Memory :=
  memWrite (memWrite (memWrite (memWrite (memWrite [] 0x1000 (leBytes 8 0x10000)) 0x10000 (leBytes 8 0x11001)) 0x11000 (leBytes 8 0x12001))
    0x12000 (leBytes 8 0x13001)) 0x13000 (leBytes 8 0x00100000000000D9)

/-- Commands to start, a line and a flit to land, and a queue that has halted, whose record lies at address 16. -/
theorem witness_CouriersAct :
    (let k := coreOf (tQ fun x => { x with cmds := [tCp1 0x04 0] }) 0
     let x := queueOf k 0
     let st := tQ fun x => { x with cmds := [tCp1 0x04 0] }
     (liveQueue st 0 0).cmds = [tCp1 0x04 0] ∧ x.running = none ∧ x.faulted = false ∧ k.run = .run ∧ k.mx.arriving = [] ∧
       (headCmd (syncQueue st 0 0) 0 0 (tCp1 0x04 0)).toOption = some (tCp1 0x04 0)) ∧
    (let st := tQ fun x => { x with cmds := [tCp1 0x04 0x8000000000000080], running := some tRun1 }
     let k := coreOf st 0
     let m := tCp1 0x04 0x8000000000000080
     startedOf (queueOf k 0) = some (m, tRun1) ∧ (queueOf k 0).faulted = false ∧ m.op ≠ 0x0A ∧ cmdPlanes m = false ∧ k.run = .run ∧ k.resident = true ∧
       st.host.mkeys = [] ∧ (queueOf k 0).recAddr = 0 ∧ (0 : Word).toNat % 4096 + 64 ≤ 4096 ∧
       dstAddr m 0 % 4096 + (unitOut st 0 m 0).1.length ≤ 4096 ∧ landXlate st 0 0 m (dstAddr m 0) = .ok 0xC00000000080 0 true ∧
       landCores 0 m = [0] ∧ dstSwizzled m = false ∧
       tRun1.next ≤ cpNow st 0 0 ∧ atomsAhead k m = false ∧
       firstFind ((lineUnits m 0).flatMap (findSrc st 0 m) ++ (lineUnits m 0).flatMap (findDst st 0 m)
         ++ findBar st 0 m (decide (landUnits m ≤ 0 + (lineUnits m 0).length))) = .ok ∧
       tRun1.start + (landCores 0 m).foldl (fun y o => max y (cpLat 0 (landXlate st 0 o m (dstAddr m 0)))) 0 ≤ cpNow st 0 0 ∧
       landUnits m ≤ 0 + (lineUnits m 0).length) ∧
    (let st := tQ fun x => { x with cmds := [tCp1 0x0A 0], running := some tRun1 }
     let k := coreOf st 0
     let m := tCp1 0x0A 0
     startedOf (queueOf k 0) = some (m, tRun1) ∧ (queueOf k 0).faulted = false ∧ k.run = .run ∧ tRun1.next ≤ cpNow st 0 0 ∧
       atomsAhead k m = false ∧ cpaddTarget m.dest.toNat = 0 ∧ tRun1.start + 12 ≤ cpNow st 0 0 ∧ k.resident = true ∧ ctxSuspended st 0 = false ∧
       k.ss.dieQ.length < 16 ∧ firstFind ((flitUnits m 64 0).flatMap (findSrc st 0 m)
         ++ findBar st 0 m (decide (srcUnits m ≤ 0 + (flitUnits m 64 0).length))) = .ok) ∧
    (let st := tQ fun x => { x with cmds := [tCpx], running := some tRun1 }
     let srcs := (List.range (unitsPerImage tCpx)).map (0 / (imgBytes (cmdFmt tCpx) / 64) * unitsPerImage tCpx + ·)
     startedOf (queueOf (coreOf st 0) 0) = some (tCpx, tRun1) ∧ cmdPlanes tCpx = true ∧ atomsAhead (coreOf st 0) tCpx = false ∧
       firstFind (srcs.flatMap (findSrc st 0 tCpx) ++ (lineUnits tCpx 0).flatMap (findDst st 0 tCpx)
         ++ findBar st 0 tCpx (decide (landUnits tCpx ≤ 0 + (lineUnits tCpx 0).length))) = .ok ∧
       0 + (lineUnits tCpx 0).length < landUnits tCpx ∧
       tRun1.start + (landCores 0 tCpx).foldl (fun y o => max y (cpLat 0 (landXlate st 0 o tCpx (dstAddr tCpx 0)))) 0 ≤ cpNow st 0 0 ∧
       dstSwizzled tCpx = true ∧ landCores 0 tCpx = [0] ∧ target 0xC00000000080 = .scratch 0 128 ∧
       landXlate st 0 0 tCpx (dstAddr tCpx 0) = .ok 0xC00000000080 0 true ∧
       dstAddr tCpx 0 % 4096 + (unitOut st 0 tCpx 0).1.length ≤ 4096) ∧
    (let st := tQueue id id { tQ (fun x => { x with faulted := true, recAddr := 16 }) with mem := tTables }
     let b := (readRecord st 0 16 64).getD []
     (queueOf (coreOf st 0) 0).faulted = true ∧ courierGone (coreOf st 0) = false ∧ (readRecord st 0 16 64).isSome = true ∧ (field b 17 1).testBit 0 = false ∧
       queueBad b = false) := by decide +kernel

theorem ok_of {e a : Type} {x : Except e a} {y : a} (h : x.toOption = some y) : x = .ok y := by
  cases x <;> simp_all [Except.toOption]

/-- A run of a Fuller. -/
def tFlRun : FlRun :=
  { core := 0, seq := 1, card := (List.range 64).map fun i => if i = 56 then 1 else 0, grp := List.replicate 64 0, stamp := 0, asid := 0,
    keyid := 0, lvl := .t, bank := some 0, b1 := 0, b2 := 0, i := 1, word := 0, f := [], flags := 1, wrote := 0, inElem := false,
    halted := none, finished := false, hyp := [] }

/-- Die 0 after reset, changed. -/
def tDie (f : Die → Die) : State := modDie (tCore fun k => { k with run := .run }) 0 f

theorem witness_FullersAct :
    (let x := dieOf (tDie fun x => { x with fq := [.card 0 1 [] 0 0 0 .t none] }) 0
     x.frun = none ∧ x.fq = [.card 0 1 [] 0 0 0 .t none] ∧ (coreOf (tDie id) 0).run = .run) ∧
    (let x := dieOf (tDie fun x => { x with frun := some tFlRun }) 0
     x.frun = some tFlRun ∧ tFlRun.grp ≠ [] ∧ cardCount tFlRun.card ≤ tFlRun.i ∧ cardApply tFlRun.card = false ∧
       cardStops (coreOf (tDie fun x => { x with frun := some tFlRun }) tFlRun.core) tFlRun = false) ∧
    (let x := dieOf (tDie fun x => { x with fq := [.prog 0 0 15 (List.replicate 64 0) (some 7)] }) 0
     x.frun = none ∧ x.fq = [.prog 0 0 15 (List.replicate 64 0) (some 7)] ∧ routineOk (List.replicate 64 0) = true ∧
       routineOk (List.replicate 64 0xFF) = false) ∧
    (let r := { tFlRun with halted := some 8 }
     let st := tQueue id id { tDie (fun x => { x with frun := some r }) with mem := tTables }
     let st := { st with host := { st.host with mkeys := [(0, some 1)] } }
     let e : TlbEntry := { asid := 0, vbase := 0, size := 4096, pte := 0x00100000000000D9 }
     (dieOf st 0).frun = some r ∧ rootOf st 0 = some 0x10000 ∧
       walk st.mem 0x10000 0 8 (haltDirty st r 8) = .ok (e, 0x13000, 0x00100000000000D9) ∧
       checkEntry st 0 .t 0 e 8 (haltWrites r) = .ok 8 0 true) :=
  ⟨by decide +kernel, by decide +kernel, by decide +kernel, by decide +kernel, by decide +kernel, ok_of (by decide +kernel), by decide +kernel⟩

/-- Core 0 held at a phrecv of tag 5 at position 0, for longer than ALN_OVR. -/
def tHeld : State :=
  modDie (tCore fun k => { k with
    files := { k.files with g := [(5, 0x8000000000000000)] }, ports := { k.ports with sOp := [(41, 0x200), (42, 5)] }
    code := [(0, bundleWith 0x178C)], run := .run
    held := some { since := 0, first := 0, slot := 0, cause := .phrecv, budget := 0 } }) 0 fun x => { x with dtick := 0x101 }

/-- The operands of that phrecv. -/
def tHeldArgs : Args := argsOf 0 (coreOf tHeld 0) (freshIssue (coreOf tHeld 0)) 10 (.s 0x8000000000000000)

/-- Position 0 of the pigeonholes of die 0, changed. -/
def tPos (tag : BitVec 32) : State := modDie tHeld 0 fun x => { x with pigeon := [(0, { valid := true, tag := tag, data := 0 })] }

theorem witness_PigeonholesAct :
    (let f : PhFlit := { port := 3, par := 1, pos := 63, tag := 9, data := 5, due := 0 }
     (dieOf (tDie fun x => { x with phFlits := [f] }) 0).phFlits = [f] ∧ f.due ≤ refTick (tDie fun x => { x with phFlits := [f] })) ∧
    (heldBy (coreOf tHeld 0) .phrecv = true ∧ heldCheck tHeld 0 = .fault 26 0 0) ∧
    heldBy (coreOf State.reset 0) .phrecv = false ∧
    (phSample tHeld 0 tHeldArgs.b.toNat).map (·.valid) = [false] ∧ alnOvr (coreOf tHeld 0) < phHeldFor tHeld 0 ∧
    (phSample (tPos 5) 0 tHeldArgs.b.toNat).map (fun p => (p.valid, p.tag.toNat)) = [(true, tHeldArgs.c.toNat)] ∧
    (let st := modDie tHeld 0 fun x => { x with dtick := 0x100 }
     (phSample st 0 tHeldArgs.b.toNat).map (·.valid) = [false] ∧ phHeldFor st 0 ≤ alnOvr (coreOf st 0)) ∧
    (let old := wrap 32 (((dieOf (tPos 5) 0).atick : Int) - 2 ^ 30)
     serial (5 : BitVec 32).toNat old ≥ 0 ∧ serial (0xBFFFFFFF : BitVec 32).toNat old < 0) ∧
    (phSample (tPos 6) 0 tHeldArgs.b.toNat).map (fun p => (p.valid, decide (0 ≤ serial p.tag.toNat 5))) = [(true, true)] ∧
    (phSample (tPos 4) 0 tHeldArgs.b.toNat).map (fun p => (p.valid, decide (serial p.tag.toNat 5 < 0))) = [(true, true)] := by
  decide +kernel

/-- The last expected arrival and unit, one decrement too many, an update that had UNDER set, and one update that arrives. -/
theorem witness_BarriersUpdate :
    (let old := 1 * 2 ^ 32 + 1 * 2 ^ 64
     let l := [BarKind.arr 1, .exp 2, .dec 3]
     old < 2 ^ 128 ∧ (∀ u ∈ l, ∀ v, u ≠ .init v) ∧ 1 ≤ barArrv old ∧ 3 ≤ barSect old + 2 ∧ barSect old + 2 - 3 < 2 ^ 32 ∧
       barUnder old = false ∧ barArrv old = 1 ∧ barSect old + 2 = 3) ∧
    ((∀ u ∈ [BarKind.dec 1], ∀ v, u ≠ .init v) ∧ barSect 0 + 0 < 1 ∧ barUnder (2 ^ 56) = true ∧ (2 ^ 24 - 1 < 2 ^ 24)) ∧
    (let u : BarUpd := { kind := .arr 1, addr := 0xC00000000FF0, due := 0, afterPub := 0, cmd := 0, stamp := 0 }
     barArrivals (tCore fun k => { k with bups := [u] }) 0 = [(0, u)]) ∧
    (let st := modCore (tScr (tLow 10 1 0 0x1000 0)) 0 fun k => k
     let st := { st with mem := memPut st.mem 0xC00000000007 1 }
     let x := operands st 10 1
     SlotReady st 0 0 1 ∧ lvlOf (slotCore st) = .t ∧ BarReach st x x.c.toNat false 0xC00000000000 ∧
       target 0xC00000000000 = .scratch 0 0 ∧ homeHeld st 0 = false ∧ barUnder (observedBar st st.cur 0xC00000000000) = true) ∧
    ((2 ^ 24 - 1 < 2 ^ 24) ∧ ∀ u ∈ [BarKind.arr 1] ++ [.dec 1], ∀ w, u ≠ .init w) ∧
    (let r : BarRec := { addr := 0xC00000000FF0, tick := 0, before := 0, told := [] }
     let st := modDie { State.reset with bars := [r] } 0 fun x => { x with dtick := 1 }
     st.bars = [r] ∧ r.tick + gwDelay 0 r.addr ≤ (dieOf st (homeDie r.addr)).dtick) :=
  ⟨⟨by decide, fun u h v e => by subst e; simp at h, by decide⟩, ⟨fun u h v e => by subst e; simp at h, by decide⟩, by decide +kernel,
   ⟨ready_one _ (by decide +kernel), by decide +kernel, ⟨by decide +kernel, ⟨0, true, by decide +kernel⟩, 0, 0, by decide +kernel⟩,
    by decide +kernel⟩, ⟨by decide, fun u h v e => by subst e; simp at h⟩, by decide +kernel⟩

theorem witness_DieEvents :
    (coreOf (tCore fun k => { k with freeze := 1 }) 0).freeze = 1 ∧
    (let w : Walk := { root := 0x10000, asid := 0, va := 0, writers := [{ core := 0, lvl := .t, key := 0 }], req := [], fill := [], asked := 0, rank := 0, due := some 0 }
     let st := modDie { State.reset with mem := tTables } 0 fun x => { x with walks := [w] }
     (dieOf st 0).walks = [w] ∧ (∀ y ∈ st.cores, dieIx y.1 = 0 → y.2.preloads = []) ∧ w.due = some 0 ∧
       walk st.mem w.root w.asid w.va (walkDirty st w) =
         .ok ({ asid := 0, vbase := 0, size := 4096, pte := 0x00100000000000D9 }, 0x13000, 0x00100000000000D9)) ∧
    (dieOf (tDie fun x => { x with up := 8 }) 0).up.getLsbD 3 = true ∧
    (∀ bad, let b : Beacon := { port := 3, due := 0, dval := 7, est := none, bad := bad }
     (dieOf (tDie fun x => { x with beacons := [b] }) 0).beacons = [b] ∧ b.due ≤ 0) ∧
    (let x := dieOf (tDie fun x => { x with est := [(3, { val := 0, valid := true, age := 256, stale := false })] }) 0
     (estOf x 3).stale = false ∧ 256 ≤ (estOf x 3).age) ∧
    (let s : Shootdown := { gen := 1, asid := 0, all := true, g := true, va := 0, len := 0, waits := [(0, 4)], due := 0 }
     let st := tDie fun x => { x with shoots := [s] }
     (dieOf st 0).shoots = [s] ∧ s.due ≤ (dieOf st 0).dtick ∧ shootDone st s = true) ∧
    stubBusy State.reset 0 = false ∧ dieIx 191 = 0 ∧
    stubDeferred (coreOf (modCore State.reset 191 fun k => { k with run := .run, launch := some (0, 0) }) 191) = true ∧
    (let st := tQueue id id { tDie (fun x => { x with dbg := { x.dbg with buffer := [{ postmark := true, bytes := [1] }], trasid := 0, pksize := 16 } }) with
       mem := memWrite tTables 0x1808 (leBytes 8 0x1000) }
     let st := { st with host := { st.host with mkeys := [(0, some 1)] } }
     (dieOf st 0).dbg.buffer = [{ postmark := true, bytes := [1] }] ∧ (ringXlate st 0 (ringNext (dieOf st 0).dbg true)).isSome = true) ∧
    (∀ y ∈ (tDie id).cores, dieIx y.1 = 0 → y.2.copies = []) ∧
    (modHost (tDie id) fun h => { h with fatal := some 0 }).host.fatal.isSome = true ∧
    (let st := tCore fun k => { k with copies := [(0xC00000000FC0, List.replicate 64 5, 3)] }
     (coreOf st 0).copies = [(0xC00000000FC0, List.replicate 64 5, 3)] ∧ dieIx 0 = 0 ∧ st.host.fatal = none ∧
       ∀ y ∈ st.cores, dieIx y.1 = 0 → y.1 ≠ 0 → y.2.copies = []) :=
  ⟨by decide +kernel, ⟨by decide +kernel, by decide +kernel, by decide +kernel, ok_of (by decide +kernel)⟩, by decide +kernel⟩

/-- Page tables that map the first GiB with one leaf. -/
def tBig : Memory :=
  memWrite (memWrite (memWrite [] 0x1000 (leBytes 8 0x10000)) 0x10000 (leBytes 8 0x11001)) 0x11000 (leBytes 8 0x00100000000000D9)

/-- Core 0 of the graph's launch, stopped in the state `r`, with a frame at 0x40000 below `lim`. -/
def tPark (r : RunState) (lim : Word) : State :=
  tQueue id id (modCore { State.reset with mem := tBig, host := { State.reset.host with mkeys := [(0, some 1)] } } 0 fun k =>
    { k with run := r, csr := { k.csr with savebase := 0x40000, savelim := lim } })

/-! ### The Postmaster, suspension, debug -/

/-- Slot 7 in a state, with a record at 0x1800. -/
def tS (x : SlotState) (f : Slot → Slot) : State :=
  modSlot { State.reset with host := { State.reset.host with locked := true } } 7 fun s => f { s with state := x, recAddr := some 0x1800 }

/-- The records of a graph of one phase, of one launch, of one unit on core 0: ring 0x2000 of two entries, context 0x1000, graph
0x3000, launch 0x4000, schedules 0x5000, images 0x6000. -/
def tRecords : Memory :=
  let w := fun (m : Memory) (a n v : Nat) => memWrite m a (leBytes n v)
  let m := w (w (w (w tBig 0x1800 8 0x2000) 0x1808 8 0x1000) 0x1810 1 1) 0x1812 1 1
  let m := w (w (w m 0x2000 1 1) 0x2008 8 0x3000) 0x2010 6 3
  let m := w (w (w (w m 0x3000 2 1) 0x3020 1 1) 0x3080 8 0x4000) 0x3088 2 1
  let m := w (w (w (w m 0x4008 4 1) 0x4028 8 0x5000) 0x4032 3 0x010101) 0x4048 4 1
  w (w (w m 0x4068 8 0x6000) 0x5000 4 64) 0x5004 4 1

/-- Die 0 with every core placed. -/
def tPlaced (st : State) : State := modDie st 0 fun x => { x with remap := (List.range 192).map fun i => (i, BitVec.ofNat 16 (0x8000 + i)) }

/-- A slot for each command, mapped at HEAD 0 and TAIL 1, and with the graph. -/
theorem witness_slotCommands :
    ((tS .unmapped id).host.locked = true ∧ (tS .unmapped id).host.service = none ∧ (slotOf (tS .unmapped id) 7).state = .unmapped) ∧
    State.reset.host.locked = false ∧ (slotOf State.reset 255).state = .unmapped ∧
    ((slotOf (tS .mapped id) 7).state = .mapped ∧ (slotOf (tS .mapped id) 7).recAddr = some 0x1800) ∧
    (slotOf (tS .draining id) 7).state = .draining ∧ (slotOf (tS .bound id) 7).state = .bound ∧
    (slotOf (tQueue id id State.reset) 0).state = .running ∧ (slotOf (tQueue id id State.reset) 0).graph = some tGraph ∧
    ((2 : BitVec 32) - (slotOf (tS .mapped id) 7).head).toNat ≤ ringSize { tS .mapped id with mem := tRecords } 0x1800 ∧
    ringSize { tS .mapped id with mem := tRecords } 0x1800 < ((3 : BitVec 32) - (slotOf (tS .mapped id) 7).head).toNat := by
  decide +kernel

theorem witness_directoryScan :
    let st := { State.reset with pm := { State.reset.pm with dirlen := 1, dirbase := 64 }, mem := memWrite (memWrite [] 64 (leBytes 8 0x1800)) 0x1812 [3] }
    st.pm.slots = [] ∧ st.pm.dirlen = 1 ∧ st.host.service = none ∧ memNat st.mem st.pm.dirbase.toNat 8 = 0x1800 ∧
      memNat st.mem (0x1800 + 18) 1 % 4 = 3 := by decide +kernel

theorem witness_selectionRound :
    let st := { tS .mapped (fun s => { s with tail := 1 }) with mem := tRecords }
    let s := slotOf st 7
    st.pm.slots = [(7, s)] ∧ s.state = .mapped ∧ s.recAddr = some 0x1800 ∧ eligible st s = true ∧
      selectedOk st s (graphAtHead st s 0x1800) = true := by decide +kernel

theorem witness_queueSignal :
    let st := { tS .mapped (fun s => { s with tail := 1 }) with mem := memWrite (memWrite tRecords 0x2000 [2]) 0x2008 (leBytes 8 0x2020) }
    let s := slotOf st 7
    let e := entryAt st 0x1800 s.head.toNat
    s.state = .mapped ∧ s.recAddr = some 0x1800 ∧ s.head ≠ s.tail ∧ queueRecOk st 0x1800 = true ∧ entryOk st e = true ∧
      memNat st.mem e 1 = 2 ∧ e + 32 ≤ memNat st.mem (e + 8) 8 := by decide +kernel

theorem witness_bind :
    let g := graphAtHead { State.reset with mem := tRecords } Slot.reset 0x1800
    let st := tPlaced { tS .selected (fun s => { s with tail := 1, graph := some g }) with mem := tRecords }
    let s := slotOf st 7
    s.state = .selected ∧ s.graph = some g ∧ setFree st 7 g = true ∧ g.resumed = false ∧ bindRefused (toState st 7 .bound) g = none := by
  decide +kernel

/-- A schedule entry. -/
def tEnt (i : Nat) : SchedEntry := { tidx := i, tx := 0, ty := 0, tz := 0, entry := 0 }

theorem witness_launches :
    (let st := tQueue id (fun k => { k with run := .ready, sched := [tEnt 0] }) State.reset
     (slotOf st 0).graph = some tGraph ∧ holding (slotOf st 0) = true ∧ tGraph.replay = none ∧ 0 ∈ phaseCores tGraph ∧
       startsNow st tGraph.start 0 = true ∧ (firstEntry (coreOf st 0)).isSome = true) ∧
    (let l := { tLaunch with rep := [(0, some 0x103)] }
     let g := { tGraph with launches := [l] }
     (slotOf (tQueue (fun s => { s with graph := some g }) id State.reset) 0).graph = some { g with launches := [l] } ∧
       [l][0]? = some l ∧ tget none l.rep l.base = some 0x103 ∧ tget none l.rep (l.base + 1) = none ∧ (0x103 : BitVec 16).getLsbD 8 = true) := by
  decide +kernel

theorem witness_phaseEnd :
    let g := { tGraph with launches := [{ tLaunch with udone := 2 }] }
    let st := tQueue (fun s => { s with graph := some { g with replays := 0 } }) (fun k => { k with run := .ended }) State.reset
    (slotOf st 0).graph = some g ∧ holding (slotOf st 0) = true ∧ phaseOver st g = true ∧ g.cancelled = false ∧ g.nph ≤ g.phase + 1 ∧
      (slotOf st 0).recAddr = some 0x1800 ∧ (slotOf st 0).unmapPending = false := by decide +kernel

theorem witness_preemptBudget :
    let g := { tGraph with budget := some 0 }
    let st := tQueue (fun s => { s with state := .draining, graph := some { g with replays := 0 } }) id State.reset
    (slotOf st 0).state = .draining ∧ (slotOf st 0).graph = some g ∧ g.budget = some 0 ∧ 0 ≤ refTick st := by decide +kernel

/-- A unit that no cursor has reached, by its unit, launch and phase; the graph by its sequence number; the job by the context. -/
theorem witness_QueuesAndCancels :
    (let st := tQueue id (fun k => { k with run := .run, sched := [tEnt 0, tEnt (2 ^ 24 - 1)] }) State.reset
     let s := slotOf st 0
     holding s = true ∧ s.graph = some tGraph ∧ tGraph.launches = [tLaunch] ∧ tLaunch.cores = [0] ∧ (coreOf st 0).run ≠ .ended ∧
       (coreOf st 0).sched[1]? = some (tEnt (2 ^ 24 - 1)) ∧ (coreOf st 0).cursor < 1 ∧ 2 ^ 24 - 1 ∉ (coreOf st 0).cancelled ∧
       (0x77FFFFFF : Word).toNat = tLaunch.launchid.toNat % 2 ^ 40 * 2 ^ 24 + (2 ^ 24 - 1) ∧ (0x77 : Word) = tLaunch.launchid ∧
       (0x30000 : Word) = phaseIdOf tGraph ∧ tGraph.gseq.toNat = (3 : Word).toNat ∧ tGraph.launches ≠ []) ∧
    (let st := tQueue id (fun k => { k with run := .run, sched := [{ tEnt 0 with entry := 9 }, tEnt 0] }) { State.reset with mem := tRecords }
     (coreOf st 0).sched[1]? = some (tEnt 0) ∧ tEnt 0 ∈ lrSched st tLaunch.recAddr 0 ∧
       (0x77000000 : Word).toNat = tLaunch.launchid.toNat % 2 ^ 40 * 2 ^ 24 + (tEnt 0).tidx) ∧
    (let st := { tS .mapped id with mem := memWrite tRecords 0x1010 (leBytes 8 9) }
     st.pm.slots = [(7, slotOf st 7)] ∧ (slotOf st 7).state = .mapped ∧ (slotOf st 7).graph = none ∧
       memNat st.mem (recCtx st 0x1800 + 16) 8 = (9 : Word).toNat) ∧
    State.reset.pm.slots = [] := by decide +kernel

/-- A graph whose phase is to replay for the first time, and one that has failed three times. -/
def tReplay (n : Nat) : GraphRun := { tGraph with replay := some 26, replays := n }

theorem witness_SuspensionAndReplay :
    (settledCore (tPark .parking 0x80000) 0 = true ∧ (coreOf (tPark .parking 0x80000) 0).run = .parking) ∧
    (let st := modCore (tPark .parking 0x80000) 0 fun k => { k with accs := [tAccess none [1]] }
     settledCore st 0 = false ∧ (coreOf st 0).run = .parking) ∧
    (let st := modDie (modCore (tCore fun k => { k with run := .run, csr := { k.csr with xstat := 0 } }) 191
         fun k => { k with resident := false, run := .ready }) 0
       fun x => { x with remap := [(0, 0xC005), (191, 0xC005)] }
     partnerOf st 0 = some 191 ∧ waitsForTurn st 191 = true ∧ (coreOf st 0).resident = true ∧ (coreOf st 0).run = .run ∧
       (coreOf st 0).issue = none ∧ (coreOf st 0).reenter = none ∧ lvlOf (coreOf st 0) = .t) ∧
    (let st := tQueue (fun s => { s with graph := some (tReplay 0) }) (fun k => { k with run := .run, accs := [tAccess none [1]] }) State.reset
     (slotOf st 0).graph = some (tReplay 0) ∧ (tReplay 0).replay.isSome = true ∧ holding (slotOf st 0) = true ∧
       replayQuiet (stopForReplay st (phaseCores (tReplay 0))) (phaseCores (tReplay 0)) = false) ∧
    (let st := tQueue (fun s => { s with graph := some (tReplay 3) }) (fun k => { k with run := .replay }) State.reset
     (slotOf st 0).graph = some (tReplay 3) ∧ holding (slotOf st 0) = true ∧ 3 ≤ (tReplay 3).replays ∧
       replayQuiet (stopForReplay st (phaseCores (tReplay 3))) (phaseCores (tReplay 3)) = true ∧
       (slotOf st 0).recAddr = some 0x1800 ∧ (slotOf st 0).unmapPending = false ∧ 0x1800 + 64 ≤ (tReplay 3).entry ∧
       recCtx st 0x1800 + 128 ≤ (tReplay 3).entry) ∧
    (tPark .saveFailed 0).pm.slots.length = 1 ∧ (coreOf (tPark .saveFailed 0) 0).run = .saveFailed ∧
    lvlOf (coreOf (tPark .saveFailed 0) 0) = .s ∧ (coreOf (tPark .saveFailed 0) 0).launch = some (0, 0) ∧ 768 ≤ (768 : Word).toNat % 1024 := by
  decide +kernel

/-- A parked core with a frame of regions 1 to 3 that restores. -/
theorem witness_resume :
    let b : List Byte := [1, 0, 1, 1, 0x80, 1] ++ List.replicate 42 0 ++ leBytes 4 (crc32c (List.replicate 320 0)) ++ List.replicate 12 0
    let st := perform (tPark .parked 0) 0 0x40000 b 0 [(0, 0)] none .core none
    (coreOf st 0).launch = some (0, 0) ∧ (coreOf st 0).run = .parked ∧ (restoreFrame st 0 1).1 = .ok := by decide +kernel

/-- A module whose debug feature is locked in, with core 0 in the launch. -/
def tDebug (f : Core → Core) (command : BitVec 32) : State :=
  let st := tQueue id f { State.reset with host := { State.reset.host with feat := [(0, 0x3F0001)] } }
  modDie st 0 fun x => { x with dbg := { x.dbg with hartsel := 0, command := command } }

theorem witness_DebugCore :
    (hartExists (tDebug id 0) 0 = true ∧
      (coreOf (tDebug (fun k => { k with run := .halted }) 0) 0).run = .halted ∧ (coreOf (tDebug id 0) 0).dbg.rgroup = 0) ∧
    (let st := modDie (tDebug (fun k => { k with run := .run, dbg := { k.dbg with haltAt := some 1 } }) 0) 0 fun x => { x with dtick := 1 }
     (coreOf st 0).dbg.haltAt = some 1 ∧ 1 ≤ (dieOf st (dieIx 0)).dtick ∧ (coreOf st 0).run = .run ∧ (coreOf st 0).issue = none ∧
       (coreOf st 0).reenter = none) ∧
    (let st := modDie (tDebug (fun k => { k with run := .run, reenter := some (0x81, none), dbg := { k.dbg with haltAt := some 1 } }) 0) 0
       fun x => { x with dtick := 1 }
     (coreOf st 0).dbg.haltAt = some 1 ∧ 1 ≤ (dieOf st (dieIx 0)).dtick ∧ (coreOf st 0).run = .run ∧ (coreOf st 0).issue = none ∧
       (coreOf st 0).reenter = some (0x81, none)) ∧
    (let st := tDebug (fun k => { k with run := .halted }) 0
     (dieOf st 0).dbg.cmderr = 0 ∧ (dieOf st 0).dbg.hartsel < 192 ∧ hartExists st 0 = true ∧ (coreOf st 0).run = .halted) ∧
    (hartExists State.reset 0 = false) ∧
    (let legal := fun (x : Nat) => x / 2 ^ 24 = 0 ∧ x / 2 ^ 20 % 8 = 3 ∧ x.testBit 18 = false
     (0x01000000 / 2 ^ 24 ≠ 0 ∧ 0x00200000 / 2 ^ 20 % 8 ≠ 3) ∧
     (legal 0x0032FFFF ∧ (0x0032FFFF).testBit 17 = true ∧ dbgReg (0x0032FFFF % 2 ^ 16) = none) ∧
     (legal 0x00330060 ∧ dbgReg (0x00330060 % 2 ^ 16) = some (.csr 0x060)) ∧ (legal 0x00330083 ∧ dbgReg (0x00330083 % 2 ^ 16) = some (.csr 0x083)) ∧
     (legal 0x0032107F ∧ (0x0032107F).testBit 16 = false ∧ (dbgReg (0x0032107F % 2 ^ 16)).isSome = true) ∧
     (legal 0x0033107F ∧ (0x0033107F).testBit 17 = true ∧ (0x0033107F).testBit 16 = true ∧ 0x0033107F % 2 ^ 16 = 0x1000 + 127)) := by
  decide +kernel

/-! ### The host complex, Post, the machine -/

theorem witness_KeysAndFeatures :
    State.reset.host.locked = false ∧ (tS .mapped id).host.locked = true ∧ State.reset.host.attReq = none ∧
    ({ State.reset.host with attReq := some (3, []) }).attReq.isSome = true ∧
    State.reset.host.keyRun = none ∧
    (let s := { tDie id with host := { State.reset.host with keyRun := some (0, true, (1023 : BitVec 10).toNat, none) } }
     s.host.keyRun.isSome = true ∧ s.host.keyRun = some (0, true, (1023 : BitVec 10).toNat, none) ∧ 0 ≤ refTick s) ∧
    (let s := { tDie id with host := { State.reset.host with keyRun := some (10 ^ 9, false, (0 : BitVec 10).toNat, some 1) } }
     s.host.keyRun = some (10 ^ 9, false, (0 : BitVec 10).toNat, some 1) ∧ refTick s < 10 ^ 9) ∧
    ((coreOf (tDie id) 0).ldq = [] ∧ (coreOf (tDie id) 0).sbank.ldq = []) ∧
    (let s := { tDie id with host := { State.reset.host with attReq := some (0, [1]) } }
     s.host.attReq = some (0, [1]) ∧ 0 ≤ refTick s) ∧
    ({ State.reset.host with nonce := List.replicate 48 7 }).nonce.length = 48 := by decide +kernel

/-- A governor's die at each limit, with a TIMED launch bound and without one. -/
theorem witness_PowerBootAndReset :
    ((∀ d, d < 4 → ([114, 105, 106] : List Nat).getD d 0 < 115) ∧ ∃ d, d < 4 ∧ 105 < ([114, 105, 106] : List Nat).getD d 0) ∧
    timedBound State.reset = false ∧
    (let g := { tGraph with launches := [{ tLaunch with flags := 1 }] }
     let st := tQueue (fun s => { s with graph := some { g with replays := 0 } }) id State.reset
     timedBound st = true ∧ st.host.overFor < 1999 ∧ timedBound { st with host := { st.host with overFor := 1999 } } = true) ∧
    ¬ (3600 < 3600 ∨ ∃ d, d < 4 ∧ 105 < ([105, 105, 105, 105] : List Nat).getD d 0) ∧ 115 ≤ ([0, 0, 0, 115] : List Nat).getD 3 0 ∧
    State.reset.host.fatal = none ∧ ({ State.reset.host with fatal := some 4 }).fatal.isSome = true ∧
    (coreOf (tQueue id id State.reset) 0).launch.isSome = true ∧
    ({ State.reset with inbox := [(0, .flock), (3, .moduleReset)] } : State).inbox.dropWhile (fun x => x.2 != .moduleReset) = (3, .moduleReset) :: [] := by
  refine ⟨⟨by decide, 0, by decide⟩, ?_⟩
  decide +kernel

/-- A value for each operation code of CMD, each bound of the small registers, and each key command. -/
theorem witness_RegisterWrites :
    (0x100 : Word).toNat % 256 = 0 ∧ (0x1FF : Word).toNat % 256 ≠ 0 ∧
    (1 ≤ (1 : Word).toNat % 32 ∧ (16 : Word).toNat % 32 ≤ 16) ∧ (32 : Word).toNat % 32 = 0 ∧ 16 < (31 : Word).toNat % 32 ∧
    ([0x0, 0x1000000000000000, 0x2000000000000000, 0x3000000000000000, 0x4000000000000000, 0x6000000000000000, 0x7000000000000000,
      0xF000000000000000] : List Word).map (fun v => v.toNat / 2 ^ 60) = [0, 1, 2, 3, 4, 6, 7, 15] ∧
    ([0x5000000000000000, 0x5001000000000000, 0x5002000000000000, 0x5003000000000000, 0x5004000000000000] : List Word).map
      (fun v => (v.toNat / 2 ^ 60, v.toNat / 2 ^ 48 % 16)) = [(5, 0), (5, 1), (5, 2), (5, 3), (5, 4)] ∧
    ([0x4000000000000000, 0x8000000000000000, 0xC000000000000000] : List Word).map (fun v => v.toNat / 2 ^ 62) = [1, 2, 3] ∧ (1 : Word).toNat % 2 = 1 ∧
    State.reset.host.locked = false ∧ (tS .mapped id).host.locked = true := by decide +kernel

/-- Connection 3 with key 7 in slot 5, of the job of the context at 0x1000, with a region and a packet on its way. -/
def tConn : Conn :=
  { kslot := 5, job := 9, peer := 6, expect := 2, nextPsn := 1, unacked := [(0, [1], none)], lastAck := 0,
    regions := [{ handle := 1, base := 0x8000, size := 64, barrier := 0 }], rings := [] }

/-- A module with the connection; features 18 and 19 as `f` says; the queue record of tRecords in the directory. -/
def tPost (f : Word) (m : Memory) : State :=
  { State.reset with
    post := { State.reset.post with conns := [(3, some tConn)] }
    host := { State.reset.host with feat := [(0, f)], pkeys := [(5, some 7)] }
    pm := { State.reset.pm with dirbase := 64, dirlen := 1 }
    mem := memWrite (memWrite m 64 (leBytes 8 0x1800)) 0x1010 (leBytes 8 9) }

/-- A header and payload on connection 3. -/
def tHead (ty psn tgt n : Nat) : List Byte :=
  leBytes 1 1 ++ leBytes 1 ty ++ leBytes 2 5 ++ leBytes 4 3 ++ leBytes 4 psn ++ leBytes 4 n ++ leBytes 8 tgt ++ leBytes 8 0
    ++ List.replicate n 0xAB

/-- The packet under key 7. -/
def tPkt (ty psn tgt n : Nat) : List Byte := tHead ty psn tgt n ++ pktTag 7 3 (field (tHead ty psn tgt n) 8 4) ty (tHead ty psn tgt n)

theorem tPkt_taken (f : Word) (m : Memory) (ty psn tgt n : Nat) (h : signable ty (tHead ty psn tgt n) = true)
    (h' : field (tHead ty psn tgt n) 4 4 = 3 ∧ field (tHead ty psn tgt n) 2 2 = 5) :
    arrival (tPost f m) ty (tPkt ty psn tgt n) = .take 3 tConn ∧ pktPsn (tPkt ty psn tgt n) = field (tHead ty psn tgt n) 8 4 ∧
      pktTgt (tPkt ty psn tgt n) = field (tHead ty psn tgt n) 16 8 ∧ pktLen (tPkt ty psn tgt n) = field (tHead ty psn tgt n) 12 4 := by
  have := arrival_signed (st := tPost f m) (c := tConn) (key := 7) h (by rw [h'.1]; rfl) (by rw [h'.2]; rfl) rfl
  rw [h'.1] at this
  exact this

/-- One entry for the queue, with room and without; for a queue of another job; out of sequence; on no connection; no feature. -/
theorem witness_postCommands :
    (let st := tPost 0x3F0001 tRecords
     ∃ p, feature st 18 = true ∧ arrival st 1 p = .take 3 tConn ∧ pktPsn p = tConn.expect.toNat ∧ pktTgt p = 2 ^ 48 ∧ pktLen p = 64 ∧
       memNat st.mem (st.pm.dirbase.toNat + 8 * 0) 8 = 0x1800 ∧
       0 < st.pm.dirlen.toNat ∧ memNat st.mem (recCtx st 0x1800 + 16) 8 = tConn.job.toNat ∧
       ((queueEnds st 0x1800).2 - (queueEnds st 0x1800).1).toNat + 1 ≤ ringSize st 0x1800 ∧ slotHolding st 0x1800 = none ∧
       0x1800 + 64 ≤ entryAt st 0x1800 (queueEnds st 0x1800).2.toNat) ∧
    (let st := tPost 0x3F0001 (memWrite tRecords 0x181C [2])
     ∃ p, arrival st 1 p = .take 3 tConn ∧ pktTgt p = 2 ^ 48 ∧ memNat st.mem (recCtx st 0x1800 + 16) 8 = tConn.job.toNat ∧
       ringSize st 0x1800 < ((queueEnds st 0x1800).2 - (queueEnds st 0x1800).1).toNat + 1) ∧
    (let st := tPost 0x3F0001 tRecords
     ∃ p, arrival st 1 p = .take 3 tConn ∧ pktTgt p = 2 ^ 48 + 1 ∧ st.pm.dirlen.toNat = 1) ∧
    (let st := tPost 0x3F0001 tRecords
     ∃ p, arrival st 1 p = .take 3 tConn ∧ pktPsn p = 3 ∧ tConn.expect.toNat ≠ 3) ∧
    arrival { tPost 0x3F0001 tRecords with post := State.reset.post } 1 (tHead 1 2 (2 ^ 48) 64 ++ List.replicate 16 0) = .count ∧
    feature (tPost 1 []) 18 = false ∧ feature (tPost 1 []) 19 = false := by
  refine ⟨?_, ?_, ?_, ?_, by decide +kernel⟩
  · obtain ⟨a, b, c, d⟩ := tPkt_taken 0x3F0001 tRecords 1 2 (2 ^ 48) 64 (by decide +kernel) (by decide +kernel)
    exact ⟨_, by decide +kernel, a, b.trans (by decide +kernel), c.trans (by decide +kernel), d.trans (by decide +kernel), by decide +kernel⟩
  · obtain ⟨a, -, c, -⟩ := tPkt_taken 0x3F0001 (memWrite tRecords 0x181C [2]) 1 2 (2 ^ 48) 64 (by decide +kernel) (by decide +kernel)
    exact ⟨_, a, c.trans (by decide +kernel), by decide +kernel⟩
  · obtain ⟨a, -, c, -⟩ := tPkt_taken 0x3F0001 tRecords 1 2 (2 ^ 48 + 1) 64 (by decide +kernel) (by decide +kernel)
    exact ⟨_, a, c.trans (by decide +kernel), by decide +kernel⟩
  · obtain ⟨a, b, -, -⟩ := tPkt_taken 0x3F0001 tRecords 1 3 (2 ^ 48) 64 (by decide +kernel) (by decide +kernel)
    exact ⟨_, a, b.trans (by decide +kernel), by decide +kernel⟩

/-- Data that ends with its region, and one byte beyond; out of sequence; an acknowledgement and a refusal; each on no connection. -/
theorem witness_PostPackets :
    (let st := tPost 0x3F0001 []
     ∃ p, feature st 19 = true ∧ arrival st 2 p = .take 3 tConn ∧ pktPsn p = tConn.expect.toNat ∧ pktTgt p = 2 ^ 40 + 60 ∧ pktLen p = 4 ∧
       tConn.regions.find? (fun x => x.handle == 1) = some { handle := 1, base := 0x8000, size := 64, barrier := 0 }) ∧
    (∃ p, arrival (tPost 0x3F0001 []) 2 p = .take 3 tConn ∧ pktTgt p = 2 ^ 40 + 61 ∧ pktLen p = 4) ∧
    (∃ p, arrival (tPost 0x3F0001 []) 2 p = .take 3 tConn ∧ pktPsn p = 1 ∧ tConn.expect.toNat ≠ 1) ∧
    (∃ p, arrival (tPost 0x3F0001 []) 3 p = .take 3 tConn) ∧ (∃ p, arrival (tPost 0x3F0001 []) 4 p = .take 3 tConn) ∧
    arrival State.reset 2 (tHead 2 2 0 4 ++ List.replicate 16 0) = .count ∧
    arrival State.reset 3 (tHead 3 0 0 0 ++ List.replicate 16 0) = .count ∧
    arrival State.reset 4 (tHead 4 0 0 0 ++ List.replicate 16 0) = .count := by
  refine ⟨?_, ?_, ?_, ?_, ?_, by decide +kernel⟩
  · obtain ⟨a, b, c, d⟩ := tPkt_taken 0x3F0001 [] 2 2 (2 ^ 40 + 60) 4 (by decide +kernel) (by decide +kernel)
    exact ⟨_, by decide +kernel, a, b.trans (by decide +kernel), c.trans (by decide +kernel), d.trans (by decide +kernel), by decide +kernel⟩
  · obtain ⟨a, -, c, d⟩ := tPkt_taken 0x3F0001 [] 2 2 (2 ^ 40 + 61) 4 (by decide +kernel) (by decide +kernel)
    exact ⟨_, a, c.trans (by decide +kernel), d.trans (by decide +kernel)⟩
  · obtain ⟨a, b, -, -⟩ := tPkt_taken 0x3F0001 [] 2 1 (2 ^ 40) 4 (by decide +kernel) (by decide +kernel)
    exact ⟨_, a, b.trans (by decide +kernel), by decide +kernel⟩
  · exact ⟨_, (tPkt_taken 0x3F0001 [] 3 0 0 0 (by decide +kernel) (by decide +kernel)).1⟩
  · exact ⟨_, (tPkt_taken 0x3F0001 [] 4 0 (2 ^ 32) 0 (by decide +kernel) (by decide +kernel)).1⟩

/-- A send ring at 0x9000 whose TAIL word at 0x8FF0 shows one descriptor: four bytes at address 0x200 for region 1. -/
theorem witness_PostSends :
    (let c := { tConn with rings := [{ ring := 0x9000, tailAddr := 0x8FF0, size := 1, taken := 0, core := 0 }] }
     let st := tPark .run 0
     let st := { st with
       post := { st.post with conns := [(3, some c)] }
       host := { st.host with pkeys := [(5, some 7)] }
       mem := memWrite (memWrite (memWrite st.mem 0x8FF0 [1]) 0x9000 (leBytes 8 (2 ^ 40))) 0x9008 (leBytes 8 0x200 ++ leBytes 8 4) }
     let st := modSlot st 0 fun s => { s with graph := s.graph.map fun g => { g with snap := st.mem } }
     let d := (List.range 32).map fun i => publishedByte st 0 (0x9000 + i)
     st.post.conns = [(3, some c)] ∧ publishedNat st 0 0x8FF0 8 = 0 + 1 ∧ postKey st c.kslot = some 7 ∧ field d 16 8 = 4 ∧
       (postRead 0 (pagesOf 4) { st with post := { st.post with lastPoll := refTick st } } (field d 8 8) 4 []).1.isSome = true) ∧
    State.reset.post.conns = [] ∧
    (let st := tPost 1 []
     tget none st.post.conns 3 = some tConn ∧ tConn.unacked ≠ [] ∧ refTick st < tConn.lastAck + 72000 ∧
       tConn.lastAck + 72000 ≤ refTick ([0, 1, 2, 3].foldl (fun y d => modDie y d fun x => { x with dtick := 72000 }) st)) := by decide +kernel

theorem witness_StepKeepsMemory :
    ∃ t, MemorySafe (tRun 1 5 6 0 0) ∧ step (tRun 1 5 6 0 0) = .next t :=
  ⟨_, by show (tRun 1 5 6 0 0).mem.wf = true; decide +kernel, rfl⟩

theorem witness_NoOperationWritesTicks : ∃ w t, encode (.jmp 0 0 0) = .slot w ∧ exec (.jmp 0 0 0) (tSlot id) = .next t := ⟨_, _, rfl, rfl⟩

/-! ### Single steps, with results worked out by hand from the rules -/

/-- The value of the last operation in flight after an instruction on g1 = a and ports b, c, d of a unit. -/
def tVal (i : Instr) (u : Nat) (a b c d : Word) : Option (Option Val × BitVec 8) :=
  (resultAfter (exec i (tRun u a b c d))).map fun x => (x.1, x.2.1)

theorem test_add_wraps : tVal (.add 0 0 1 1) 1 0xFFFFFFFFFFFFFFFF 2 0 0 = some (some (.s 1), 0) := by decide +kernel
theorem test_sub_below_zero : tVal (.sub 0 0 1 2) 2 0 1 0 0 = some (some (.s 0xFFFFFFFFFFFFFFFF), 0) := by decide +kernel
theorem test_mulh_signs : tVal (.mulh 0 0 1 1) 1 0xFFFFFFFFFFFFFFFE 3 0 0 = some (some (.s 0xFFFFFFFFFFFFFFFF), 0) := by decide +kernel
theorem test_shift_by_64 : tVal (.shl 0 0 1 2) 2 5 64 0 0 = some (some (.s 5), 0) := by decide +kernel
theorem test_rol : tVal (.rol 0 0 1 1) 1 0x8000000000000001 4 0 0 = some (some (.s 0x18), 0) := by decide +kernel
theorem test_ctz_of_zero : tVal (.ctz 0 0 1 1) 1 0 0 0 0 = some (some (.s 64), 0) := by decide +kernel
theorem test_div_by_zero : tVal (.div 0 0 1 2) 2 7 0 0 0 = some (some (.s 0xFFFFFFFFFFFFFFFF), 0) := by decide +kernel
theorem test_div_toward_zero : tVal (.div 0 0 1 1) 1 0xFFFFFFFFFFFFFFF9 2 0 0 = some (some (.s 0xFFFFFFFFFFFFFFFD), 0) := by decide +kernel
theorem test_rem_sign : tVal (.rem 0 0 1 1) 1 0xFFFFFFFFFFFFFFF9 2 0 0 = some (some (.s 0xFFFFFFFFFFFFFFFF), 0) := by decide +kernel
theorem test_sext_byte : tVal (.sext 0 0 1 1) 1 0x180 8 0 0 = some (some (.s 0xFFFFFFFFFFFFFF80), 0) := by decide +kernel
theorem test_bfi : tVal (.bfi 0 0 1 1) 1 0xFFFF 0x5 4 4 = some (some (.s 0xFF5F), 0) := by decide +kernel
theorem test_cmplt_signed : tVal (.cmplt 0 0 1 1) 1 0xFFFFFFFFFFFFFFFF 0 0 0 = some (some (.s 1), 0) := by decide +kernel
theorem test_mnot_of_all : tVal (.mnot 0 0 1 0) 4 0 0 0 0 = some (some (.s 0), 0) := by decide +kernel

/-- The first lane of a vector result, and its flags. -/
def tLane (i : Instr) (u : Nat) (a b c d : Vec) : Option (Option Lane × BitVec 8) :=
  let w := fun (p : Nat) (v : Vec) (k : Core) => putPort k (lvlOf k) u p (.v v)
  (resultAfter (exec i (tSlot fun k => w 1 b (w 2 c (w 3 d { k with files := { k.files with v := tset 0 k.files.v 0 a } }))))).map fun x =>
    (x.1.map fun v => laneOf (valV v) 0, x.2.1)

/-- 1 + 2^-24 is a tie that rounds to even, inexact (R50). -/
theorem test_fadd_tie : tLane (.fadd 0 0 0x080 0) 4 0x3F800000 0x33800000 0 0 = some (some 0x3F800000, fNX) := by decide +kernel
/-- 1 + 3·2^-24 rounds up to 1 + 2^-22. -/
theorem test_fadd_rounds_up : tLane (.fadd 0 0 0x080 0) 4 0x3F800000 0x34400000 0 0 = some (some 0x3F800002, fNX) := by decide +kernel
/-- The product 3 · 7 is added exactly: 3 · 7 - 21 = 0. -/
theorem test_fms : tLane (.fms 0 0 0x080 1) 5 0x40400000 0x40E00000 0x41A80000 0 = some (some 0x00000000, 0) := by decide +kernel
/-- The largest number doubled overflows to an infinity (R49, R50). -/
theorem test_fmul_overflow : tLane (.fmul 0 0 0x080 0) 4 0x7F7FFFFF 0x40000000 0 0 = some (some 0x7F800000, fOF ||| fNX) := by decide +kernel
/-- A signalling NaN is invalid and gives the canonical NaN. -/
theorem test_fmax_nan : tLane (.fmax 0 0 0x080 0) 4 0x7F800001 0x3F800000 0 0 = some (some 0x3F800000, fNV) := by decide +kernel
/-- R51, R43: under RS 127.3 saturates to INT8 although its random bits do not carry; 126.3 does not. -/
theorem test_rs_int_saturates :
    roundToInt 8 4 0 (.num (.fin false 0xFE999A (-17))) = (0x7F, fSAT ||| fNX) ∧
    roundToInt 8 4 0 (.num (.fin false 0xFC999A (-17))) = (0x7E, fNX) := by decide +kernel
theorem test_isar : tLane (.isar 0 0 0x080 0) 4 0x80000000 0x00000021 0 0 = some (some 0xC0000000, 0) := by decide +kernel
/-- The other 63 lanes are zeros: DZ joins the flags of lane 0, which has none (R145, R165). -/
theorem test_rcp_of_four : tLane (.rcp 0 0 0x080) 6 0x40800000 0 0 0 = some (some 0x3E800000, fDZ) := by decide +kernel
theorem test_sqrt_of_two : tLane (.sqrt 0 0 0x080) 6 0x40000000 0 0 0 = some (some 0x3FB504F3, fNX) := by decide +kernel
theorem test_exp2_of_three : tLane (.exp2 0 0 0x080) 6 0x40400000 0 0 0 = some (some 0x41000000, 0) := by decide +kernel

/-- A jump takes the unit's port a as the index of the next bundle once the bundle closes (R101). -/
theorem test_jmp :
    (coreAfter (execBundleIssue 0 (tClose id 0x04 40 0))).pc = 40 := by decide +kernel

/-- fadd of a Fuller: f2 = f0 + f1 = 1.5 + 2. -/
theorem test_fuller_fadd :
    (match execFullerFadd 2 0 1 0 (modDie (placeFuller State.reset 0) 0 fun x => { x with frun := x.frun.map fun r => { r with f := [(0, 0x3FC00000), (1, 0x40000000)] } }) with
     | .next t => (dieOf t 0).frun.map fun r => tget 0 r.f 2
     | _ => none) = some 0x40600000 := by decide +kernel
end Sys2Proof.Machine
end

section
/-! PROOFS. The combined update of a barrier: the fields of a barrier (R26), what reaches it in a tick added up (R27, R137), the
update when every field stays in its range, when one leaves it, and under a tbinit; then BARRIER_UPDATE of one barrier, a tbwait
that observes UNDER (R138), and GEN_NOTICE (R138; log 34). -/

namespace Sys2Proof.Machine

/-! ### Values read back from memory -/

/-- `n` bytes of a value read back as the value modulo `256^n`. -/
theorem leNat_leBytes (n x : Nat) : leNat (leBytes n x) = x % 256 ^ n := by
  induction n generalizing x with
  | zero => rw [leBytes, leNat, Nat.pow_zero, Nat.mod_one]
  | succ n ih =>
    rw [leBytes, leNat, ih, BitVec.toNat_ofNat, Nat.pow_succ' (m := 256) (n := n)]
    exact Nat.mod_mul.symm

theorem memRead_memWrite_same (m : Memory) (a : Nat) (l : List Byte) : memRead (memWrite m a l) a l.length = l := by
  refine List.ext_getElem (by simp [memRead]) fun i hi hl => ?_
  simp only [memRead, List.getElem_map, List.getElem_range]
  exact memByte_memWrite_same m a l hl

theorem memNat_memWrite_leBytes (m : Memory) (a n x : Nat) : memNat (memWrite m a (leBytes n x)) a n = x % 256 ^ n := by
  have h := memRead_memWrite_same m a (leBytes n x)
  rw [leBytes_length] at h
  rw [memNat, h, leNat_leBytes]

/-! ### Fields of a barrier (R26) -/

theorem bits_eq_div_mod (x hi lo : Nat) : bits x hi lo = x / 2 ^ lo % 2 ^ (hi + 1 - lo) := by
  rw [bits, Nat.shiftRight_eq_div_pow]

theorem bits_lt (x hi lo : Nat) : bits x hi lo < 2 ^ (hi + 1 - lo) := Nat.mod_lt _ (Nat.two_pow_pos _)

theorem barArrv_lt (x : Nat) : barArrv x < 2 ^ 24 := bits_lt x 55 32
theorem barArrvi_lt (x : Nat) : barArrvi x < 2 ^ 24 := bits_lt x 119 96
theorem barGen_lt (x : Nat) : barGen x < 2 ^ 32 := bits_lt x 31 0

theorem b2n_le_one (b : Bool) : b2n b ≤ 1 := by cases b <;> decide

section Make

variable (old gen arrv : Nat) (under : Bool) (sect arrvi : Nat)

@[simp] theorem barGen_barMake : barGen (barMake old gen arrv under sect arrvi) = gen % 2 ^ 32 := by
  rw [barGen, bits_eq_div_mod, barMake]; omega

@[simp] theorem barArrv_barMake : barArrv (barMake old gen arrv under sect arrvi) = arrv % 2 ^ 24 := by
  rw [barArrv, bits_eq_div_mod, barMake]; omega

@[simp] theorem barSect_barMake : barSect (barMake old gen arrv under sect arrvi) = sect % 2 ^ 32 := by
  have hu := b2n_le_one under
  have hr := bits_lt old 63 57
  rw [barSect, bits_eq_div_mod, barMake]; omega

@[simp] theorem barArrvi_barMake : barArrvi (barMake old gen arrv under sect arrvi) = arrvi % 2 ^ 24 := by
  have hu := b2n_le_one under
  have hr := bits_lt old 63 57
  rw [barArrvi, bits_eq_div_mod, barMake]; omega

@[simp] theorem barUnder_barMake : barUnder (barMake old gen arrv under sect arrvi) = under := by
  have h : barMake old gen arrv under sect arrvi / 2 ^ 56 % 2 = b2n under := by
    have hu := b2n_le_one under
    rw [barMake]; omega
  rw [barUnder, bit, Nat.testBit_eq_decide_div_mod_eq, h]
  cases under <;> rfl

theorem barMake_lt : barMake old gen arrv under sect arrvi < 2 ^ 128 := by
  have hu := b2n_le_one under
  have hr := bits_lt old 63 57
  have ht := bits_lt old 127 120
  rw [barMake]; omega

end Make

theorem barUpdate_lt (old : Nat) (l : List BarKind) : barUpdate old l < 2 ^ 128 := by
  unfold barUpdate
  dsimp only
  split
  · exact barMake_lt ..
  · split
    · exact barMake_lt ..
    · exact barMake_lt ..

/-! ### What barSums adds up (R27, R137) -/

/-- Arrivals that an update takes off ARRV. -/
def BarKind.arrivals : BarKind → Nat
  | .arr n => n
  | _ => 0

/-- Units that an update adds to SECT. -/
def BarKind.expected : BarKind → Nat
  | .exp n => n
  | _ => 0

/-- Units that an update takes off SECT. -/
def BarKind.decrements : BarKind → Nat
  | .dec n => n
  | _ => 0

/-- The value that a tbinit loads. -/
def BarKind.initial : BarKind → Option Nat
  | .init v => some v
  | _ => none

/-- The sums with one more update. -/
def addUpdate (x : Nat × Nat × Nat × Option Nat) (k : BarKind) : Nat × Nat × Nat × Option Nat :=
  (x.1 + k.arrivals, x.2.1 + k.expected, x.2.2.1 + k.decrements, k.initial.or x.2.2.2)

theorem barSums_eq_foldl (l : List BarKind) : barSums l = l.foldl addUpdate (0, 0, 0, none) := by
  unfold barSums
  congr 1
  funext x k
  cases k with
  | init v => rfl
  | arr n => rfl
  | exp n => rfl
  | dec n => rfl

theorem foldl_addUpdate (l : List BarKind) (x : Nat × Nat × Nat × Option Nat) :
    l.foldl addUpdate x =
      (x.1 + (l.map BarKind.arrivals).sum, x.2.1 + (l.map BarKind.expected).sum, x.2.2.1 + (l.map BarKind.decrements).sum,
        (l.filterMap BarKind.initial).getLast?.or x.2.2.2) := by
  induction l generalizing x with
  | nil => rfl
  | cons k l ih =>
    have hlast : ((k :: l).filterMap BarKind.initial).getLast?.or x.2.2.2 =
        (l.filterMap BarKind.initial).getLast?.or (k.initial.or x.2.2.2) := by
      cases hk : k.initial with
      | none => rw [List.filterMap_cons_none hk, Option.none_or]
      | some v =>
        rw [List.filterMap_cons_some hk, List.getLast?_cons, Option.some_or, Option.some_or]
        cases (l.filterMap BarKind.initial).getLast? with
        | none => rfl
        | some w => rfl
    rw [List.foldl_cons, ih, hlast]
    simp only [addUpdate, List.map_cons, List.sum_cons, Nat.add_assoc]

/-- Each kind has its own sum, and the last tbinit stands. -/
theorem barSums_eq (l : List BarKind) :
    barSums l = ((l.map BarKind.arrivals).sum, (l.map BarKind.expected).sum, (l.map BarKind.decrements).sum,
      (l.filterMap BarKind.initial).getLast?) := by
  rw [barSums_eq_foldl, foldl_addUpdate]
  simp only [Nat.zero_add, Option.or_none]

/-- A list without a tbinit. -/
def NoInit (l : List BarKind) : Prop := ∀ u ∈ l, ∀ v, u ≠ .init v

theorem NoInit.filterMap_initial {l : List BarKind} (h : NoInit l) : l.filterMap BarKind.initial = [] := by
  refine List.filterMap_eq_nil_iff.mpr fun u hu => ?_
  cases u with
  | init v => exact absurd rfl (h _ hu v)
  | arr n => rfl
  | exp n => rfl
  | dec n => rfl

theorem barSums_of_noInit {l : List BarKind} (h : NoInit l) :
    barSums l = ((l.map BarKind.arrivals).sum, (l.map BarKind.expected).sum, (l.map BarKind.decrements).sum, none) := by
  rw [barSums_eq, h.filterMap_initial]; rfl

/-! ### The combined update (R27, R137) -/

section Net

variable {old : Nat} {l : List BarKind} {arr inc dec : Nat}

/-- Every field stays in its range: the update is exact, and the barrier completes when nothing is left. -/
theorem barUpdate_inRange (hs : barSums l = (arr, inc, dec, none)) (ha : arr ≤ barArrv old) (hd : dec ≤ barSect old + inc)
    (ht : barSect old + inc - dec < 2 ^ 32) (hu : barUnder old = false) :
    barUpdate old l =
      if barArrv old = arr ∧ barSect old + inc = dec then
        barMake old (barGen old + 1) (barArrvi old) false (barSect old + inc - dec) (barArrvi old)
      else barMake old (barGen old) (barArrv old - arr) false (barSect old + inc - dec) (barArrvi old) := by
  have ea : ((barArrv old : Int) - arr).toNat = barArrv old - arr := by omega
  have es : min ((barSect old : Int) + inc - dec).toNat (2 ^ 32 - 1) = barSect old + inc - dec := by omega
  have eu : (barUnder old || decide ((barArrv old : Int) - arr < 0) || decide ((barSect old : Int) + inc - dec < 0) ||
      decide ((2 ^ 32 - 1 : Int) < (barSect old : Int) + inc - dec)) = false := by
    simp only [hu, Bool.false_or, Bool.or_eq_false_iff, decide_eq_false_iff_not]; omega
  have ez : (barArrv old - arr = 0 ∧ barSect old + inc - dec = 0) ↔ (barArrv old = arr ∧ barSect old + inc = dec) := by omega
  simp only [barUpdate, hs, ea, es, eu, and_true, ez]

/-- UNDER was set or a field leaves its range: UNDER is set, GEN stays, and the fields stop at their bounds. -/
theorem barUpdate_outOfRange (hs : barSums l = (arr, inc, dec, none))
    (h : barUnder old = true ∨ barArrv old < arr ∨ barSect old + inc < dec ∨ 2 ^ 32 ≤ barSect old + inc - dec) :
    barUpdate old l =
      barMake old (barGen old) (barArrv old - arr) true (min (2 ^ 32 - 1) (barSect old + inc - dec)) (barArrvi old) := by
  have ea : ((barArrv old : Int) - arr).toNat = barArrv old - arr := by omega
  have es : min ((barSect old : Int) + inc - dec).toNat (2 ^ 32 - 1) = min (2 ^ 32 - 1) (barSect old + inc - dec) := by omega
  have eu : (barUnder old || decide ((barArrv old : Int) - arr < 0) || decide ((barSect old : Int) + inc - dec < 0) ||
      decide ((2 ^ 32 - 1 : Int) < (barSect old : Int) + inc - dec)) = true := by
    rw [Bool.or_assoc, Bool.or_assoc, Bool.or_eq_true]
    refine h.imp_right fun h => ?_
    simp only [Bool.or_eq_true, decide_eq_true_eq]; omega
  simp only [barUpdate, hs, ea, es, eu, Bool.true_eq_false, and_false, if_false]

end Net

/-- A tbinit discards the other updates of its tick. -/
theorem barUpdate_init (old v : Nat) {l r : List BarKind} (h : NoInit (l ++ r)) :
    barUpdate old (l ++ .init v :: r) = barMake 0 0 v false 0 v := by
  have hr : NoInit r := fun u hu => h u (List.mem_append_right l hu)
  have hi : ((l ++ .init v :: r).filterMap BarKind.initial).getLast? = some v := by
    simp [BarKind.initial, hr.filterMap_initial]
  rw [barUpdate, barSums_eq, hi]

/-- The fields after an update without a tbinit: netted exactly when all stay in range, else stopped at their bounds under UNDER. -/
theorem barUpdate_nets (old : Nat) {l : List BarKind} (h : NoInit l) :
    let arr := (l.map BarKind.arrivals).sum
    let inc := (l.map BarKind.expected).sum
    let dec := (l.map BarKind.decrements).sum
    let new := barUpdate old l
    (arr ≤ barArrv old → dec ≤ barSect old + inc → barSect old + inc - dec < 2 ^ 32 → barUnder old = false →
      barUnder new = false ∧ barArrvi new = barArrvi old ∧ barSect new = barSect old + inc - dec ∧
      (if barArrv old = arr ∧ barSect old + inc = dec then barGen new = (barGen old + 1) % 2 ^ 32 ∧ barArrv new = barArrvi old
        else barGen new = barGen old ∧ barArrv new = barArrv old - arr)) ∧
    (barUnder old = true ∨ barArrv old < arr ∨ barSect old + inc < dec ∨ 2 ^ 32 ≤ barSect old + inc - dec →
      barUnder new = true ∧ barGen new = barGen old ∧ barArrvi new = barArrvi old ∧ barArrv new = barArrv old - arr ∧
        barSect new = min (2 ^ 32 - 1) (barSect old + inc - dec)) := by
  intro arr inc dec new
  have hs : barSums l = (arr, inc, dec, none) := barSums_of_noInit h
  have hgen : barGen old % 2 ^ 32 = barGen old := Nat.mod_eq_of_lt (barGen_lt old)
  have hinit : barArrvi old % 2 ^ 24 = barArrvi old := Nat.mod_eq_of_lt (barArrvi_lt old)
  have harr : (barArrv old - arr) % 2 ^ 24 = barArrv old - arr :=
    Nat.mod_eq_of_lt (Nat.lt_of_le_of_lt (Nat.sub_le _ _) (barArrv_lt old))
  refine ⟨fun ha hd ht hu => ?_, fun hout => ?_⟩
  · have hsect : (barSect old + inc - dec) % 2 ^ 32 = barSect old + inc - dec := Nat.mod_eq_of_lt ht
    have e : new = _ := barUpdate_inRange hs ha hd ht hu
    rw [e]
    split
    · exact ⟨barUnder_barMake .., (barArrvi_barMake ..).trans hinit, (barSect_barMake ..).trans hsect,
        barGen_barMake .., (barArrv_barMake ..).trans hinit⟩
    · exact ⟨barUnder_barMake .., (barArrvi_barMake ..).trans hinit, (barSect_barMake ..).trans hsect,
        (barGen_barMake ..).trans hgen, (barArrv_barMake ..).trans harr⟩
  · have hsect : min (2 ^ 32 - 1) (barSect old + inc - dec) % 2 ^ 32 = min (2 ^ 32 - 1) (barSect old + inc - dec) :=
      Nat.mod_eq_of_lt (by omega)
    have e : new = _ := barUpdate_outOfRange hs hout
    rw [e]
    exact ⟨barUnder_barMake .., (barGen_barMake ..).trans hgen, (barArrvi_barMake ..).trans hinit,
      (barArrv_barMake ..).trans harr, (barSect_barMake ..).trans hsect⟩

/-- The fields after a tbinit of a count that ARRVI can hold. -/
theorem barUpdate_init_fields (old : Nat) {v : Nat} {l r : List BarKind} (hv : v < 2 ^ 24) (h : NoInit (l ++ r)) :
    let new := barUpdate old (l ++ .init v :: r)
    barGen new = 0 ∧ barArrv new = v ∧ barArrvi new = v ∧ barSect new = 0 ∧ barUnder new = false := by
  intro new
  have e : new = barMake 0 0 v false 0 v := barUpdate_init old v h
  have hmod : v % 2 ^ 24 = v := Nat.mod_eq_of_lt hv
  rw [e]
  exact ⟨barGen_barMake .., (barArrv_barMake ..).trans hmod, (barArrvi_barMake ..).trans hmod, barSect_barMake ..,
    barUnder_barMake ..⟩

/-! ### BARRIER_UPDATE of one barrier (R27) -/

theorem updateBarrier_mem (st : State) (d pa : Nat) (ups : List (Nat × BarUpd)) :
    (updateBarrier st d pa ups).mem =
      memWrite st.mem pa (leBytes 16 (barUpdate (memNat st.mem pa 16) (ups.map (·.2.kind)))) := by
  simp only [updateBarrier, perform_mem]

theorem updateBarrier_dies (st : State) (d pa : Nat) (ups : List (Nat × BarUpd)) : (updateBarrier st d pa ups).dies = st.dies := by
  simp only [updateBarrier, perform_dies]

/-- The updates leave the lists of the cores that issued them. -/
def withoutUpdates (st : State) (ups : List (Nat × BarUpd)) : State :=
  ups.foldl (fun st u => modCore st u.1 fun k => { k with bups := k.bups.filter fun v => !(v == u.2) }) st

theorem withoutUpdates_mem_dies (st : State) (ups : List (Nat × BarUpd)) :
    (withoutUpdates st ups).mem = st.mem ∧ (withoutUpdates st ups).dies = st.dies := by
  induction ups generalizing st with
  | nil => exact ⟨rfl, rfl⟩
  | cons u ups ih => exact ih _

theorem eraseDups_of_forall_eq {l : List Nat} {a : Nat} (hne : l ≠ []) (h : ∀ x ∈ l, x = a) : l.eraseDups = [a] := by
  cases l with
  | nil => exact absurd rfl hne
  | cons b l =>
    have hb : b = a := h b (List.mem_cons_self ..)
    have hf : (l.filter fun x => !x == b) = [] :=
      List.filter_eq_nil_iff.mpr fun x hx => by simp [h x (List.mem_cons_of_mem b hx), hb]
    rw [List.eraseDups_cons, hf, hb, List.eraseDups_nil]

/-- All that arrives in the tick is one barrier's: it takes one update. -/
theorem execBarrierUpdate_one {st : State} {d pa : Nat} (hd : d < 4) (hne : barArrivals st d ≠ [])
    (hpa : ∀ x ∈ barArrivals st d, x.2.addr = pa) :
    execBarrierUpdate d st = .next (updateBarrier (withoutUpdates st (barArrivals st d)) d pa (barArrivals st d)) := by
  have hdie : ¬ numDies ≤ d := Nat.not_le.mpr hd
  have haddrs : ((barArrivals st d).map (·.2.addr)).eraseDups = [pa] :=
    eraseDups_of_forall_eq (by simpa using hne) (List.forall_mem_map.mpr hpa)
  have hall : ((barArrivals st d).filter fun u => u.2.addr == pa) = barArrivals st d :=
    List.filter_eq_self.mpr fun x hx => by simp [hpa x hx]
  simp only [execBarrierUpdate, hdie, if_false, haddrs, List.foldl_cons, List.foldl_nil, hall]
  rfl

/-- Memory holds the combined update of all that arrived, and no other byte changes. -/
theorem exec_barrierUpdate {st : State} {d pa : Nat} (hd : d < 4) (hne : barArrivals st d ≠ [])
    (hpa : ∀ x ∈ barArrivals st d, x.2.addr = pa) :
    ∃ t, exec (.barrierUpdate d) st = .next t ∧
      memNat t.mem pa 16 = barUpdate (memNat st.mem pa 16) ((barArrivals st d).map (·.2.kind)) ∧
      (∀ x, x < pa ∨ pa + 16 ≤ x → memByte t.mem x = memByte st.mem x) ∧ t.dies = st.dies := by
  obtain ⟨hmem, hdies⟩ := withoutUpdates_mem_dies st (barArrivals st d)
  refine ⟨_, execBarrierUpdate_one hd hne hpa, ?_, fun x hx => ?_, ?_⟩
  · rw [updateBarrier_mem, hmem, memNat_memWrite_leBytes]
    exact Nat.mod_eq_of_lt (barUpdate_lt _ _)
  · rw [updateBarrier_mem, hmem, memByte_memWrite_other _ _ _ (by rwa [leBytes_length])]
  · rw [updateBarrier_dies, hdies]

/-! ### A tbwait that observes UNDER (R138) -/

/-- A fault at a slot of a core at T level, if it replays nothing and is no translation fault, enters the stub of its code. -/
theorem slotFault_enters {st : State} {c : Nat} (i : Issue) (s d : Nat) {code : Nat} (detail xaddr : Nat)
    (hl : lvlOf (coreOf st c) = .t) (hr : replayCode code = false) (h8 : code ≠ 8) :
    (coreOf (slotFault st c i s d code detail xaddr) c).pc = .ofNat 14 (stubVector code) ∧
    (coreOf (slotFault st c i s d code detail xaddr) c).csr.xaddr = .ofNat 64 xaddr ∧
    (slotFault st c i s d code detail xaddr).mem = st.mem := by
  have hs : ¬ (lvlOf (coreOf st c) = .s ∧ ¬ replayCode code = true) := by simp [hl]
  unfold slotFault faultAtSlot
  simp only [if_neg hs]
  generalize stopAtSlot (coreOf st c) i (code == 8) = stopped
  obtain ⟨k, stop⟩ := stopped
  obtain ⟨a, b, h⟩ := takeTrap_enters { st with turn := .agenda } c k stop
    { code := code, detail := detail, xaddr := xaddr, unit := causeUnit s d, info := 0, async := false } hr h8
  exact ⟨by rw [h], by rw [h]; rfl, takeTrap_mem ..⟩

theorem barPa_of_xlate {st : State} {a : Args} {va pa key : Nat} {write padded : Bool}
    (h : xlateOp st a va write = .ok pa key padded) : barPa st a va write = pa := by
  rw [barPa, h]

/-- A barrier that can be reached in a window that is not held passes the checks of R136. -/
theorem barCheck_ok {st : State} {a : Args} {va pa : Nat} {write : Bool} (h : BarReach st a va write pa)
    (hh : ∀ o off, target pa = .scratch o off → homeHeld st o = false) : barCheck st a va write false = .ok := by
  obtain ⟨hal, ⟨key, padded, hx⟩, o, off, ht, -⟩ := h
  have haligned : faultIf (va % 16 != 0) 7 0 va = .ok := by simp [faultIf, hal]
  have hxlate : xlCheck st a va write = .ok := by simp [xlCheck, hx]
  have htarget : barTarget a.core pa va false = .ok := by simp [barTarget, ht, faultIf]
  have hheld : remoteHeld st (place st a [{ va := va, n := 1 }] write) = false := by
    simp [remoteHeld, place, hx, ht, hh o off ht]
  simp [barCheck, haligned, hxlate, barPa_of_xlate hx, htarget, hheld, Check.andThen]

/-- A tbwait that observes UNDER raises TBERR with the barrier's address. -/
theorem tbwaitCheck_under {st : State} {a : Args} {pa : Nat} (h : BarReach st a a.c.toNat false pa)
    (hh : ∀ o off, target pa = .scratch o off → homeHeld st o = false) (hu : barUnder (observedBar st a.core pa) = true) :
    tbwaitCheck st a = .fault 11 0 a.c.toNat := by
  obtain ⟨-, ⟨key, padded, hx⟩, -⟩ := id h
  simp [tbwaitCheck, barCheck_ok h hh, barPa_of_xlate hx, hu, Check.andThen]

/-- The tbwait traps at its slot with TBERR (code 11) and the barrier's address in XADDR. -/
theorem exec_tbwait_under {st : State} {n : BitVec 1} {g : BitVec 4} {s : BitVec 9} {pa : Nat}
    (hready : SlotReady st n g s.toNat) (hl : lvlOf (slotCore st) = .t) :
    let x := operands st 10 s.toNat
    BarReach st x x.c.toNat false pa → (∀ o off, target pa = .scratch o off → homeHeld st o = false) →
    barUnder (observedBar st st.cur pa) = true →
    ∃ t, exec (.tbwait n g s) st = .next t ∧ (coreOf t st.cur).pc = .ofNat 14 (9898 + 11) ∧ (coreOf t st.cur).csr.xaddr = x.c ∧
      t.mem = st.mem := by
  intro x hreach hh hu
  have hcheck : trigTbwait.check st x = .fault 11 0 x.c.toNat :=
    tbwaitCheck_under hreach hh (by rwa [operands_core])
  refine ⟨_, runTrigger_fault trigTbwait 0x07 n g s st hready hcheck, ?_⟩
  obtain ⟨hpc, hxaddr, hmem⟩ := slotFault_enters (code := 11) (slotIssue st) s.toNat (0x100 + 64 * trigTbwait.unit + 0x07) 0 x.c.toNat
    (st := setCore st st.cur { slotCore st with issue := some (slotIssue st) }) (c := st.cur)
    (by rw [coreOf_setCore_same]; exact hl) (by decide) (by decide)
  exact ⟨hpc, hxaddr.trans ((BitVec.ofNat_toNat ..).trans (BitVec.setWidth_eq _)), hmem⟩

/-! ### GEN_NOTICE (R138) -/

/-- What core `c` is told of a record whose delay has passed. -/
def tellBar (st : State) (c : Nat) (r : BarRec) : BarRec :=
  if r.told.contains c ∨ (dieOf st (homeDie r.addr)).dtick < r.tick + gwDelay c r.addr then r
  else { r with told := c :: r.told }

theorem execGenNotice_eq {st : State} {c : Nat} (hc : c < 768) :
    execGenNotice c st = .next { st with bars := st.bars.map (tellBar st c) } := by
  have hcore : ¬ numCores ≤ c := Nat.not_le.mpr hc
  simp only [execGenNotice, hcore, if_false]
  rfl

theorem tellBar_keeps (st : State) (c : Nat) (r : BarRec) : (tellBar st c r).addr = r.addr ∧ (tellBar st c r).before = r.before := by
  unfold tellBar
  split
  · exact ⟨rfl, rfl⟩
  · exact ⟨rfl, rfl⟩

theorem tellBar_told {st : State} {c : Nat} {r : BarRec} (h : r.tick + gwDelay c r.addr ≤ (dieOf st (homeDie r.addr)).dtick) :
    (tellBar st c r).told.contains c = true := by
  unfold tellBar
  split
  case isTrue hc => exact hc.resolve_right (Nat.not_lt.mpr h)
  case isFalse => simp

/-- Every record of an update whose delay has passed is told to the core, and is otherwise as before. -/
theorem exec_genNotice {st : State} {c : Nat} (hc : c < 768) :
    ∃ t, exec (.genNotice c) st = .next t ∧ t.mem = st.mem ∧ t.cores = st.cores ∧
      ∀ r ∈ st.bars, r.tick + gwDelay c r.addr ≤ (dieOf st (homeDie r.addr)).dtick →
        ∃ r' ∈ t.bars, r'.addr = r.addr ∧ r'.before = r.before ∧ r'.told.contains c = true := by
  refine ⟨_, execGenNotice_eq hc, rfl, rfl, fun r hr hdue => ?_⟩
  obtain ⟨haddr, hbefore⟩ := tellBar_keeps st c r
  exact ⟨tellBar st c r, List.mem_map_of_mem hr, haddr, hbefore, tellBar_told hdue⟩

/-- Settles O48: the update of each case of R27 and R137 by its own lemma, then BARRIER_UPDATE, tbwait under UNDER and
GEN_NOTICE. -/
theorem barriersUpdate : Obligations.BarriersUpdate :=
  ⟨fun old _ _ hno => barUpdate_nets old hno,
   fun old _ _ _ hv hno => barUpdate_init_fields old hv hno,
   fun _ _ _ hd hne hpa => exec_barrierUpdate hd hne hpa,
   fun _ _ _ _ _ hready hl => exec_tbwait_under hready hl,
   fun _ _ hc => exec_genNotice hc⟩

end Sys2Proof.Machine

end

section
/-! PROOFS. The decode faults of slot words (R83): the codes that no row assigns are those of which decoding fails. Then the trap
of a step that meets one (R64, R65, R320): what a fault at a slot of a core at T level leaves of the core, and the fields of the
trap registers that it sets (R18, R319, R321). -/

namespace Sys2Proof.Machine

/-! ### The codes that decode to nothing (R83) -/

theorem srcAssigned_eq_false_iff {s : Nat} (h : s < 0x200) :
    srcAssigned s = false ↔ (0x102 ≤ s ∧ s ≤ 0x13F) ∨ (0x188 ≤ s ∧ s ≤ 0x1FF) := by
  simp only [srcAssigned, Bool.or_eq_false_iff, Bool.and_eq_false_iff, decide_eq_false_iff_not]
  omega

theorem regDst_eq_false_iff {d : Nat} : regDst d = false ↔ 0x0F0 ≤ d := by
  simp only [regDst, decide_eq_false_iff_not, Nat.not_lt]

/-- The twelve units of R61. -/
theorem unit_cases {u : Nat} (hu : u < 12) :
    u = 0 ∨ u = 1 ∨ u = 2 ∨ u = 3 ∨ u = 4 ∨ u = 5 ∨ u = 6 ∨ u = 7 ∨ u = 8 ∨ u = 9 ∨ u = 10 ∨ u = 11 := by omega

/-- The rows of each of the twelve units are contiguous, from trigger code 4 to the unit's last (R81, R87 to R96). -/
theorem triggerRow_eq_none_iff {n : BitVec 1} {g : BitVec 4} {s : BitVec 9} {u low : Nat} (hu : u < 12) :
    triggerRow n g s u low = none ↔ triggerLast u < low := by
  rcases unit_cases hu with rfl | rfl | rfl | rfl | rfl | rfl | rfl | rfl | rfl | rfl | rfl | rfl <;>
    simp only [triggerRow, triggerLast, Option.map_eq_none_iff, List.getElem?_eq_none_iff, cuTriggers, iaTriggers, agTriggers,
      vaTriggers, vxTriggers, mxTriggers, ssTriggers, cpTriggers, syTriggers, flTriggers, List.length_cons, List.length_nil,
      List.getD_cons_zero, List.getD_cons_succ] <;>
    omega

/-- No unit's last trigger code is below the operand ports' (R61, R81). -/
theorem three_lt_triggerLast : ∀ u < 12, 3 < triggerLast u := by decide

/-- Decoding fails at a source that is not assigned, at a register destination that is none, or at a trigger without a row, and
nowhere else: the branches of `decodeSlot` in their order. -/
theorem decodeSlot_fails_iff (w : SlotWord) :
    (∃ e, decodeSlot w = .error e) ↔
      (0x102 ≤ (slotS w).toNat ∧ (slotS w).toNat ≤ 0x13F) ∨ (0x188 ≤ (slotS w).toNat ∧ (slotS w).toNat ≤ 0x1FF) ∨
      (0x0F0 ≤ (slotD w).toNat ∧ (slotD w).toNat ≤ 0x0FF) ∨
      (0x100 ≤ (slotD w).toNat ∧ triggerLast (((slotD w).toNat - 0x100) / 64) < ((slotD w).toNat - 0x100) % 64) := by
  have hd : (slotD w).toNat < 0x400 := (slotD w).isLt
  have hu : ((slotD w).toNat - 0x100) / 64 < 12 := by omega
  unfold decodeSlot
  dsimp only
  cases hsrc : srcAssigned (slotS w).toNat with
  | false =>
    have hs := (srcAssigned_eq_false_iff (slotS w).isLt).mp hsrc
    rw [if_pos Bool.false_ne_true]
    exact iff_of_true ⟨_, rfl⟩ (by omega)
  | true =>
    have hs := mt (srcAssigned_eq_false_iff (slotS w).isLt).mpr (ne_false_of_eq_true hsrc)
    rw [if_neg (not_not_intro rfl)]
    by_cases hreg : (slotD w).toNat < 0x100
    case pos =>
      rw [if_pos hreg]
      cases hdst : regDst (slotD w).toNat with
      | false =>
        have hr := regDst_eq_false_iff.mp hdst
        rw [if_pos Bool.false_ne_true]
        exact iff_of_true ⟨_, rfl⟩ (by omega)
      | true =>
        have hr := mt regDst_eq_false_iff.mpr (ne_false_of_eq_true hdst)
        rw [if_neg (not_not_intro rfl)]
        exact iff_of_false nofun (by omega)
    rw [if_neg hreg]
    by_cases hport : ((slotD w).toNat - 0x100) % 64 < 4
    case pos =>
      have hlast := three_lt_triggerLast _ hu
      rw [if_pos hport]
      exact iff_of_false nofun (by omega)
    rw [if_neg hport]
    cases hrow : triggerRow (slotN w) (slotG w) (slotS w) (((slotD w).toNat - 0x100) / 64) (((slotD w).toNat - 0x100) % 64) with
    | none =>
      have hlast := (triggerRow_eq_none_iff hu).mp hrow
      exact iff_of_true ⟨_, rfl⟩ (by omega)
    | some i =>
      have hlast := mt (triggerRow_eq_none_iff hu).mpr (by rw [hrow]; exact Option.some_ne_none i)
      exact iff_of_false nofun (by omega)

/-! ### Fields of XSTAT and XCAUSE (R18, R319) -/

theorem lvlBit_le_one (l : Level) : lvlBit l ≤ 1 := by cases l <;> decide

/-- A field of a word given as a number. -/
theorem toNat_extractLsb'_ofNat (x lo len : Nat) :
    ((BitVec.ofNat 64 x).extractLsb' lo len).toNat = x % 2 ^ 64 / 2 ^ lo % 2 ^ len := by
  rw [BitVec.extractLsb'_toNat, BitVec.toNat_ofNat, Nat.shiftRight_eq_div_pow]

section Xstat

variable (done : BitVec 8) (slotres : Nat) (mid shd : Bool) (plvl lvl : Level) (pend : Nat)

/-- XSTAT.DONE. -/
@[simp] theorem xstatOf_done : (xstatOf done slotres mid shd plvl lvl pend).extractLsb' 24 8 = done := by
  have := b2n_le_one mid
  have := b2n_le_one shd
  have := lvlBit_le_one plvl
  have := lvlBit_le_one lvl
  have := done.isLt
  refine BitVec.eq_of_toNat_eq ?_
  rw [xstatOf, toNat_extractLsb'_ofNat]
  omega

/-- XSTAT.SLOT. -/
@[simp] theorem xstatOf_slot : (xstatOf done slotres mid shd plvl lvl pend).extractLsb' 20 3 = .ofNat 3 slotres := by
  have := b2n_le_one mid
  have := b2n_le_one shd
  have := lvlBit_le_one plvl
  have := lvlBit_le_one lvl
  have := done.isLt
  refine BitVec.eq_of_toNat_eq ?_
  rw [xstatOf, toNat_extractLsb'_ofNat, BitVec.toNat_ofNat]
  omega

/-- XSTAT.MID. -/
@[simp] theorem xstatOf_mid : (xstatOf done slotres mid shd plvl lvl pend).getLsbD 19 = mid := by
  have := b2n_le_one mid
  have := b2n_le_one shd
  have := lvlBit_le_one plvl
  have := lvlBit_le_one lvl
  have hbit : (done.toNat * 2 ^ 24 + (slotres % 8) * 2 ^ 20 + b2n mid * 2 ^ 19 + b2n shd * 2 ^ 18 + lvlBit plvl * 2 ^ 17
      + lvlBit lvl * 2 ^ 16 + pend % 256) / 2 ^ 19 % 2 = b2n mid := by omega
  rw [xstatOf, BitVec.getLsbD_ofNat, Nat.testBit_eq_decide_div_mod_eq, hbit]
  cases mid <;> rfl

end Xstat

@[simp] theorem xcauseOf_code (f : Cause) : (xcauseOf f).extractLsb' 0 5 = .ofNat 5 f.code := by
  have := b2n_le_one f.async
  refine BitVec.eq_of_toNat_eq ?_
  rw [xcauseOf, toNat_extractLsb'_ofNat, BitVec.toNat_ofNat]
  omega

@[simp] theorem xcauseOf_detail (f : Cause) : (xcauseOf f).extractLsb' 8 8 = .ofNat 8 f.detail := by
  have := b2n_le_one f.async
  refine BitVec.eq_of_toNat_eq ?_
  rw [xcauseOf, toNat_extractLsb'_ofNat, BitVec.toNat_ofNat]
  omega

/-! ### What the drain of a stop leaves alone (R97) -/

@[simp] theorem ssFlags_files (f : Flight) (k : Core) : (ssFlags f k).files = k.files := by
  unfold ssFlags orSsstat
  split <;> rfl

@[simp] theorem putScalarRes_files (k : Core) (port : Nat) (l : Level) (x : Word) : (putScalarRes k port l x).files = k.files := by
  unfold putScalarRes
  split <;> rfl

@[simp] theorem orVstat_files (k : Core) (f : BitVec 8) : (orVstat k f).files = k.files := rfl

/-- A result goes to its port, never to a register. -/
@[simp] theorem deliver_files (k : Core) (f : Flight) : (deliver k f).files = k.files := by
  unfold deliver
  split
  · simp
  · simp
  · rfl

theorem foldl_deliver_files (l : List Flight) (k : Core) : (l.foldl deliver k).files = k.files := by
  induction l generalizing k with
  | nil => rfl
  | cons f l ih => rw [List.foldl_cons, ih, deliver_files]

theorem drainWhere_files (p : Flight → Bool) (k : Core) : (drainWhere p k).files = k.files :=
  foldl_deliver_files ..

/-- A stop at a slot leaves the registers alone and closes the bundle. -/
theorem stopAtSlot_core (k : Core) (i : Issue) (saves : Bool) :
    (stopAtSlot k i saves).1.files = k.files ∧ (stopAtSlot k i saves).1.issue = none := by
  have hfiles : (drainAt saves k).files = k.files := by
    cases saves
    · exact drainWhere_files ..
    · exact drainWhere_files ..
  exact ⟨hfiles, rfl⟩

/-- It stands at the bundle and the slot, with what has committed. -/
theorem stopAtSlot_stop (k : Core) (i : Issue) (saves : Bool) :
    (stopAtSlot k i saves).2 =
      { xpc := k.pc, done := i.done, slotres := i.slot, mid := true, shadows := (stopAtSlot k i saves).1.shadows } := rfl

/-! ### The trap at a slot (R65, R321) -/

/-- By unfolding `setTrap`: on the folded term the kernel would compare the two whole cores. -/
@[simp] theorem setTrap_issue (k : Core) (s : Stop) (f : Cause) : (setTrap k s f).issue = k.issue := by
  unfold setTrap; rfl

@[simp] theorem setTrap_files (k : Core) (s : Stop) (f : Cause) : (setTrap k s f).files = k.files := by
  unfold setTrap; rfl

/-- The trap registers hold where the core stopped: for a stop at a slot its bundle, the slot, what has committed, and MID. -/
theorem setTrap_stop (k : Core) (f : Cause) (pc : BitVec 14) (done : BitVec 8) (slot : Nat) (sh : List Shadow) :
    let r := (setTrap k { xpc := pc, done := done, slotres := slot, mid := true, shadows := sh } f).csr
    r.xpc = .ofNat 64 pc.toNat ∧ r.xstat.getLsbD 19 = true ∧ r.xstat.extractLsb' 20 3 = .ofNat 3 slot ∧
      r.xstat.extractLsb' 24 8 = done :=
  ⟨(BitVec.ofNat_toNat 64 pc).symm, xstatOf_mid .., xstatOf_slot .., xstatOf_done ..⟩

/-- The trap registers hold the code, the detail and the address of the cause. -/
theorem setTrap_cause (k : Core) (s : Stop) (f : Cause) :
    let r := (setTrap k s f).csr
    r.xcause.extractLsb' 0 5 = .ofNat 5 f.code ∧ r.xcause.extractLsb' 8 8 = .ofNat 8 f.detail ∧ r.xaddr = .ofNat 64 f.xaddr :=
  ⟨xcauseOf_code f, xcauseOf_detail f, rfl⟩

/-- A fault at a slot of a core at T level, if it replays nothing and is no translation fault, stops the core there and traps. -/
theorem slotFault_eq_takeTrap {st : State} {c : Nat} (i : Issue) (s d : Nat) {code : Nat} (detail xaddr : Nat)
    (hl : lvlOf (coreOf st c) = .t) (h8 : code ≠ 8) :
    slotFault st c i s d code detail xaddr =
      takeTrap { st with turn := .agenda } c (stopAtSlot (coreOf st c) i false).1 (stopAtSlot (coreOf st c) i false).2
        { code := code, detail := detail, xaddr := xaddr, unit := causeUnit s d, info := 0, async := false } := by
  have hs : ¬ (lvlOf (coreOf st c) = .s ∧ ¬ replayCode code = true) := by simp [hl]
  have hsave : (code == 8) = false := by simp [h8]
  simp only [slotFault, faultAtSlot, if_neg hs, hsave]

/-- A trap that enters its stub: the trap registers are set, the pc is the stub's vector, and the bundle and the registers are those
of the stopped core. -/
theorem takeTrap_core {st : State} {c : Nat} {k : Core} {s : Stop} {f : Cause} (hr : replayCode f.code = false) (h8 : f.code ≠ 8) :
    (coreOf (takeTrap st c k s f) c).csr = (setTrap k s f).csr ∧
    (coreOf (takeTrap st c k s f) c).pc = .ofNat 14 (stubVector f.code) ∧
    (coreOf (takeTrap st c k s f) c).issue = k.issue ∧ (coreOf (takeTrap st c k s f) c).files = k.files := by
  obtain ⟨a, b, h⟩ := takeTrap_enters st c k s f hr h8
  refine ⟨?_, ?_, ?_, ?_⟩
  · rw [h]; rfl
  · rw [h]
  · simp only [h, setTrap_issue]
  · simp only [h, setTrap_files]

/-- What such a trap leaves: the stub's vector in the pc, no open bundle, memory and the registers as they were, and the cause and
the stop in the trap registers. -/
theorem slotFault_traps {st : State} {c : Nat} (i : Issue) (s d : Nat) {code : Nat} (detail xaddr : Nat)
    (hl : lvlOf (coreOf st c) = .t) (hr : replayCode code = false) (h8 : code ≠ 8) :
    let t := slotFault st c i s d code detail xaddr
    let k := coreOf t c
    (k.pc = .ofNat 14 (stubVector code) ∧ k.issue = none ∧ t.mem = st.mem ∧ k.files = (coreOf st c).files) ∧
    (k.csr.xcause.extractLsb' 0 5 = .ofNat 5 code ∧ k.csr.xcause.extractLsb' 8 8 = .ofNat 8 detail ∧
      k.csr.xaddr = .ofNat 64 xaddr) ∧
    (k.csr.xpc = .ofNat 64 (coreOf st c).pc.toNat ∧ k.csr.xstat.getLsbD 19 = true ∧
      k.csr.xstat.extractLsb' 20 3 = .ofNat 3 i.slot ∧ k.csr.xstat.extractLsb' 24 8 = i.done) := by
  intro t k
  obtain ⟨hfiles, hissue⟩ := stopAtSlot_core (coreOf st c) i false
  have ht : t = _ := slotFault_eq_takeTrap i s d detail xaddr hl h8
  obtain ⟨hcsr, hpc, hopen, hregs⟩ := takeTrap_core (st := { st with turn := .agenda }) (c := c)
    (k := (stopAtSlot (coreOf st c) i false).1) (s := (stopAtSlot (coreOf st c) i false).2)
    (f := { code := code, detail := detail, xaddr := xaddr, unit := causeUnit s d, info := 0, async := false }) hr h8
  rw [← ht] at hcsr hpc hopen hregs
  refine ⟨⟨hpc, hopen.trans hissue, by rw [ht, takeTrap_mem], hregs.trans hfiles⟩, ?_⟩
  rw [hcsr, stopAtSlot_stop]
  exact ⟨setTrap_cause .., setTrap_stop ..⟩

/-! ### The step that meets a decode fault (R64, R83) -/

/-- A step whose next slot does not decode is the decode fault of that slot, whatever the guard (R64). -/
theorem step_of_decode_fails {st : State} {x : Issue} {e : DecodeError} (hturn : st.turn = .bundle)
    (hissue : (coreOf st st.cur).issue = some x) (hslot : x.slot < 8) (hdone : x.done.toNat.testBit x.slot = false)
    (hlit : (literalSlots x.words).getD x.slot false = false) (he : decodeSlot (slotWordOf x.words x.slot) = .error e) :
    step st = .next (decodeFault st (slotWordOf x.words x.slot) e) := by
  have hbad : slotStep st = .bad (slotWordOf x.words x.slot) e := by
    simp only [slotStep, hissue, Nat.not_le.mpr hslot, if_false, hdone, hlit, Bool.or_self, Bool.false_eq_true, he]
  simp only [step, hturn, hbad]

/-- The decode fault is an ILLMOV (code 1) at the slot that the open bundle has reached. -/
theorem decodeFault_eq {st : State} {x : Issue} (hissue : (coreOf st st.cur).issue = some x) (w : SlotWord) (e : DecodeError) :
    decodeFault st w e =
      slotFault st st.cur x (slotS w).toNat (slotD w).toNat 1 (illmov (slotD w).toNat e).1 (illmov (slotD w).toNat e).2 := by
  simp only [decodeFault, issueOf, hissue, Option.getD_some]

/-- Settles O3: the words that do not decode by their codes, then the trap of the step that meets one. -/
theorem reservedCodesAreDecodeFaults : Obligations.ReservedCodesAreDecodeFaults := by
  refine ⟨decodeSlot_fails_iff, fun st x e hturn hissue hslot hdone hlit he hl => ?_⟩
  have hstep := step_of_decode_fails hturn hissue hslot hdone hlit he
  rw [decodeFault_eq hissue] at hstep
  generalize slotWordOf x.words x.slot = w at hstep
  obtain ⟨⟨hpc, hopen, hmem, hfiles⟩, ⟨hcode, hdetail, hxaddr⟩, hxpc, hmid, hat, hcommitted⟩ :=
    slotFault_traps (st := st) (c := st.cur) (code := 1) x (slotS w).toNat (slotD w).toNat (illmov (slotD w).toNat e).1
      (illmov (slotD w).toNat e).2 hl (by decide) (by decide)
  refine ⟨_, hstep, hpc, hopen, hmem, hfiles, hcode, hxpc, hmid, hat, hcommitted, fun code => ⟨?_, ?_, ?_⟩⟩
  · rintro rfl; exact ⟨hxaddr, hdetail⟩
  · rintro rfl; exact ⟨hxaddr, hdetail⟩
  · rintro rfl; exact ⟨hxaddr, hdetail⟩

end Sys2Proof.Machine
end

section
/-! PROOFS. The operations of IA0 and IA1 (R118 to R121): a ready one puts its result in flight to the port of its unit, and each
result, as the model computes it, is the value that the tables of R119, R120 and R121 give. -/

namespace Sys2Proof.Machine

/-! ### The unit of an IA slot (R61, R88) -/

theorem iaUnit_eq_toNat {u : BitVec 2} (hu : u = 1 ∨ u = 2) : iaUnit u = u.toNat := by
  rcases hu with rfl | rfl
  · rfl
  · rfl

theorem iaPort_eq_toNat {u : BitVec 2} (hu : u = 1 ∨ u = 2) : iaPort u = 0x0F0 + u.toNat := by
  rcases hu with rfl | rfl
  · rfl
  · rfl

/-- A ready IA operation completes with its value, in the terms of the tables: the port of its unit, no flag. -/
theorem iaOp_completes {u : BitVec 2} (hu : u = 1 ∨ u = 2) {lat low : Nat} {f : Args → Word} {n : BitVec 1} {g : BitVec 4}
    {s : BitVec 9} {st : State} (hready : SlotReady st n g s.toNat) {v : Word} (hv : f (operands st u.toNat s.toNat) = v) :
    runTrigger (iaOp u lat f) low n g s st =
      .next (afterTrigger st s.toNat u.toNat (resultTo st (0x0F0 + u.toNat) (.s v) 0 lat)) := by
  rw [iaOp_ready u lat f low n g s st hready, iaUnit_eq_toNat hu, iaPort_eq_toNat hu, hv]

/-! ### Results of R119 -/

section Table

variable (a b c : Word)

theorem add_eq_ofNat : a + b = .ofNat 64 (a.toNat + b.toNat) := by
  rw [BitVec.ofNat_add, BitVec.ofNat_toNat, BitVec.ofNat_toNat, BitVec.setWidth_eq, BitVec.setWidth_eq]

theorem mul_eq_ofNat : a * b = .ofNat 64 (a.toNat * b.toNat) := by
  rw [BitVec.ofNat_mul, BitVec.ofNat_toNat, BitVec.ofNat_toNat, BitVec.setWidth_eq, BitVec.setWidth_eq]

theorem madd_eq_ofNat : a * b + c = .ofNat 64 (a.toNat * b.toNat + c.toNat) := by
  rw [BitVec.ofNat_add, ← mul_eq_ofNat, BitVec.ofNat_toNat, BitVec.setWidth_eq]

theorem sub_eq_ofInt : a - b = .ofInt 64 (a.toInt - b.toInt) := by
  rw [Int.sub_eq_add_neg, BitVec.ofInt_add, BitVec.ofInt_neg, BitVec.ofInt_toInt, BitVec.ofInt_toInt, BitVec.sub_eq_add_neg]

/-- The high half of the unsigned product. -/
theorem mulHigh_toNat : mulHigh ((a.toNat : Int) * (b.toNat : Int)) = .ofNat 64 (a.toNat * b.toNat / 2 ^ 64) :=
  BitVec.ofInt_natCast 64 _

theorem shl_eq_ofNat (k : Nat) : a <<< k = .ofNat 64 (a.toNat * 2 ^ k) := by
  refine BitVec.eq_of_toNat_eq ?_
  rw [BitVec.toNat_shiftLeft, Nat.shiftLeft_eq, BitVec.toNat_ofNat]

theorem shr_eq_ofNat (k : Nat) : a >>> k = .ofNat 64 (a.toNat / 2 ^ k) := by
  rw [← Nat.shiftRight_eq_div_pow, ← BitVec.toNat_ushiftRight, BitVec.ofNat_toNat, BitVec.setWidth_eq]

theorem sar_eq_ofInt (k : Nat) : a.sshiftRight k = .ofInt 64 (a.toInt / 2 ^ k) := by
  rw [BitVec.sshiftRight_eq, Int.shiftRight_eq_div_pow, Int.natCast_pow, Int.cast_ofNat_Int]

/-- A left rotation by less than the width: the bits shifted out at the top come back at the bottom, where the shift left zeros. -/
theorem rol_eq_ofNat {k : Nat} (hk : k < 64) : a.rotateLeft k = .ofNat 64 (a.toNat * 2 ^ k + a.toNat / 2 ^ (64 - k)) := by
  have hdisjoint : a <<< k &&& a >>> (64 - k) = 0 := by
    refine BitVec.eq_of_getLsbD_eq fun i hi => ?_
    rw [BitVec.getLsbD_and, BitVec.getLsbD_shiftLeft, BitVec.getLsbD_ushiftRight]
    by_cases hik : i < k
    · simp [hik]
    · simp [BitVec.getLsbD_of_ge a (64 - k + i) (by omega)]
  rw [BitVec.rotateLeft_def, Nat.mod_eq_of_lt hk, ← BitVec.add_eq_or_of_and_eq_zero _ _ hdisjoint, shl_eq_ofNat, shr_eq_ofNat,
    ← BitVec.ofNat_add]

theorem lea_eq_ofNat (k : Nat) : a + (b <<< k) = .ofNat 64 (a.toNat + b.toNat * 2 ^ k) := by
  rw [BitVec.ofNat_add, ← shl_eq_ofNat, BitVec.ofNat_toNat, BitVec.setWidth_eq]

theorem minS_eq : (if b.slt a then b else a) = if a.toInt ≤ b.toInt then a else b := by
  simp only [BitVec.slt_eq_decide, decide_eq_true_eq, ← Int.not_lt, ite_not]

theorem maxS_eq : (if a.slt b then b else a) = if b.toInt ≤ a.toInt then a else b := by
  simp only [BitVec.slt_eq_decide, decide_eq_true_eq, ← Int.not_lt, ite_not]

theorem minU_eq : (if b.ult a then b else a) = if a.toNat ≤ b.toNat then a else b := by
  simp only [BitVec.ult_eq_decide, decide_eq_true_eq, ← Nat.not_lt, ite_not]

theorem maxU_eq : (if a.ult b then b else a) = if b.toNat ≤ a.toNat then a else b := by
  simp only [BitVec.ult_eq_decide, decide_eq_true_eq, ← Nat.not_lt, ite_not]

/-- Also of −2^63, whose magnitude does not fit and wraps to itself. -/
theorem abs_eq_ofInt : (if a.slt 0 then -a else a) = .ofInt 64 (if a.toInt < 0 then -a.toInt else a.toInt) := by
  simp only [BitVec.slt_eq_decide, decide_eq_true_eq, show (0 : Word).toInt = 0 from rfl]
  by_cases hneg : a.toInt < 0
  · rw [if_pos hneg, if_pos hneg, BitVec.ofInt_neg, BitVec.ofInt_toInt]
  · rw [if_neg hneg, if_neg hneg, BitVec.ofInt_toInt]

theorem boolW_bne : boolW (a != b) = if decide (a ≠ b) = true then 1 else 0 := by
  simp only [boolW, bne_iff_ne, decide_eq_true_eq]

end Table

theorem cnt6_lt (b : Word) : cnt6 b < 64 := Nat.mod_lt _ (by decide)

/-! ### Results of R120 and R121 -/

section Fields

variable (a b c d : Word)

/-- The remainder toward zero is what the quotient of R120 leaves, also of −2^63 by −1. -/
theorem remS_eq_sub : remS a b = if b = 0 then a else .ofInt 64 (a.toInt - b.toInt * a.toInt.tdiv b.toInt) := by
  rw [remS, Int.tmod_def]

theorem remU_eq_sub : remU a b = if b = 0 then a else .ofNat 64 (a.toNat - b.toNat * (a.toNat / b.toNat)) := by
  rw [remU, Nat.mod_def]

theorem width7_le : width7 b ≤ 64 := Nat.min_le_right ..

/-- The low `w` bits read as a two's complement number. -/
theorem sint_eq (w x : Nat) :
    sint w x = if x % 2 ^ w < 2 ^ (w - 1) then ((x % 2 ^ w : Nat) : Int) else ((x % 2 ^ w : Nat) : Int) - 2 ^ w := by
  rw [sint, Int.natCast_pow, Int.cast_ofNat_Int]

theorem sextW_eq {w : Nat} (hw : w = width7 b) :
    sextW a b = if w = 0 then 0 else
      .ofInt 64 (if a.toNat % 2 ^ w < 2 ^ (w - 1) then ((a.toNat % 2 ^ w : Nat) : Int) else ((a.toNat % 2 ^ w : Nat) : Int) - 2 ^ w) := by
  rw [sextW, sint_eq, hw]

theorem zextW_eq {w : Nat} (hw : w = width7 b) : zextW a b = .ofNat 64 (a.toNat % 2 ^ w) := by
  rw [zextW, hw]

/-- The field of `b` stands at the position, and the mask cuts it at bit 63. -/
theorem bfiW_eq {pos : Nat} {m : Word} (hpos : pos = cnt6 c) (hm : m = .ofNat 64 ((2 ^ min (width7 d) (64 - pos) - 1) * 2 ^ pos)) :
    bfiW a b c d = (a &&& ~~~m) ||| (.ofNat 64 (b.toNat * 2 ^ pos) &&& m) := by
  rw [bfiW, ← shl_eq_ofNat, hm, hpos]

end Fields

/-- Settles O12: each row by the completion of an IA operation and the lemma that gives its result. The rows closed by `rfl` are those
that the model computes as the table writes them: logic, counts, selection, the compares, the signed high half. -/
theorem integerResults : Obligations.IntegerResults := by
  intro st n g s u hu hready
  simp only [iaRows, List.forall_mem_cons]
  have row {lat low : Nat} {f : Args → Word} {v : Word} := iaOp_completes hu (lat := lat) (low := low) (f := f) (v := v) hready
  exact ⟨row (add_eq_ofNat ..), row (sub_eq_ofInt ..),
    row (mul_eq_ofNat ..), row rfl, row (mulHigh_toNat ..), -- mul, mulh, mulhu
    row rfl, row rfl, row rfl, row rfl, -- and, or, xor, andn
    row (shl_eq_ofNat ..), row (shr_eq_ofNat ..), row (sar_eq_ofInt ..), row (rol_eq_ofNat _ (cnt6_lt _)),
    row rfl, row rfl, row rfl, -- clz, ctz, popc
    row (minS_eq ..), row (maxS_eq ..), row (minU_eq ..), row (maxU_eq ..),
    row rfl, row (boolW_bne ..), row rfl, row rfl, row rfl, row rfl, -- cmpeq, cmpne, cmplt, cmpltu, cmple, cmpleu
    row rfl, -- sel
    row (madd_eq_ofNat ..), row (lea_eq_ofNat ..), row (abs_eq_ofInt ..), List.forall_mem_nil _⟩

/-- Settles O13: the rows of R120, then those of R121, by the same completion; a width capped at 64 once more is that width. -/
theorem divisionAndFieldResults : Obligations.DivisionAndFieldResults := by
  refine ⟨fun st n g s u hu hready => ?_, fun st n g s u hu hready => ?_⟩
  · simp only [divRows, List.forall_mem_cons]
    exact ⟨iaOp_completes hu hready rfl, iaOp_completes hu hready rfl, iaOp_completes hu hready (remS_eq_sub ..),
      iaOp_completes hu hready (remU_eq_sub ..), List.forall_mem_nil _⟩
  · simp only [fieldRows, List.forall_mem_cons]
    have hcap := Nat.min_eq_left (width7_le (operands st u.toNat s.toNat).b)
    exact ⟨iaOp_completes hu hready (sextW_eq _ _ hcap), iaOp_completes hu hready (zextW_eq _ _ hcap), iaOp_completes hu hready rfl,
      iaOp_completes hu hready (bfiW_eq _ _ _ _ rfl rfl), List.forall_mem_nil _⟩

end Sys2Proof.Machine
end

section
/-! PROOFS. sysc and brk as their bundle closes (R101, R111, R112): what the drain of a stop, the end of a bundle and a halt leave of
the control state of a core, the fields of XSTAT that a trap after a whole bundle sets (R18, R321), and the closing bundle. -/

namespace Sys2Proof.Machine

/-! ### What the drain of a stop changes (R84, R97) -/

/-- A result that is delivered reaches a port, and its flags VSTAT or SSSTAT, with the record of the tick's flags. -/
theorem deliver_frame (k : Core) (f : Flight) :
    ∃ ports sbank vstat ssstat newFlags newSs, deliver k f =
      { k with ports, sbank, csr := { k.csr with vstat, ssstat }, newFlags, newSs } := by
  unfold deliver ssFlags orSsstat putScalarRes
  repeat' split
  all_goals exact ⟨_, _, _, _, _, _, rfl⟩

theorem foldl_deliver_frame (l : List Flight) (k : Core) :
    ∃ ports sbank vstat ssstat newFlags newSs, l.foldl deliver k =
      { k with ports, sbank, csr := { k.csr with vstat, ssstat }, newFlags, newSs } := by
  induction l generalizing k with
  | nil => exact ⟨_, _, _, _, _, _, rfl⟩
  | cons f l ih =>
    obtain ⟨_, _, _, _, _, _, hf⟩ := deliver_frame k f
    obtain ⟨_, _, _, _, _, _, hl⟩ := ih (deliver k f)
    rw [List.foldl_cons, hl, hf]
    exact ⟨_, _, _, _, _, _, rfl⟩

/-- A drain delivers what is in flight: every register but the status flags, and the control state, stay. -/
theorem drainWhere_frame (pick : Flight → Bool) (k : Core) :
    ∃ flight ports sbank vstat ssstat newFlags newSs, drainWhere pick k =
      { k with flight, ports, sbank, csr := { k.csr with vstat, ssstat }, newFlags, newSs } := by
  obtain ⟨_, _, _, _, _, _, h⟩ := foldl_deliver_frame _ _
  exact ⟨_, _, _, _, _, _, _, h⟩

/-- The trap registers are among those that stay. -/
theorem drainInPlace_trapRegs (k : Core) :
    (drainInPlace k).csr.xstat = k.csr.xstat ∧ (drainInPlace k).csr.xpc = k.csr.xpc ∧ (drainInPlace k).csr.xcause = k.csr.xcause := by
  obtain ⟨_, _, _, _, _, _, _, h⟩ := drainWhere_frame (fun f => f.port != 0x0FA) k
  rw [drainInPlace, h]
  exact ⟨rfl, rfl, rfl⟩

/-! ### XSTAT after a trap of a whole bundle (R18, R111, R321) -/

section Xstat

variable (done : BitVec 8) (slotres : Nat) (mid shd : Bool) (plvl lvl : Level) (pend : Nat)

theorem xstatOf_bit {j : Nat} (hj : j < 64) :
    (xstatOf done slotres mid shd plvl lvl pend).getLsbD j =
      decide ((done.toNat * 2 ^ 24 + (slotres % 8) * 2 ^ 20 + b2n mid * 2 ^ 19 + b2n shd * 2 ^ 18 + lvlBit plvl * 2 ^ 17
        + lvlBit lvl * 2 ^ 16 + pend % 256) / 2 ^ j % 2 = 1) := by
  rw [xstatOf, BitVec.getLsbD_ofNat, Nat.testBit_eq_decide_div_mod_eq, decide_eq_true hj, Bool.true_and]

/-- XSTAT.PLVL. -/
@[simp] theorem xstatOf_plvl : (xstatOf done slotres mid shd plvl lvl pend).getLsbD 17 = (plvl == .s) := by
  have := lvlBit_le_one lvl
  rw [xstatOf_bit _ _ _ _ _ _ _ (by decide)]
  cases plvl
  · exact decide_eq_false (by rw [lvlBit]; omega)
  · exact decide_eq_true (by rw [lvlBit]; omega)

/-- XSTAT.LVL. -/
@[simp] theorem xstatOf_lvl : (xstatOf done slotres mid shd plvl lvl pend).getLsbD 16 = (lvl == .s) := by
  rw [xstatOf_bit _ _ _ _ _ _ _ (by decide)]
  cases lvl
  · exact decide_eq_false (by simp only [lvlBit]; omega)
  · exact decide_eq_true (by simp only [lvlBit]; omega)

/-- With nothing committed of a bundle, and no shadow entry, the fields above PLVL are zero. -/
theorem xstatOf_between : (xstatOf 0 0 false false plvl lvl pend).extractLsb' 18 14 = 0 := by
  have := lvlBit_le_one plvl
  have := lvlBit_le_one lvl
  refine BitVec.eq_of_toNat_eq ?_
  rw [xstatOf, toNat_extractLsb'_ofNat]
  simp only [b2n, Bool.false_eq_true, if_false, show ∀ w, (0 : BitVec w).toNat = 0 from fun _ => rfl]
  omega

end Xstat

/-- The level of a core is bit LVL of its XSTAT. -/
theorem lvlOf_beq_s (k : Core) : (lvlOf k == .s) = k.csr.xstat.getLsbD 16 := by
  rw [lvlOf, bit, BitVec.getLsbD]
  cases k.csr.xstat.toNat.testBit 16 <;> rfl

/-- The trap registers of a core that stops after a whole bundle (R111). -/
theorem setTrap_afterStop (k : Core) (idx : Nat) (f : Cause) :
    let r := (setTrap k (afterStop idx) f).csr
    r.xpc = .ofNat 64 ((idx + 1) % 2 ^ 14) ∧ r.xstat.extractLsb' 18 14 = 0 ∧ r.xstat.getLsbD 17 = k.csr.xstat.getLsbD 16 ∧
      r.xstat.getLsbD 16 = true :=
  ⟨(BitVec.ofNat_toNat 64 (.ofNat 14 (idx + 1))).symm, xstatOf_between .., (xstatOf_plvl ..).trans (lvlOf_beq_s k), xstatOf_lvl ..⟩

/-! ### A halt (R344) -/

/-- A loop over states of which no turn touches core `c` leaves it as it was. -/
theorem coreOf_foldl {f : State → Nat → State} {c : Nat} (hf : ∀ st o, coreOf (f st o) c = coreOf st c) (l : List Nat) (st : State) :
    coreOf (l.foldl f st) c = coreOf st c :=
  List.foldlRecOn (motive := fun x => coreOf x c = coreOf st c) l f rfl fun x hx o _ => (hf x o).trans hx

/-- A core that halts keeps its control registers; DPC holds where it stopped. Of its halt group it is the others that follow. -/
theorem haltCore_core (st : State) (c : Nat) (k : Core) (s : Stop) (hcause : Nat) :
    (coreOf (haltCore st c k s hcause) c).run = .halted ∧ (coreOf (haltCore st c k s hcause) c).dbg.dpc = s.xpc ∧
      (coreOf (haltCore st c k s hcause) c).csr = k.csr := by
  obtain ⟨a, b, h⟩ := trapCore st c k
  unfold haltCore
  dsimp only
  rw [h]
  split
  · simp
  · rw [coreOf_foldl (fun st o => ?_)]
    · simp
    · split
      next ho => exact coreOf_modCore_other _ _ (Ne.symm ho.1)
      next => rfl

/-! ### The bundle that closes (R101) -/

/-- The state whose open bundle core `c` has left. -/
def leftState (st : State) (c : Nat) (i : Issue) : State := modCore { st with turn := .agenda } c (leaveBundle i)

/-- Leaving a bundle changes no control register and nothing of the debug state. -/
theorem leaveBundle_keeps (i : Issue) (k : Core) : (leaveBundle i k).csr = k.csr ∧ (leaveBundle i k).dbg = k.dbg := by
  unfold leaveBundle
  split
  · exact ⟨rfl, rfl⟩
  · exact ⟨rfl, rfl⟩

theorem coreOf_leftState (st : State) (c : Nat) (i : Issue) :
    (coreOf (leftState st c i) c).csr = (coreOf st c).csr ∧ (coreOf (leftState st c i) c).dbg = (coreOf st c).dbg := by
  rw [leftState, coreOf_modCore_same]
  exact leaveBundle_keeps i _

/-- BUNDLE_ISSUE on a bundle whose slots have all committed and whose CU operation is `p`: the operation takes effect, and flags raised
in this tick stay. -/
theorem exec_bundleIssue_close {st : State} {c : Nat} {i : Issue} {p : CuPend} (hc : c < 768) (hissue : (coreOf st c).issue = some i)
    (hslot : 8 ≤ i.slot) (hpend : i.pend = some p) :
    exec (.bundleIssue c) st =
      .next (modCore (completeCu (leftState st c i) c p i.loopIn i.idx (cuSlot i) i.en) c keepNewFlags) := by
  have hcore : ¬ numCores ≤ c := Nat.not_le.mpr hc
  change execBundleIssue c st = _
  simp only [execBundleIssue, hcore, if_false, hissue, if_pos hslot, closeBundle, hpend, leftState]

section KeepNewFlags

variable (k : Core)

@[simp] theorem keepNewFlags_pc : (keepNewFlags k).pc = k.pc := rfl
@[simp] theorem keepNewFlags_run : (keepNewFlags k).run = k.run := rfl
@[simp] theorem keepNewFlags_dbg : (keepNewFlags k).dbg = k.dbg := rfl
@[simp] theorem keepNewFlags_xstat : (keepNewFlags k).csr.xstat = k.csr.xstat := rfl
@[simp] theorem keepNewFlags_xpc : (keepNewFlags k).csr.xpc = k.csr.xpc := rfl
@[simp] theorem keepNewFlags_xcause : (keepNewFlags k).csr.xcause = k.csr.xcause := rfl
@[simp] theorem keepNewFlags_xaddr : (keepNewFlags k).csr.xaddr = k.csr.xaddr := rfl

end KeepNewFlags

section Complete

variable (st : State) (c : Nat) (p : CuPend) (l : LoopIn) (idx slot : Nat) (en : BitVec 8)

/-- The cause that sysc and brk raise, with port a in XADDR. -/
def cuCause (code : Nat) : Cause := { code := code, detail := 0, xaddr := p.a.toNat, unit := 0, info := 0, async := false }

/-- The core of a sysc or a brk as its trap finds it. -/
def cuStopped : Core := { drainInPlace (coreOf st c) with issue := none, enmask := en }

/-- The core of a brk that halts, at the bundle after. -/
def cuHalted : Core := { drainInPlace (coreOf st c) with issue := none, pc := .ofNat 14 (idx + 1) }

theorem cuStopped_csr : (cuStopped st c en).csr = (drainInPlace (coreOf st c)).csr := rfl

theorem cuHalted_csr : (cuHalted st c idx).csr = (drainInPlace (coreOf st c)).csr := rfl

theorem completeCu_sysc (hop : p.op = 0x0E) :
    completeCu st c p l idx slot en = takeTrap st c (cuStopped st c en) (afterStop idx) (cuCause p 16) := by
  simp only [completeCu, hop, cuStopped, cuCause]

theorem completeCu_brk_trap (hop : p.op = 0x10) (harm : (coreOf st c).dbg.dstat.getLsbD 0 = false) :
    completeCu st c p l idx slot en = takeTrap st c (cuStopped st c en) (afterStop idx) (cuCause p 17) := by
  have hbit : bit (coreOf st c).dbg.dstat.toNat 0 = false := harm
  simp only [completeCu, hop, hbit, Bool.false_eq_true, if_false, cuStopped, cuCause]

theorem completeCu_brk_halt (hop : p.op = 0x10) (harm : (coreOf st c).dbg.dstat.getLsbD 0 = true) :
    completeCu st c p l idx slot en = haltCore st c (cuHalted st c idx) (afterStop idx) 3 := by
  have hbit : bit (coreOf st c).dbg.dstat.toNat 0 = true := harm
  simp only [completeCu, hop, hbit, if_true, cuHalted]

end Complete

/-! ### The two outcomes (R111, R112) -/

section Outcomes

variable {st : State} {c : Nat} {i : Issue} {p : CuPend}

/-- A bundle whose CU operation traps once it has completed, with a cause that enters a stub: XPC is the bundle after, XADDR port a. -/
theorem exec_bundleIssue_traps {code : Nat} (hc : c < 768) (hissue : (coreOf st c).issue = some i) (hslot : 8 ≤ i.slot)
    (hpend : i.pend = some p) (hr : replayCode code = false) (h8 : code ≠ 8)
    (htrap : completeCu (leftState st c i) c p i.loopIn i.idx (cuSlot i) i.en =
      takeTrap (leftState st c i) c (cuStopped (leftState st c i) c i.en) (afterStop i.idx) (cuCause p code)) :
    ∃ t, exec (.bundleIssue c) st = .next t ∧ (coreOf t c).pc = .ofNat 14 (9898 + code) ∧ t.mem = st.mem ∧
      let r := (coreOf t c).csr
      r.xpc = .ofNat 64 ((i.idx + 1) % 2 ^ 14) ∧ r.xaddr = p.a ∧ r.xcause.extractLsb' 0 5 = .ofNat 5 code ∧
      r.xstat.extractLsb' 18 14 = 0 ∧ r.xstat.getLsbD 17 = (coreOf st c).csr.xstat.getLsbD 16 ∧ r.xstat.getLsbD 16 = true := by
  refine ⟨_, exec_bundleIssue_close hc hissue hslot hpend, ?_⟩
  rw [htrap, coreOf_modCore_same, modCore_mem, takeTrap_mem]
  obtain ⟨hcsr, hpc, -, -⟩ := takeTrap_core (st := leftState st c i) (c := c) (k := cuStopped (leftState st c i) c i.en)
    (s := afterStop i.idx) (f := cuCause p code) hr h8
  obtain ⟨hcode, -, hxaddr⟩ := setTrap_cause (cuStopped (leftState st c i) c i.en) (afterStop i.idx) (cuCause p code)
  obtain ⟨hxpc, hzero, hplvl, hlvl⟩ := setTrap_afterStop (cuStopped (leftState st c i) c i.en) i.idx (cuCause p code)
  obtain ⟨hdrain, -, -⟩ := drainInPlace_trapRegs (coreOf (leftState st c i) c)
  simp only [keepNewFlags_pc, keepNewFlags_xpc, keepNewFlags_xaddr, keepNewFlags_xcause, keepNewFlags_xstat, hcsr]
  refine ⟨hpc, rfl, hxpc, ?_, hcode, hzero, ?_, hlvl⟩
  · rw [hxaddr, cuCause, BitVec.ofNat_toNat, BitVec.setWidth_eq]
  · rw [hplvl, cuStopped_csr, hdrain, (coreOf_leftState st c i).1]

/-- A brk of an armed core: it halts at the bundle after, and the trap registers stay. -/
theorem exec_bundleIssue_halts (hc : c < 768) (hissue : (coreOf st c).issue = some i) (hslot : 8 ≤ i.slot)
    (hpend : i.pend = some p) (hop : p.op = 0x10) (harm : (coreOf st c).dbg.dstat.getLsbD 0 = true) :
    ∃ t, exec (.bundleIssue c) st = .next t ∧ (coreOf t c).run = .halted ∧ (coreOf t c).dbg.dpc = .ofNat 14 (i.idx + 1) ∧
      (coreOf t c).csr.xpc = (coreOf st c).csr.xpc ∧ (coreOf t c).csr.xcause = (coreOf st c).csr.xcause := by
  obtain ⟨hleftCsr, hleftDbg⟩ := coreOf_leftState st c i
  refine ⟨_, exec_bundleIssue_close hc hissue hslot hpend, ?_⟩
  rw [completeCu_brk_halt _ _ _ _ _ _ _ hop (by rw [hleftDbg]; exact harm), coreOf_modCore_same]
  obtain ⟨hrun, hdpc, hcsr⟩ := haltCore_core (leftState st c i) c (cuHalted (leftState st c i) c i.idx) (afterStop i.idx) 3
  obtain ⟨-, hxpc, hxcause⟩ := drainInPlace_trapRegs (coreOf (leftState st c i) c)
  simp only [keepNewFlags_run, keepNewFlags_dbg, keepNewFlags_xpc, keepNewFlags_xcause, hcsr, cuHalted_csr, hxpc, hxcause, hleftCsr, and_true]
  exact ⟨hrun, hdpc⟩

end Outcomes

/-- Settles O21: sysc and an unarmed brk trap with their codes, an armed brk halts. -/
theorem syscAndBrk : Obligations.SyscAndBrk := by
  intro st c i p hc hissue hslot hpend
  obtain ⟨-, hdbg⟩ := coreOf_leftState st c i
  refine ⟨fun hop => ?_, fun hop harm => ?_, fun hop harm => exec_bundleIssue_halts hc hissue hslot hpend hop harm⟩
  · exact exec_bundleIssue_traps hc hissue hslot hpend (by decide) (by decide) (completeCu_sysc _ _ _ _ _ _ _ hop)
  · exact exec_bundleIssue_traps hc hissue hslot hpend (by decide) (by decide)
      (completeCu_brk_trap _ _ _ _ _ _ _ hop (by rw [hdbg]; exact harm))

end Sys2Proof.Machine
end

section
/-! PROOFS. The operations of VA0 and VA1 that R152, R153, R154, R160 and R163 give: a ready one whose check passes puts its
result in flight to the port of its unit, each lane's result as the model computes it is the value that the rules give, and a
selected mask is the one that stood as the bundle opened. -/

namespace Sys2Proof.Machine

/-! ### The unit of a VA slot (R61) -/

theorem vaUnit_eq_toNat (u : BitVec 1) : vaUnit u = 4 + u.toNat := by
  rcases BitVec.eq_zero_or_eq_one u with rfl | rfl
  · rfl
  · rfl

theorem vaR_eq_toNat (u : BitVec 1) : vaR u = 0x0F3 + 2 * u.toNat := by
  rcases BitVec.eq_zero_or_eq_one u with rfl | rfl
  · rfl
  · rfl

theorem vaM_eq_toNat (u : BitVec 1) : vaM u = 0x0F4 + 2 * u.toNat := by
  rcases BitVec.eq_zero_or_eq_one u with rfl | rfl
  · rfl
  · rfl

/-! ### The state that a trigger acts on (R10) -/

/-- The state once a trigger of unit `u` has read its source and port a holds the moved value: what its effect starts from. -/
def portWritten (st : State) (s u : Nat) : State :=
  modCore (afterSource st s) st.cur fun k => putPort k (lvlOf (slotCore st)) u 0 (sourceVal st s)

/-- Only what the effect does to that state counts. -/
theorem afterTrigger_congr {st : State} {s u : Nat} {f f' : State → State}
    (h : f (portWritten st s u) = f' (portWritten st s u)) :
    afterTrigger st s u f = afterTrigger st s u f' :=
  congrArg (commitSlot · (slotIssue st) (slotWidth s) []) h

theorem putPort_issue (k : Core) (l : Level) (u p : Nat) (v : Val) : (putPort k l u p v).issue = k.issue := by
  unfold putPort
  split
  · rfl
  · split
    · rfl
    · rfl

/-- The bundle stays open, with its record as it was. -/
theorem issueOf_portWritten (st : State) (s u : Nat) : issueOf (coreOf (portWritten st s u) st.cur) = slotIssue st := by
  rw [portWritten, coreOf_modCore_same, issueOf, putPort_issue, afterSource, coreOf_setCore_same, Option.getD_some]

/-! ### Operations that complete (R84) -/

section Complete

variable {st : State} {n : BitVec 1} {g : BitVec 4} {s : BitVec 9} {u : BitVec 1} {lat low : Nat} {chk : Args → Check}

/-- A ready VA operation whose check passes delivers its vector to va0.r or va1.r. -/
theorem vaOp_completes {f : State → Args → Vec × Flags8} (hready : SlotReady st n g s.toNat)
    (hchk : chk (operands st (4 + u.toNat) s.toNat) = .ok) {v : Vec} {fl : Flags8}
    (hval : f (portWritten st s.toNat (4 + u.toNat)) (operands st (4 + u.toNat) s.toNat) = (v, fl)) :
    runTrigger (vaOp u lat chk f) low n g s st =
      .next (afterTrigger st s.toNat (4 + u.toNat) (resultTo st (0x0F3 + 2 * u.toNat) (.v v) fl lat)) := by
  rw [vaOp_ready u lat chk f low n g s st hready (by rw [vaUnit_eq_toNat]; exact hchk), vaUnit_eq_toNat, vaR_eq_toNat]
  refine congrArg _ (afterTrigger_congr ?_)
  simp only [hval]

/-- A ready VA operation whose check passes delivers its mask to va0.m or va1.m. -/
theorem vaMaskOp_completes {f : State → Args → Word × Flags8} (hready : SlotReady st n g s.toNat)
    (hchk : chk (operands st (4 + u.toNat) s.toNat) = .ok) {m : Word} {fl : Flags8}
    (hval : f (portWritten st s.toNat (4 + u.toNat)) (operands st (4 + u.toNat) s.toNat) = (m, fl)) :
    runTrigger (vaMaskOp u lat chk f) low n g s st =
      .next (afterTrigger st s.toNat (4 + u.toNat) (resultTo st (0x0F4 + 2 * u.toNat) (.s m) fl lat)) := by
  rw [vaMaskOp_ready u lat chk f low n g s st hready (by rw [vaUnit_eq_toNat]; exact hchk), vaUnit_eq_toNat, vaM_eq_toNat]
  refine congrArg _ (afterTrigger_congr ?_)
  simp only [hval]

theorem orFlags_zero : (orFlags fun _ => 0) = 0 := by decide

theorem lanewise_noFlags (f : Nat → Lane) : (lanewise fun i => (f i, 0)) = (lanes f, 0) := by
  rw [lanewise_eq, orFlags_zero]

theorem lanemask_noFlags (f : Nat → Bool) : (lanemask fun i => (f i, 0)) = (maskOf f, 0) := by
  rw [lanemask_eq, orFlags_zero]

/-- An integer operation delivers, in every lane, the value of `f` for the two lanes (R153). -/
theorem vaInt_completes {f : Lane → Lane → Lane} {r : Nat → Lane} (hready : SlotReady st n g s.toNat)
    (hrow : ∀ i, f (laneOf (operands st (4 + u.toNat) s.toNat).va i) (laneOf (operands st (4 + u.toNat) s.toNat).vb i) = r i) :
    runTrigger (vaInt u f) low n g s st =
      .next (afterTrigger st s.toNat (4 + u.toNat) (resultTo st (0x0F3 + 2 * u.toNat) (.v (lanes r)) 0 2)) := by
  refine vaOp_completes hready rfl ?_
  simp only [hrow, lanewise_noFlags]

/-- An integer compare delivers the mask of the lanes for which `f` holds (R154). -/
theorem vaIcmp_completes {f : Lane → Lane → Bool} {r : Nat → Bool} (hready : SlotReady st n g s.toNat)
    (hrow : ∀ i, f (laneOf (operands st (4 + u.toNat) s.toNat).va i) (laneOf (operands st (4 + u.toNat) s.toNat).vb i) = r i) :
    runTrigger (vaIcmp u f) low n g s st =
      .next (afterTrigger st s.toNat (4 + u.toNat) (resultTo st (0x0F4 + 2 * u.toNat) (.s (maskOf r)) 0 2)) := by
  refine vaMaskOp_completes hready rfl ?_
  simp only [hrow, lanemask_noFlags]

end Complete

/-! ### Results of R153, for one lane -/

section Lane

variable (a b : Lane) (k : Nat)

theorem laneSub_eq_ofInt : a - b = .ofInt 32 (a.toInt - b.toInt) := by
  rw [← BitVec.toInt_inj, BitVec.toInt_sub, BitVec.toInt_ofInt]

theorem laneShl_eq_ofNat : a <<< k = .ofNat 32 (a.toNat * 2 ^ k) := by
  rw [← Nat.shiftLeft_eq]; rfl

theorem laneShr_eq_ofNat : a >>> k = .ofNat 32 (a.toNat / 2 ^ k) := by
  rw [← Nat.shiftRight_eq_div_pow, ← BitVec.toNat_ushiftRight, BitVec.ofNat_toNat, BitVec.setWidth_eq]

theorem laneSar_eq_ofInt : a.sshiftRight k = .ofInt 32 (a.toInt / 2 ^ k) := by
  rw [BitVec.sshiftRight_eq, Int.shiftRight_eq_div_pow, Int.natCast_pow, Int.cast_ofNat_Int]

end Lane

/-- The model takes the second lane only when it is strictly below (imin, iminu) or above (imax, imaxu), the rule the first when
that is not so: `q` is the condition of the rule, `p` that of the model. -/
theorem select_second_eq_select_first {α : Type} {p q : Prop} [Decidable p] [Decidable q] (hqp : ¬p ↔ q) (x y : α) :
    (if decide p = true then y else x) = if q then x else y := by
  simp only [decide_eq_true_eq, ← hqp, ite_not]

/-! ### A lane number and equal lanes (R160) -/

theorem illctlIf_lane_ok {k : Nat} (hk : k < 64) (port xaddr : Nat) : illctlIf (decide (64 ≤ k)) port xaddr = .ok := by
  rw [decide_eq_false (by omega)]; rfl

/-- Equal lanes are a multiple of lanes that are all 1. -/
theorem lanesNat_replicate (n : Nat) (x : Lane) :
    lanesNat (List.replicate n x) = x.toNat * lanesNat (List.replicate n 1) := by
  induction n with
  | zero => rfl
  | succ n ih =>
    rw [List.replicate_succ, List.replicate_succ, lanesNat, lanesNat, ih, Nat.mul_add, Nat.mul_left_comm,
      show (1 : Lane).toNat = 1 from rfl, Nat.mul_one]

/-- Lanes that are all 1 are a geometric sum, in the closed form that `splat` multiplies by. -/
theorem lanesNat_replicate_one (n : Nat) : lanesNat (List.replicate n 1) = ((2 ^ 32) ^ n - 1) / (2 ^ 32 - 1) := by
  have hsum : lanesNat (List.replicate n 1) * (2 ^ 32 - 1) + 1 = (2 ^ 32) ^ n := by
    induction n with
    | zero => rfl
    | succ n ih =>
      rw [List.replicate_succ, lanesNat, show (1 : Lane).toNat = 1 from rfl, Nat.pow_succ (2 ^ 32), ← ih]
      clear ih -- omega would evaluate its power
      omega
  rw [← hsum, Nat.add_sub_cancel, Nat.mul_div_cancel _ (by decide)]

theorem splat_eq_lanes (x : Lane) : splat x = lanes fun _ => x := by
  rw [splat, lanes, ofLanes, List.map_const', List.length_range, lanesNat_replicate, lanesNat_replicate_one,
    ← Nat.pow_mul, show 32 * 64 = 2048 from rfl]

/-! ### Selected masks (R86, R63) -/

section Masks

variable {st : State} {n : BitVec 1} {g : BitVec 4} {s : BitVec 9} {u : BitVec 1} {low : Nat} {x : Word}

theorem selMCheck_ok (h : MaskSelOk x) (port : Nat) : selMCheck x port = .ok := by
  have hlegal : (decide (16 ≤ x.toNat) || (decide (0 < x.toNat) && decide (x.toNat < 8))) = false := by
    rcases h with rfl | ⟨hlow, hhigh⟩
    · rfl
    · simp only [Bool.or_eq_false_iff, Bool.and_eq_false_iff, decide_eq_false_iff_not]
      omega
  rw [selMCheck, hlegal]; rfl

/-- A legal selector gives the trigger the mask that stood as the bundle opened. -/
theorem selMVal_eq_maskSel (h : MaskSelOk x) (src unit : Nat) :
    selMVal (portWritten st src unit) (operands st unit src) x = maskSel st x := by
  rw [selMVal, maskSel, operands_core, issueOf_portWritten]
  rcases h with rfl | ⟨hlow, hhigh⟩
  · rfl
  · rw [show x.toNat % 8 = x.toNat - 8 by omega]

/-- A mask operation on two legal selectors: mand, mor (R163). -/
theorem vaMask_two_completes {f : Word → Word → Word} (hready : SlotReady st n g s.toNat)
    (ha : MaskSelOk (operands st (4 + u.toNat) s.toNat).a) (hb : MaskSelOk (operands st (4 + u.toNat) s.toNat).b) :
    runTrigger (vaMask u true f) low n g s st =
      .next (afterTrigger st s.toNat (4 + u.toNat) (resultTo st (0x0F4 + 2 * u.toNat)
        (.s (f (maskSel st (operands st (4 + u.toNat) s.toNat).a) (maskSel st (operands st (4 + u.toNat) s.toNat).b))) 0 2)) := by
  refine vaMaskOp_completes hready ?_ ?_
  · rw [selMCheck_ok ha, if_pos rfl, selMCheck_ok hb, Check.andThen]
  · rw [selMVal_eq_maskSel ha, selMVal_eq_maskSel hb]

/-- A mask operation on one legal selector, whatever port b holds: mnot (R163). -/
theorem vaMask_one_completes {f : Word → Word} (hready : SlotReady st n g s.toNat)
    (ha : MaskSelOk (operands st (4 + u.toNat) s.toNat).a) :
    runTrigger (vaMask u false fun x _ => f x) low n g s st =
      .next (afterTrigger st s.toNat (4 + u.toNat) (resultTo st (0x0F4 + 2 * u.toNat)
        (.s (f (maskSel st (operands st (4 + u.toNat) s.toNat).a))) 0 2)) := by
  refine vaMaskOp_completes hready ?_ ?_
  · rw [selMCheck_ok ha]; rfl
  · rw [selMVal_eq_maskSel ha]

end Masks

/-- Settles O32: the rows of R153 and R154 by the completion of a lanewise operation and the lemma that gives the lane's result
(those closed by `rfl` the model computes as the table writes them), then fsel, bcast and lane, and the mask operations. -/
theorem vectorIntegerResults : Obligations.VectorIntegerResults := by
  intro st n g s u hready
  simp only [vaIntRows, vaIcmpRows, List.forall_mem_cons]
  have row {low : Nat} {f : Lane → Lane → Lane} {r : Nat → Lane} :=
    vaInt_completes (low := low) (u := u) (f := f) (r := r) hready
  have compare {low : Nat} {f : Lane → Lane → Bool} {r : Nat → Bool} :=
    vaIcmp_completes (low := low) (u := u) (f := f) (r := r) hready
  refine ⟨⟨row fun _ => BitVec.add_def .., row fun _ => laneSub_eq_ofInt .., -- iadd, isub
    row fun _ => BitVec.mul_def .., row fun _ => rfl, -- imul, imulh
    row fun _ => rfl, row fun _ => rfl, row fun _ => rfl, -- iand, ior, ixor
    row fun _ => laneShl_eq_ofNat .., row fun _ => laneShr_eq_ofNat .., row fun _ => laneSar_eq_ofInt .., -- ishl, ishr, isar
    row fun _ => select_second_eq_select_first Int.not_lt ..,
    row fun _ => select_second_eq_select_first Int.not_lt .., -- imin, imax
    row fun _ => select_second_eq_select_first Nat.not_lt ..,
    row fun _ => select_second_eq_select_first Nat.not_lt .., -- iminu, imaxu
    List.forall_mem_nil _⟩,
    ⟨compare fun _ => rfl, compare fun _ => rfl, compare fun _ => rfl, List.forall_mem_nil _⟩, -- icmp.eq, icmp.lt, icmp.ltu
    fun hd => ?fsel, fun hb => ⟨?bcast, ?lane⟩, fun ha => vaMask_one_completes hready ha,
    fun ha hb => ⟨vaMask_two_completes hready ha hb, vaMask_two_completes hready ha hb⟩⟩
  case fsel =>
    refine vaOp_completes hready (selMCheck_ok hd 3) ?_
    rw [selMVal_eq_maskSel hd]
    exact lanewise_noFlags _
  case bcast => exact vaOp_completes hready (illctlIf_lane_ok hb ..) (congrArg (·, 0) (splat_eq_lanes _))
  case lane => exact vaOp_completes hready (illctlIf_lane_ok hb ..) (lanewise_noFlags _)

end Sys2Proof.Machine
end
